-- ==== Sys2Proof/Word.lean ====
section
/-!
DEFINITION. The plainest types of the model: bytes and the sparse tables that hold every indexed
piece of state. Operations on them stand in Machine/Tables.lean and Machine/Bits.lean.
-/
namespace Sys2Proof

/-- One byte. -/
abbrev Byte := BitVec 8

/-- A sparse table: (key, value) pairs with strictly rising keys. A key that is not listed holds the
table's default, and no listed value equals the default, so equal tables are equal lists. -/
abbrev Tbl (α : Type) := List (Nat × α)

/-- A byte memory: a sparse table of bytes, as a list of `Host.Cell`s. -/
abbrev Memory := Tbl Byte

end Sys2Proof
end

