-- ==== Sys2Proof/Syntax.lean ====
section
/-!
DEFINITION. The commands of the BX1040: one constructor of `Instr` per row of
spec/opcode_table.json, with the operands the row's event carries.

The tile is modelled as a block. A command is an event that reaches it: a register write, a step that
one of its own engines takes, a flit, a management message, a pin or rail edge. What the tile does
with it is the command's meaning under Sys2Proof/Machine. Where a command stands for a step of an
engine, its operands carry only what the outside world decides there (what a host read answers, which
transient fault is met); all else comes from the state.
-/
namespace Sys2Proof

/-- Who makes a register access, and through what (16_register_map R350, R351; 14 R315 to R317). -/
inductive Agent where
  | pf                 -- plot 0 software, through the physical function's BAR0/1
  | vf (p : Nat)       -- the driver of plot p, through virtual function p's BAR0/1
  | core (c : Nat)     -- Chimney core c
  | coreRead (c : Nat) -- Chimney core c, reading
  | cfg (fn : Nat)     -- host software, in the configuration space of function fn
  | bar2               -- host software, in the physical function's BAR2/3
  | bar4 (fn : Nat)    -- host software, in function fn's BAR4/5
  deriving DecidableEq, Repr

/-- What the host answers to a request that the tile makes (R139, R321, R322, R324). -/
inductive HostResp where
  /-- The bytes from the request's first address on, through the Scuttle that of its first line; missing bytes are 0.
  `pages` are the host physical pages that the translation requests which it needed were answered, in the order
  asked; a missing one is page 0. -/
  | data (bytes : List Byte) (pages : List Nat := [])
  | error                      -- an error completion, or a refusal by the IOMMU
  | timeout                    -- no completion within the Completion Timeout
  | poison                     -- poisoned data
  deriving DecidableEq, Repr

/-- A transient fault that a Hearth pass meets (R59, R181). -/
inductive PassFault where
  | none
  | parity (q : Nat)     -- a weight-parity mismatch in Firebox q
  | lockstep (n : Nat)   -- follower Stoker n differs from Stoker 0
  deriving DecidableEq, Repr

/-- A unit, or one stored word, that fails in service (R342, R343; R92, R123, R126 for words). -/
inductive FailUnit where
  | bank (b : Nat)
  | stack (s : Nat)
  | flueHalf (h : Nat)
  | stats
  | basinWord (w : Nat)             -- the check bits of a 64-bit Basin word become uncorrectable
  | hbmWord (w : Nat)
  | slotEntry (s i : Nat)           -- entry i of Ashpan slot s
  | tableBank (n b : Nat)           -- bank b of user table slot n
  deriving DecidableEq, Repr

/-- What a read of stored words meets: the patrol scrubber's (R124), or CH0's of the record memory (R280). -/
inductive ScrubFind where
  | clean
  | corrected
  | uncorrectable
  deriving DecidableEq, Repr

/-- The strap levels sampled at PWROK rising and at the release of HRST_L (R336). -/
structure Straps where
  hostMode : BitVec 2
  tileId : BitVec 3
  bootSrc : Bool
  deriving DecidableEq, Repr

/-- The choices that the manual leaves to the governor's policy (R230, R385). -/
structure GovChoice where
  level : BitVec 3                     -- the HCLK level wanted
  target : BitVec 28                   -- PI_DOM_TARGET
  ign : List (Nat × BitVec 14)         -- PI_PLOT_IGN of the plots named
  power : BitVec 10                    -- last 1 ms average of module power, W
  capBelowMin : Bool                   -- the power cap cannot be held at CLK_MIN
  mode : Option Bool                   -- an engine mode wanted, through Table 8-3
  deriving DecidableEq, Repr

/-- A Canal flit, the 256 bytes of Table 13-1 by field. `payload` holds the first of the 240 PAYLOAD bytes, and those
that it does not list are 0. -/
structure Flit where
  type : BitVec 8
  src : BitVec 3
  dst : BitVec 3
  reserved1 : BitVec 2 := 0
  arg : BitVec 32
  payload : List Byte
  len : BitVec 16 := BitVec.ofNat 16 payload.length
  seq : BitVec 12
  reserved248 : BitVec 4 := 0
  ack : BitVec 12
  nak : Bool
  seqValid : Bool
  reserved250 : BitVec 2 := 0
  crc : BitVec 32 := 0
  deriving DecidableEq, Repr

/-- The access that met a Completion Timeout (R188, R322). -/
inductive TimedOut where
  | ringFetch (f : Nat)
  | snapshot (f : Nat)
  | segment (c : Nat)
  deriving DecidableEq, Repr

/-- The end of a core's restart: the core, and the firing lists whose registration fails its check there (R252). -/
structure RestartEnd where
  core : Nat
  lost : List Nat
  deriving DecidableEq, Repr

/-- What a record write meets: the read of the snapshot in the record memory, and calibration values that changed since
the last write (R260, R280). -/
structure RecordInput where
  found : ScrubFind
  cal : Option (List Byte)
  deriving DecidableEq, Repr

/-- A firmware package of PLDM: the component's identifier (R328), and its image. -/
structure Package where
  comp : BitVec 16
  image : List Byte
  deriving DecidableEq, Repr

/-- The commands. `f` is a global furrow index, `p` a plot, `d` a scheduling domain of Table 8-1
(0 HEARTH, 1 to 4 FB0 to FB3, 5 FLUE, 6 SLUICE), `c` a Sluice channel or a core, `n` a port or source. -/
inductive Instr where
  -- Furrows, rings, descriptors (chapter 7)
  | doorbell (p i : Nat) (tail : BitVec 16)
  | furrowArm (a : Agent) (f : Nat) (v : BitVec 32)
  | furrowDisarm (a : Agent) (f : Nat) (v : BitVec 32)
  | descriptorFetch (f : Nat) (r : HostResp)
  | nop (f : Nat)
  | fence (f : Nat)
  | record (f : Nat)
  | wait (f : Nat)
  | lease (f : Nat)
  | release (f : Nat)
  -- Hearth, Ashpan, Flue (chapters 3 to 5)
  | gemm (f : Nat)
  | passStart (d rows : Nat) (flt : PassFault)
  | slotRowReadout (d : Nat)
  | flueElementwise (f rows : Nat)
  | flueTableFunction (f rows : Nat)
  | flueGated (f rows : Nat)
  | flueNorm (f rows : Nat)
  | flueSoftmax3 (f rows : Nat)
  | flueSoftmax2 (f rows : Nat)
  -- Sluices and slot transfers (chapters 4, 6)
  | sluiceMove (f : Nat)
  | sluiceSegment (c : Nat) (r : HostResp)
  | slotRead (f : Nat)
  | slotWrite (f : Nat)
  | slotSave (f : Nat)
  | slotRestore (f : Nat)
  | invoke (f : Nat) (r : List HostResp)
  | spawn (f : Nat)
  | park (f : Nat)
  | tableLoad (f : Nat)
  | tableLoadSwap (n : Nat)
  -- Plots (chapter 9), governor limits (chapter 10)
  | plotCreate (f : Nat)
  | plotAssign (f : Nat)
  | plotReset (f : Nat)
  | plotQuarantine (f : Nat)
  | plotTeardown (f : Nat)
  | windowMap (f : Nat)
  | governorSet (f : Nat)
  -- Completion and scheduling (chapters 7, 8)
  | operationComplete (f : Nat) (ticket : BitVec 48)
  | failClear (p i : Nat)
  | schedCommit (a : Agent) (v : BitVec 32)
  | roundBoundary (d : Nat)
  | sliceExpire (d : Nat)
  | resume (d : Nat)
  | hearthHold (a : Agent) (v : BitVec 32)
  | ctxSave (a : Agent) (n : Nat)
  | ctxRestore (a : Agent) (n : Nat)
  | ctxDiscard (a : Agent) (n : Nat)
  | modeCtlWrite (a : Agent) (v : BitVec 32)
  | modeChange
  | gaugeSpan (f : Nat)
  | stallScan
  | gaugeEnWrite (a : Agent) (v : BitVec 32)
  | fastEnWrite (a : Agent) (v : BitVec 32)
  -- Mailbox and firmware services (chapter 11)
  | mbReqDb (p : Nat) (seq : BitVec 16)
  | hello (p : Nat)
  | queryCaps (p : Nat)
  | armFurrow (p : Nat)
  | disarmFurrow (p : Nat)
  | listRegister (p : Nat)
  | listUnregister (p : Nat)
  | listReside (p : Nat)
  | stateCreate (p : Nat)
  | stateDestroy (p : Nat)
  | coreRestart (p : Nat)
  | svnCommit (p : Nat)
  | schedSet (p : Nat)
  | invokeAdmit (f : Nat)
  | batchClose (p l : Nat) (r : List HostResp)
  | residencyCopy (p l : Nat)
  | residencyRelease (p l : Nat)
  | coreRestartCmd (a : Agent) (v : BitVec 32)
  | wdogPet (a : Agent) (c : Nat)
  | wdogExpiry (c : Nat)
  | unhandledTrap (c : Nat)
  | coreRestartDone (e : RestartEnd)
  | persistentRecordWrite (i : RecordInput) (ok1 ok2 : Bool)
  -- Smokebox (chapter 12)
  | smokeboxEvent (n : Nat) (plot : Option Nat) (unit : Nat)
  | unitFailsInService (u : FailUnit)
  | countWindowClose (n : Nat)
  | graceExpiry
  | sbAck (a : Agent) (v : BitVec 32)
  | sbForceSmoke (a : Agent)
  | sbForceHgStop (a : Agent)
  | sbStatusClear (a : Agent) (bits : BitVec 64)
  | smokeToggle
  | registerWrite (a : Agent) (addr size : Nat) (v : BitVec 64)
  -- Power, clocks, thermal (chapter 10)
  | domainWakeComplete (d : Nat)
  | domainStepDown (d : Nat)
  | scuttleFlush
  | governorTick (g : GovChoice)
  | hclkChange
  | thermalSample (t : Int)
  | thermalTrip (t : Int)
  | refLoss
  | refLock
  | timeAdj (a : Agent) (n : BitVec 48)
  | ptmTrigger (a : Agent)
  | ptmPeriod
  | ptmDialogueDone (hostTime : Option (BitVec 64))
  | patrolScrub (r : ScrubFind)
  -- Resets, start-up, rails (chapters 15, 17)
  | powerUp (st : Straps)
  | hrstL
  | powerDown
  | ioRailLoss
  | vaux12Loss
  | bootVerify
  | bringUp (failed : BitVec 128)
  | warmReset
  | recoveryImage (pkg : Package)
  | pldmFirmwareUpdate (pkg : Package)
  | firmwareActivate
  -- Management (chapter 14)
  | mctpControl (cmd : BitVec 8) (mtype : BitVec 8)
  | setEndpointId (eid : BitVec 8)
  | pldmMonitoring (sensor : Nat)
  | spdmGetCertificate (slot off len : Nat)
  | spdmChallenge (nonce : List Byte)
  | spdmGetMeasurements (index : Nat) (nonce : List Byte)
  | entdaa (addr : BitVec 7)
  | setdasa (addr : BitVec 7)
  | rstdaa
  -- Host port (chapters 6, 14)
  | cxlMemRead (hpa : Nat)
  | cxlMemWrite (hpa : Nat) (bytes : List Byte)
  | cxlCacheSnoop (addr : Nat)
  | atsInvalidation (p addr size : Nat)
  | hdmCommit (base size ways skip : Nat) (lock : Bool)
  | vfFlr (p : Nat)
  | pfFlr
  | hotReset
  | linkDisable
  | dlDown
  | busMasterDisable (fn : Nat)
  | vfRemove (numVfs : Nat)
  | ucieModuleFail (m : Nat)
  | linkUp (lanes : BitVec 8) (rate : BitVec 3) (cxl : Bool) (modules : BitVec 4)
  | completionTimeout (t : TimedOut)
  -- Canals and gangs (chapter 13)
  | cnPortEnable (a : Agent) (n : Nat) (v : BitVec 32)
  | cnPortRetrain (a : Agent) (n : Nat)
  | train (n : Nat) (fl : Flit)
  | idle (n : Nat) (fl : Flit)
  | nak (n : Nat) (fl : Flit)
  | replayTimeout (n : Nat)
  | retrainTimeout (n : Nat)
  | gangForm (a : Agent)
  | gangLeave (a : Agent)
  | gangMeasure (a : Agent)
  | form (n : Nat) (fl : Flit)
  | formReply (n : Nat) (fl : Flit)
  | formDone (n : Nat) (fl : Flit)
  | formRefuse (n : Nat) (fl : Flit)
  | timeReq (n : Nat) (fl : Flit)
  | timeResp (n : Nat) (fl : Flit)
  | collBegin (n : Nat) (fl : Flit)
  | collData (n : Nat) (fl : Flit)
  | collResult (n : Nat) (fl : Flit)
  | collEnd (n : Nat) (fl : Flit)
  | collAbort (n : Nat) (fl : Flit)
  | leave (n : Nat) (fl : Flit)
  | collectivePhaseC (f : Nat)
  -- Rows that the table lists last
  | hrstLRelease (st : Straps)
  | vaux12InRange
  | vflashLoss
  | vflashReturn
  | tracePortEnable (v : Bool)
  | flitCrcError (n : Nat)
  | reservedFlitType (n : Nat) (fl : Flit)
  | flitForward (n : Nat) (fl : Flit)
  | canalPhyTrainingEnd (n : Nat) (width8 : Bool)
  | hdmDecoderUncommit
  | vfEnable (numVfs : Nat)
  | doeCdatRead
  | pldmBaseDiscovery
  | spdmNegotiation
  | badTypeRequest (p : Nat)
  | snapshotTaken (f : Nat) (r : HostResp)
  deriving DecidableEq, Repr

end Sys2Proof
end

