-- ==== Sys2Proof/Machine/Bits.lean ====
section
/-!
DEFINITION. Bit fields, byte order, counters and CRC-32C (00_scope R6, R288).
-/
namespace Sys2Proof

/-- Bits [lo + w - 1 : lo] of a number. -/
def bitField (v lo w : Nat) : Nat := (v >>> lo) % 2 ^ w

/-- Bit [i] of a number. -/
def bitAt (v i : Nat) : Bool := bitField v i 1 == 1

/-- A number's value as `w`-bit two's complement. -/
def toSigned (w v : Nat) : Int := if v % 2 ^ w < 2 ^ (w - 1) then ↑(v % 2 ^ w) else ↑(v % 2 ^ w) - 2 ^ w

/-- The `w`-bit two's-complement image of an integer. -/
def ofSigned (w : Nat) (v : Int) : Nat := (v % (2 ^ w : Int)).toNat

/-- The number that little-endian bytes spell (R6). -/
def leNat : List Byte → Nat
  | [] => 0
  | b :: bs => b.toNat + 256 * leNat bs

/-- The `n` little-endian bytes of a number. -/
def natLe : Nat → Nat → List Byte
  | 0, _ => []
  | n + 1, v => BitVec.ofNat 8 v :: natLe n (v / 256)

/-- The little-endian field of `n` bytes at byte `off`; bytes past the end read 0. -/
def leAt (bs : List Byte) (off n : Nat) : Nat := leNat ((bs.drop off).take n)

/-- The field of `w` bits at bit `lo` of the byte `off`. -/
def byteField (bs : List Byte) (off lo w : Nat) : Nat := bitField (leAt bs off 1) lo w

/-- 1 or 0. -/
def b2n (b : Bool) : Nat := if b then 1 else 0

/-- A bit vector from a number. -/
abbrev bv (w v : Nat) : BitVec w := BitVec.ofNat w v

/-- One added to a counter that wraps. -/
def incWrap {w : Nat} (x : BitVec w) : BitVec w := x + 1

/-- `n` added to a counter that holds at its maximum. -/
def addHold {w : Nat} (x : BitVec w) (n : Nat) : BitVec w :=
  if x.toNat + n < 2 ^ w then bv w (x.toNat + n) else BitVec.allOnes w

/-- One added to a counter that holds at its maximum. -/
def incHold {w : Nat} (x : BitVec w) : BitVec w := addHold x 1

/-- Bit `i` of a vector set to `b`. -/
def setBit {w : Nat} (x : BitVec w) (i : Nat) (b : Bool) : BitVec w :=
  if b then x ||| (1#w <<< i) else x &&& ~~~(1#w <<< i)

/-- How many of bits 0 to `n - 1` of a number are 1. -/
def popCount (v : Nat) : Nat → Nat
  | 0 => 0
  | n + 1 => popCount v n + b2n (bitAt v n)

/-- The indexes below `n` whose bit of `v` is 1, rising. -/
def bitList (v n : Nat) : List Nat := (List.range n).filter fun i => bitAt v i

/-- One CRC-32C step over a bit, in the reflected form. -/
def crcBit (c : BitVec 32) : BitVec 32 :=
  if c.getLsbD 0 then (c >>> 1) ^^^ 0x82F63B78#32 else c >>> 1

/-- CRC-32C over one byte. -/
def crcByte (c : BitVec 32) (b : Byte) : BitVec 32 :=
  crcBit (crcBit (crcBit (crcBit (crcBit (crcBit (crcBit (crcBit (c ^^^ b.setWidth 32))))))))

/-- CRC-32C over bytes. Both branches say the same: the test makes an evaluation take the bytes one by one. -/
def crcRun : List Byte → BitVec 32 → BitVec 32
  | [], c => c
  | b :: bs, c => if crcByte c b = 0 then crcRun bs 0 else crcRun bs (crcByte c b)

/-- CRC-32C of a byte string: the Castagnoli polynomial, reflected, with initial and final inversion. -/
def crc32c (bs : List Byte) : BitVec 32 := ~~~(crcRun bs 0xFFFFFFFF#32)

/-- Bytes replaced from offset `off` on. -/
def putBytes (bs : List Byte) (off : Nat) (new : List Byte) : List Byte :=
  bs.take off ++ new ++ bs.drop (off + new.length)

/-- A byte list padded with zeros, or cut, to `n` bytes. -/
def padTo (n : Nat) (bs : List Byte) : List Byte := bs.take n ++ List.replicate (n - bs.length) 0

/-- The least multiple of `k` not below `n`. -/
def roundUp (n k : Nat) : Nat := (n + k - 1) / k * k

/-- Whether two byte ranges (first byte, length) share a byte. -/
def overlaps (a n b m : Nat) : Bool := decide (n ≠ 0) && decide (m ≠ 0) && decide (a < b + m) && decide (b < a + n)

end Sys2Proof
end

