-- ==== Sys2Proof/Machine/Num.lean ====
section
/-!
DEFINITION. Exact arithmetic behind the number formats: dyadic rationals, rounding to nearest with ties
to even, base-2 logarithms and powers decided by interval arithmetic (02_log_formats R34, R38).
-/
namespace Sys2Proof

/-- The dyadic rational m * 2^e. -/
structure Dy where
  m : Int
  e : Int
  deriving DecidableEq, Repr

/-- The integer by which `m` is multiplied to carry exponent `e` down to `e'`, for e' not above e. -/
def shiftUp (m : Int) (e e' : Int) : Int := m * 2 ^ (e - e').toNat

def dyNeg (x : Dy) : Dy := ⟨-x.m, x.e⟩

def dyAdd (x y : Dy) : Dy :=
  let e := if x.e ≤ y.e then x.e else y.e
  ⟨shiftUp x.m x.e e + shiftUp y.m y.e e, e⟩

def dySub (x y : Dy) : Dy := dyAdd x (dyNeg y)

def dyMul (x y : Dy) : Dy := ⟨x.m * y.m, x.e + y.e⟩

/-- Less than, on values. -/
def dyLt (x y : Dy) : Bool := decide ((dySub x y).m < 0)

def dyIsZero (x : Dy) : Bool := decide (x.m = 0)

/-- Same value. -/
def dyEq (x y : Dy) : Bool := dyIsZero (dySub x y)

/-- n / d rounded to nearest, ties to even. -/
def rneDiv (n d : Nat) : Nat :=
  let q := n / d
  let r := n % d
  if 2 * r < d then q else if 2 * r > d then q + 1 else if q % 2 = 0 then q else q + 1

/-- The same for a signed numerator. -/
def rneDivInt (n : Int) (d : Nat) : Int :=
  if n < 0 then -(rneDiv n.natAbs d : Int) else (rneDiv n.natAbs d : Int)

/-- x / 2^q rounded to the nearest integer, ties to even. -/
def rneDy (x : Dy) (q : Int) : Int :=
  if q ≤ x.e then shiftUp x.m x.e q else rneDivInt x.m (2 ^ (q - x.e).toNat)

/-- x / 2^q truncated toward zero. -/
def truncDy (x : Dy) (q : Int) : Int :=
  if q ≤ x.e then shiftUp x.m x.e q
  else
    let k := x.m.natAbs / 2 ^ (q - x.e).toNat
    if x.m < 0 then -(k : Int) else (k : Int)

/-- floor(log2 |x|) of a nonzero dyadic. -/
def dyExp (x : Dy) : Int := (Nat.log2 x.m.natAbs : Int) + x.e

/-- The integer square root, by Newton's descent from above. -/
def isqrtGo : Nat → Nat → Nat → Nat
  | 0, _, x => x
  | fuel + 1, n, x =>
    let y := (x + n / x) / 2
    if y < x then isqrtGo fuel n y else x

/-- floor(sqrt n). -/
def isqrt (n : Nat) : Nat :=
  if n = 0 then 0 else isqrtGo (Nat.log2 n + 2) n (2 ^ (Nat.log2 n / 2 + 1))

/-- n / 2^k rounded up. -/
def ceilShift (n k : Nat) : Nat := (n + 2 ^ k - 1) / 2 ^ k

/-- Bits of the fraction of log2 y, y in [lo, hi] / 2^P, by repeated squaring; none when the interval
straddles a digit boundary. -/
def log2Bits (P : Nat) : Nat → Nat → Nat → Nat → Option Nat
  | 0, _, _, acc => some acc
  | n + 1, lo, hi, acc =>
    let lo2 := lo * lo / 2 ^ P
    let hi2 := ceilShift (hi * hi) P
    if 2 ^ (P + 1) ≤ lo2 then log2Bits P n (lo2 / 2) (ceilShift hi2 1) (2 * acc + 1)
    else if hi2 < 2 ^ (P + 1) then log2Bits P n lo2 hi2 (2 * acc)
    else none

/-- 25 fraction bits of log2 m at working precision `P`. -/
def log2Frac (P m : Nat) : Option Nat :=
  let b := Nat.log2 m
  let lo := if b ≤ P then m * 2 ^ (P - b) else m / 2 ^ (b - P)
  let hi := if b ≤ P then lo else ceilShift m (b - P)
  log2Bits P 25 lo hi 0

/-- log2 (m * 2^e) in units of 2^-24, rounded to nearest, for m > 0 (R38: the step never ties). -/
def log2Lam (m : Nat) (e : Int) : Int :=
  let b := Nat.log2 m
  let base := ((b : Int) + e) * 2 ^ 24
  if m = 2 ^ b then base
  else
    let f := (log2Frac 256 m).getD ((log2Frac 1024 m).getD ((log2Frac 8192 m).getD 0))
    base + ((f + 1) / 2 : Nat)

/-- Lower and upper bounds of 2^(1/2^j) * 2^P, for j = n, n - 1, ..., from those of j - 1 on. -/
def rootStep (P : Nat) (r : Nat × Nat) : Nat × Nat :=
  (isqrt (r.1 * 2 ^ P), isqrt (r.2 * 2 ^ P) + 1)

/-- Bounds of 2^(k/2^p) * 2^P: `n` bits of `k` are left, the highest first; `r` bounds the current root. -/
def pow2Go (P k : Nat) : Nat → Nat × Nat → Nat × Nat → Nat × Nat
  | 0, _, acc => acc
  | n + 1, r, acc =>
    let r' := rootStep P r
    pow2Go P k n r' (if bitAt k n then (acc.1 * r'.1 / 2 ^ P, ceilShift (acc.2 * r'.2) P) else acc)

/-- Bounds of 2^(k/2^p) * 2^P for k < 2^p. -/
def pow2Bounds (P k p : Nat) : Nat × Nat := pow2Go P k p (2 ^ (P + 1), 2 ^ (P + 1)) (2 ^ P, 2 ^ P)

/-- Working precision of the powers of two. -/
def powP : Nat := 192

/-- 2^(n/2^p) / 2^q rounded to the nearest integer; the only tie is an exact power of two. -/
def powRound (n : Int) (p : Nat) (q : Int) : Nat :=
  let e := n / 2 ^ p
  let f := (n % 2 ^ p).toNat
  if f = 0 then (if q ≤ e then 2 ^ (e - q).toNat else 0)
  else
    let lo := (pow2Bounds powP f p).1
    let sh := (powP : Int) - (e - q)
    if sh ≤ 0 then lo * 2 ^ (-sh).toNat
    else if sh > powP + 2 then 0
    else (lo + 2 ^ (sh.toNat - 1)) / 2 ^ sh.toNat

end Sys2Proof
end

