-- ==== Sys2Proof/Machine/LogFormats.lean ====
section
/-!
DEFINITION. The logarithmic formats L8, L16, L32, the weight-only formats, and the conversions and
code arithmetic over them (02_log_formats.md, R26 to R45).
-/
namespace Sys2Proof

/-- A number format of Table 2-1. -/
inductive Fmt where
  | l8 | l16 | l32 | l4 | w1 | w2 | w2z | fp32 | bf16 | fp16 | e4m3 | e5m2
  deriving DecidableEq, Repr

/-- The format of a 4-bit code; codes 0x7 and 0xD to 0xF are reserved (R26). -/
def Fmt.ofCode : Nat → Option Fmt
  | 0 => some .l8 | 1 => some .l16 | 2 => some .l32 | 3 => some .l4 | 4 => some .w1 | 5 => some .w2
  | 6 => some .w2z | 8 => some .fp32 | 9 => some .bf16 | 10 => some .fp16 | 11 => some .e4m3
  | 12 => some .e5m2 | _ => none

/-- Bits per element (Table 2-1). -/
def Fmt.bits : Fmt → Nat
  | .l8 => 8 | .l16 => 16 | .l32 => 32 | .l4 => 4 | .w1 => 1 | .w2 => 2 | .w2z => 2
  | .fp32 => 32 | .bf16 => 16 | .fp16 => 16 | .e4m3 => 8 | .e5m2 => 8

/-- Legal as a tensor operand or result. -/
def Fmt.isL : Fmt → Bool
  | .l8 | .l16 | .l32 => true
  | _ => false

/-- Legal as a Hearth weight. -/
def Fmt.isWeight : Fmt → Bool
  | .l8 | .l16 | .l32 | .l4 | .w1 | .w2 | .w2z => true
  | _ => false

/-- Legal on the edge side of a Sluice. -/
def Fmt.isEdge : Fmt → Bool
  | .fp32 | .bf16 | .fp16 | .e4m3 | .e5m2 => true
  | _ => false

/-- Bytes per element of a format of whole bytes. -/
def Fmt.size (f : Fmt) : Nat := f.bits / 8

/-- The parameters of an L format (Table 2-2). `u` is the exponent of the subnormal step. -/
structure LPar where
  p : Nat
  b : Int
  k : Int
  m : Int
  inf : Nat
  nan : Nat
  bits : Nat
  u : Option Int
  deriving DecidableEq, Repr

def parL8 : LPar := ⟨3, 68, 4, 125, 126, 127, 8, some (-10)⟩
def parL16 : LPar := ⟨9, 16392, 8, 32765, 32766, 32767, 16, some (-35)⟩
def parL32 : LPar := ⟨22, 2 ^ 30, 1, 2 ^ 31 - 3, 2 ^ 31 - 2, 2 ^ 31 - 1, 32, none⟩

/-- The parameters of an L format; a format that is none reads as L8's. -/
def Fmt.par : Fmt → LPar
  | .l16 => parL16
  | .l32 => parL32
  | _ => parL8

/-- A decoded element: a special, or a finite nonzero code with its sign. -/
inductive LVal where
  | nan
  | inf (s : Bool)
  | zero (s : Bool)
  | fin (s : Bool) (c : Nat)
  deriving DecidableEq, Repr

/-- The sign of an element; a NaN carries none (R29). -/
def LVal.sign : LVal → Bool
  | .nan => false
  | .inf s => s
  | .zero s => s
  | .fin s _ => s

/-- Decoding of an L element (R28, R29). -/
def lDecode (f : LPar) (v : Nat) : LVal :=
  let s := bitAt v (f.bits - 1)
  let c := v % 2 ^ (f.bits - 1)
  if c = f.nan then .nan else if c = f.inf then .inf s else if c = 0 then .zero s else .fin s c

/-- The image of a sign and an unsigned code. -/
def lCode (f : LPar) (s : Bool) (c : Nat) : Nat := b2n s * 2 ^ (f.bits - 1) + c

/-- The image of an element; a NaN is the canonical one (R29). -/
def lEncode (f : LPar) : LVal → Nat
  | .nan => f.nan
  | .inf s => lCode f s f.inf
  | .zero s => lCode f s 0
  | .fin s c => lCode f s c

/-- Whether a finite code is subnormal. -/
def isSub (f : LPar) (c : Nat) : Bool := decide ((c : Int) < f.k)

/-- T8, the L8 conversion table (Table 2-7). -/
def t8 : Nat → Nat
  | 0 => 0x800000 | 1 => 0x8B95C2 | 2 => 0x9837F0 | 3 => 0xA5FED7
  | 4 => 0xB504F3 | 5 => 0xC5672A | 6 => 0xD744FD | _ => 0xEAC0C7

/-- rne(2^(k/2^p) * 2^q), for k < 2^p (Table 2-6). -/
def expEntry (k p q : Nat) : Nat := powRound k p (-(q : Int))

/-- The significand and its width in a working scale (Table 2-6). -/
def significand (f : LPar) (i : Nat) : Nat × Nat :=
  if f.bits = 8 then (t8 i, 24)
  else if f.bits = 16 then (expEntry i 9 23, 24)
  else (rneDiv (expEntry (i / 2 ^ 11) 11 47 * expEntry (i % 2 ^ 11) 22 47) (2 ^ 47), 48)

/-- Log-to-linear conversion of a working-scale code (R34). -/
def logToLinear (f : LPar) (t : Int) : Dy :=
  let d := t - f.b
  let i := d / 2 ^ f.p
  let sw := significand f (d % 2 ^ f.p).toNat
  ⟨(sw.1 : Int), i - ((sw.2 : Int) - 1)⟩

/-- The exact magnitude of a finite code in its own format (R34, last point). -/
def lMag (f : LPar) (c : Nat) : Dy :=
  match f.u with
  | some u => if isSub f c then ⟨(c : Int), u⟩ else logToLinear f c
  | none => logToLinear f c

/-- A linear or logarithmic value to be converted (R38, R41, R42). `pow s n p` is ± 2^(n/2^p). -/
inductive Src where
  | nan
  | inf (s : Bool)
  | zero (s : Bool)
  | dy (s : Bool) (m : Nat) (e : Int)
  | pow (s : Bool) (n : Int) (p : Nat)
  deriving DecidableEq, Repr

/-- A dyadic value as a source; a zero takes the sign given. -/
def Src.ofDy (zs : Bool) (x : Dy) : Src :=
  if x.m = 0 then .zero zs else .dy (decide (x.m < 0)) x.m.natAbs x.e

/-- An L element as a source: a normal code's logarithm is exact (R38). -/
def Src.ofL (f : LPar) : LVal → Src
  | .nan => .nan
  | .inf s => .inf s
  | .zero s => .zero s
  | .fin s c =>
    match f.u with
    | some u => if isSub f c then .dy s c u else .pow s ((c : Int) - f.b) f.p
    | none => .pow s ((c : Int) - f.b) f.p

/-- log2 of a finite source's magnitude in units of 2^-24 (R38). -/
def Src.lam : Src → Int
  | .dy _ m e => log2Lam m e
  | .pow _ n p => n * 2 ^ (24 - p)
  | _ => 0

/-- log2 of the magnitude in code steps of 2^-p, ties to even (R38, R39). -/
def Src.steps (x : Src) (p : Nat) : Int := rneDivInt (x.lam * 2 ^ p) (2 ^ 24)

/-- Whether the magnitude lies below 2^j. -/
def Src.below (x : Src) (j : Int) : Bool :=
  match x with
  | .dy _ m e => decide (dyExp ⟨m, e⟩ < j)
  | .pow _ n p => decide (n < j * 2 ^ p)
  | _ => false

/-- The magnitude over 2^q, rounded to nearest, ties to even. -/
def Src.round (x : Src) (q : Int) : Nat :=
  match x with
  | .dy _ m e => (rneDy ⟨m, e⟩ q).toNat
  | .pow _ n p => powRound n p q
  | _ => 0

/-- The sign of a source. -/
def Src.sign : Src → Bool
  | .nan => false
  | .inf s => s
  | .zero s => s
  | .dy s _ _ => s
  | .pow s _ _ => s

/-- The logarithmic branch of R38: the code, and whether saturation is recorded. -/
def roundLog (f : LPar) (x : Src) : Nat × Bool :=
  let c := x.steps f.p + f.b
  if f.m < c then (f.m.toNat, true) else if c < 1 then (0, false) else (c.toNat, false)

/-- Conversion into an L format: the image and whether saturation is recorded (R38, R39). -/
def toL (f : LPar) (x : Src) : Nat × Bool :=
  match x with
  | .nan => (f.nan, false)
  | .inf s => (lCode f s f.inf, false)
  | .zero s => (lCode f s 0, false)
  | _ =>
    match f.u with
    | some u =>
      if x.below ((f.k - f.b) / 2 ^ f.p) then (lCode f x.sign (x.round u), false)
      else let r := roundLog f x; (lCode f x.sign r.1, r.2)
    | none => let r := roundLog f x; (lCode f x.sign r.1, r.2)

/-- One L format into another, from image to image (R38). -/
def lToL (src dst : LPar) (v : Nat) : Nat × Bool := toL dst (Src.ofL src (lDecode src v))

/-- The extended code of a finite nonzero element in a working scale (R32). -/
def extCode (src work : LPar) (c : Nat) : Int :=
  match src.u with
  | some u =>
    if isSub src c then (Src.dy false c u).steps work.p + work.b
    else ((c : Int) - src.b) * 2 ^ (work.p - src.p) + work.b
  | none => ((c : Int) - src.b) * 2 ^ (work.p - src.p) + work.b

/-- The working scale's parameters: the widest of the formats named, weight-only ones counting as L8. -/
def widest (fs : List Fmt) : Fmt :=
  if fs.contains .l32 then .l32 else if fs.contains .l16 then .l16 else .l8

/-- A code-arithmetic operand: a special, or a sign and an extended code. -/
inductive Ext where
  | nan
  | inf (s : Bool)
  | zero (s : Bool)
  | fin (s : Bool) (t : Int)
  deriving DecidableEq, Repr

/-- An element carried into a working scale (R32). -/
def Ext.ofL (src work : LPar) : LVal → Ext
  | .nan => .nan
  | .inf s => .inf s
  | .zero s => .zero s
  | .fin s c => .fin s (extCode src work c)

/-- The product of two operands, with the specials of Table 2-9 (R36, R43). -/
def extMul (work : LPar) (a b : Ext) : Ext :=
  match a, b with
  | .nan, _ => .nan
  | _, .nan => .nan
  | .zero _, .inf _ => .nan
  | .inf _, .zero _ => .nan
  | .zero s, .zero s' => .zero (s != s')
  | .zero s, .fin s' _ => .zero (s != s')
  | .fin s _, .zero s' => .zero (s != s')
  | .inf s, .inf s' => .inf (s != s')
  | .inf s, .fin s' _ => .inf (s != s')
  | .fin s _, .inf s' => .inf (s != s')
  | .fin s t, .fin s' t' => .fin (s != s') (t + t' - work.b)

/-- A code-arithmetic result delivered in its own working format (R41, from its second step on). -/
def extToWork (work : LPar) : Ext → Nat × Bool
  | .nan => (work.nan, false)
  | .inf s => (lCode work s work.inf, false)
  | .zero s => (lCode work s 0, false)
  | .fin s t =>
    if work.k ≤ t ∧ t ≤ work.m then (lCode work s t.toNat, false)
    else if work.m < t then (lCode work s work.m.toNat, true)
    else toL work (.pow s (t - work.b) work.p)

/-- The same in an output format, by R38 from the working-scale result (R41, last step). -/
def extToOut (work out : LPar) (x : Ext) : Nat × Bool :=
  let r := extToWork work x
  if work.bits = out.bits then r
  else let q := lToL work out r.1; (q.1, r.2 || q.2)

/-- The value of a code-arithmetic result by R34 in the working scale, as a source. -/
def extValue (work : LPar) : Ext → Src
  | .nan => .nan
  | .inf s => .inf s
  | .zero s => .zero s
  | .fin s t => let v := logToLinear work t; .dy s v.m.toNat v.e

/-- A weight's decoded value in the L8 scale (R30, Table 2-4); L formats decode by R28. -/
def weightDecode (f : Fmt) (v : Nat) : LVal :=
  match f with
  | .w1 => .fin (bitAt v 0) 68
  | .w2 => .fin (bitAt v 1) (if bitAt v 0 then 76 else 68)
  | .w2z => if bitAt v 0 then .fin (bitAt v 1) 68 else .zero false
  | .l4 => if v % 8 = 0 then .zero (bitAt v 3) else .fin (bitAt v 3) (4 * (v % 8) + 52)
  | _ => lDecode f.par v

/-- The exact value of an element as a source for linear use (R34, last point). -/
def lLinear (f : LPar) : LVal → Src
  | .nan => .nan
  | .inf s => .inf s
  | .zero s => .zero s
  | .fin s c => let v := lMag f c; .dy s v.m.toNat v.e

/-- The signed dyadic of a finite source that is linear; specials read as 0. -/
def Src.dyad : Src → Dy
  | .dy s m e => ⟨if s then -(m : Int) else m, e⟩
  | _ => ⟨0, 0⟩

/-- An exact sum of linear values, with the specials and zero signs of R44. -/
def srcSum (xs : List Src) : Src :=
  if xs.any (· == .nan) || (xs.any (· == .inf false) && xs.any (· == .inf true)) then .nan
  else if xs.any (· == .inf false) then .inf false
  else if xs.any (· == .inf true) then .inf true
  else
    let v := xs.foldl (fun a x => dyAdd a x.dyad) ⟨0, 0⟩
    Src.ofDy (!xs.isEmpty && xs.all (· == .zero true)) v

/-- Negation of a source. -/
def Src.neg : Src → Src
  | .nan => .nan
  | .inf s => .inf (!s)
  | .zero s => .zero (!s)
  | .dy s m e => .dy (!s) m e
  | .pow s n p => .pow (!s) n p

/-- Ordered comparison of two non-NaN linear sources: is the first less than the second (R45)? -/
def srcLt (a b : Src) : Bool :=
  match a, b with
  | .nan, _ => false
  | _, .nan => false
  | .inf true, .inf true => false
  | .inf true, _ => true
  | _, .inf true => false
  | .inf false, _ => false
  | _, .inf false => true
  | _, _ => dyLt a.dyad b.dyad

/-- Equality of two sources under IEEE 754 (R45): -0 equals +0, a NaN equals nothing. -/
def srcEq (a b : Src) : Bool :=
  match a, b with
  | .nan, _ => false
  | _, .nan => false
  | .inf s, .inf s' => s == s'
  | .inf _, _ => false
  | _, .inf _ => false
  | _, _ => dyEq a.dyad b.dyad

/-- IEEE 754-2019 maximum of two elements of the same or different formats (R45). -/
def srcMax (a b : Src) : Src :=
  match a, b with
  | .nan, _ => .nan
  | _, .nan => .nan
  | .zero s, .zero s' => .zero (s && s')
  | _, _ => if srcLt a b then b else a

/-- IEEE 754-2019 minimum (R45). -/
def srcMin (a b : Src) : Src :=
  match a, b with
  | .nan, _ => .nan
  | _, .nan => .nan
  | .zero s, .zero s' => .zero (s || s')
  | _, _ => if srcLt b a then b else a

end Sys2Proof
end

