-- ==== Sys2Proof/Machine/Edge.lean ====
section
/-!
DEFINITION. The edge formats and the element conversions of a Sluice (R46 to R48, R135).
-/
namespace Sys2Proof

/-- Exponent bits, fraction bits, bias, whether infinity exists, canonical NaN, largest finite image
without sign (Table 2-10). -/
structure EdgePar where
  eb : Nat
  fb : Nat
  bias : Int
  hasInf : Bool
  nan : Nat
  maxFin : Nat
  deriving DecidableEq, Repr

def Fmt.edge : Fmt → EdgePar
  | .bf16 => ⟨8, 7, 127, true, 0x7FC0, 0x7F7F⟩
  | .fp16 => ⟨5, 10, 15, true, 0x7E00, 0x7BFF⟩
  | .e4m3 => ⟨4, 3, 7, false, 0x7F, 0x7E⟩
  | .e5m2 => ⟨5, 2, 15, true, 0x7E, 0x7B⟩
  | _ => ⟨8, 23, 127, true, 0x7FC00000, 0x7F7FFFFF⟩

/-- An edge image as an exact source (R47). -/
def edgeDecode (f : EdgePar) (v : Nat) : Src :=
  let s := bitAt v (f.eb + f.fb)
  let x := bitField v f.fb f.eb
  let m := v % 2 ^ f.fb
  let top := 2 ^ f.eb - 1
  if f.hasInf ∧ x = top then (if m = 0 then .inf s else .nan)
  else if ¬ f.hasInf ∧ x = top ∧ m = 2 ^ f.fb - 1 then .nan
  else if x = 0 then (if m = 0 then .zero s else .dy s m (1 - f.bias - f.fb))
  else .dy s (m + 2 ^ f.fb) ((x : Int) - f.bias - f.fb)

/-- floor(log2 |x|) of a finite nonzero source. -/
def Src.exp : Src → Int
  | .dy _ m e => dyExp ⟨m, e⟩
  | .pow _ n p => n / 2 ^ p
  | _ => 0

/-- A source rounded into an edge format (R48). -/
def edgeEncode (f : EdgePar) (x : Src) : Nat :=
  let sgn := b2n x.sign * 2 ^ (f.eb + f.fb)
  match x with
  | .nan => f.nan
  | .inf _ => sgn + (if f.hasInf then (2 ^ f.eb - 1) * 2 ^ f.fb else f.maxFin)
  | .zero _ => sgn
  | _ =>
    let emin := 1 - f.bias
    let e := if x.exp < emin then emin else x.exp
    let k := x.round (e - f.fb)
    let c := (e - emin).toNat * 2 ^ f.fb + k
    sgn + (if f.maxFin < c then f.maxFin else c)

/-- One element of a Sluice conversion, from image to image (R135). Saturation leaves no trace (R40). -/
def convertElem (src dst : Fmt) (v : Nat) : Nat :=
  if src.isEdge then (toL dst.par (edgeDecode src.edge v)).1
  else if dst.isEdge then edgeEncode dst.edge (Src.ofL src.par (lDecode src.par v))
  else (lToL src.par dst.par v).1

end Sys2Proof
end

