-- ==== Sys2Proof/Machine/Tables.lean ====
section
/-!
DEFINITION. Reading and writing the sparse tables of `Sys2Proof.Tbl`. The default is a function of the
key, so that a table such as the Smokebox sources can have a reset value per entry.
-/
namespace Sys2Proof

/-- The value at key `k`: the listed one, else the default. -/
def tblGet {α : Type} (d : Nat → α) : Tbl α → Nat → α
  | [], k => d k
  | (j, v) :: t, k => if j = k then v else tblGet d t k

/-- The table with key `k` at `v`, kept in canonical form. -/
def tblSet {α : Type} [DecidableEq α] (d : Nat → α) : Tbl α → Nat → α → Tbl α
  | [], k, v => if v = d k then [] else [(k, v)]
  | (j, w) :: t, k, v =>
    if k < j then (if v = d k then (j, w) :: t else (k, v) :: (j, w) :: t)
    else if k = j then (if v = d k then t else (k, v) :: t)
    else (j, w) :: tblSet d t k v

/-- The canonical form: keys strictly rise (all above `lo` when given), and no value is the default. -/
def tblWfFrom {α : Type} [DecidableEq α] (d : Nat → α) : Option Nat → Tbl α → Bool
  | _, [] => true
  | lo, (k, v) :: t =>
    (match lo with | none => true | some l => decide (l < k)) && decide (v ≠ d k)
      && tblWfFrom d (some k) t

/-- The canonical form of a whole table. -/
def tblWf {α : Type} [DecidableEq α] (d : Nat → α) (t : Tbl α) : Bool := tblWfFrom d none t

/-- Every key from `lo` to `hi - 1` back at the default. -/
def tblClear {α : Type} (lo hi : Nat) (t : Tbl α) : Tbl α :=
  t.filter fun kv => kv.1 < lo || hi ≤ kv.1

/-- The byte an unlisted address of Basin, HBM or SRAM reads as. -/
def memDefault : Nat → Byte := fun _ => 0

/-- The byte an unlisted address of flash reads as (an erased NOR byte). -/
def flashDefault : Nat → Byte := fun _ => 0xFF

/-- `n` bytes of a memory from address `a` on. -/
def memRead (d : Nat → Byte) (m : Memory) (a n : Nat) : List Byte :=
  (List.range n).map fun i => tblGet d m (a + i)

/-- The cells that bytes from address `a` on make: those that differ from the default. -/
def memCells (d : Nat → Byte) : Nat → List Byte → Memory
  | _, [] => []
  | a, b :: bs => if b = d a then memCells d (a + 1) bs else (a, b) :: memCells d (a + 1) bs

/-- Bytes written from address `a` on. -/
def memWrite (d : Nat → Byte) (m : Memory) (a : Nat) (bs : List Byte) : Memory :=
  m.filter (fun c => c.1 < a) ++ memCells d a bs ++ m.filter (fun c => a + bs.length ≤ c.1)

/-- The canonical form of a byte memory whose unlisted bytes read 0. -/
def memWf (m : Memory) : Bool := tblWf memDefault m

end Sys2Proof
end

