-- ==== Sys2Proof/Machine/Words.lean ====
section
/-!
DEFINITION. The Ashpan's words: A96 and E96, runs of 32 products, fold and combination, read-out of an
entry, and E96 arithmetic (04_ashpan R66 to R74, R83, R85).
-/
namespace Sys2Proof

/-- A slot's word kind (R79). -/
inductive WordKind where
  | unset | a96 | e96
  deriving DecidableEq, Repr

/-- What an entry or a run sum holds. A finite zero is +0; -0 and empty are classes of their own. -/
inductive Acc where
  | nan
  | inf (s : Bool)
  | empty
  | nzero
  | fin (x : Dy)
  deriving DecidableEq, Repr

/-- Reading an A96 word (R69, R71). -/
def decodeA96 (w : Nat) : Acc :=
  let v : Nat := w % 2 ^ 93
  match bitField w 93 3 with
  | 0 => if v = 2 ^ 92 then .nan else .fin ⟨toSigned 93 v, -44⟩
  | 1 => if v = 0 then .empty else .nan
  | 2 => if v = 0 then .nzero else .nan
  | 4 => if v = 0 then .inf false else .nan
  | 5 => if v = 0 then .inf true else .nan
  | _ => .nan

/-- Reading an E96 word (R70, R71). -/
def decodeE96 (w : Nat) : Acc :=
  let g : Nat := w % 2 ^ 79
  let x := bitField w 79 16
  let s := bitAt w 95
  if x = 0 then
    (if g = 0 then (if s then .nzero else .fin ⟨0, 0⟩)
     else if g = 1 ∧ s = false then .empty else .nan)
  else if x = 0xFFFF then (if g = 0 then .inf s else .nan)
  else if 2 ^ 78 ≤ g then .fin ⟨if s then -(g : Int) else g, (x : Int) - 32767 - 78⟩
  else .nan

/-- The A96 word of a content; a finite one is a multiple of 2^-44 within the range (R69). -/
def encodeA96 : Acc → Nat
  | .nan => 6 * 2 ^ 93
  | .empty => 2 ^ 93
  | .nzero => 2 * 2 ^ 93
  | .inf s => (if s then 5 else 4) * 2 ^ 93
  | .fin x => ofSigned 93 (truncDy x (-44))

/-- The E96 word of a content; a finite one has at most 79 significant bits (R70). -/
def encodeE96 : Acc → Nat
  | .nan => 0xFFFF * 2 ^ 79 + 2 ^ 78
  | .empty => 1
  | .nzero => 2 ^ 95
  | .inf s => b2n s * 2 ^ 95 + 0xFFFF * 2 ^ 79
  | .fin x =>
    if x.m = 0 then 0
    else
      let ex := dyExp x
      b2n (decide (x.m < 0)) * 2 ^ 95 + (ex + 32767).toNat * 2 ^ 79 + (truncDy ⟨x.m.natAbs, x.e⟩ (ex - 78)).toNat

/-- Reading a word of a slot; an unset slot holds A96 empty words (R72). -/
def decodeWord (k : WordKind) (w : Nat) : Acc :=
  match k with
  | .e96 => decodeE96 w
  | _ => decodeA96 w

/-- The word of a content. -/
def encodeWord (k : WordKind) (x : Acc) : Nat :=
  match k with
  | .e96 => encodeE96 x
  | _ => encodeA96 x

/-- The empty word of a kind (R72). -/
def emptyWord (k : WordKind) : BitVec 96 := bv 96 (encodeWord k .empty)

/-- A nonzero dyadic rounded to 79 significant bits, ties to even. -/
def round79 (x : Dy) : Dy :=
  let l := Nat.log2 x.m.natAbs
  if l ≤ 78 then x else ⟨rneDivInt x.m (2 ^ (l - 78)), x.e + (l - 78 : Nat)⟩

/-- The largest finite E96 magnitude with a sign (R70). -/
def maxE96 (s : Bool) : Dy := ⟨if s then -(2 ^ 79 - 1 : Int) else 2 ^ 79 - 1, 32767 - 78⟩

/-- An exact value rounded once into E96; `under` is what an underflow becomes (R74, R85). -/
def roundE96 (under : Acc) (x : Dy) : Acc × Bool :=
  if x.m = 0 then (.fin ⟨0, 0⟩, false)
  else
    let r := round79 x
    if 32767 < dyExp r then (.fin (maxE96 (decide (x.m < 0))), true)
    else if dyExp r < -32766 then (under, false)
    else (.fin r, false)

/-- An exact value clamped into A96's range (R74). -/
def clampA96 (v : Int) : Acc × Bool :=
  if (2 : Int) ^ 92 - 1 < v then (.fin ⟨2 ^ 92 - 1, -44⟩, true)
  else if v < -((2 : Int) ^ 92 - 1) then (.fin ⟨-(2 ^ 92 - 1), -44⟩, true)
  else (.fin ⟨v, -44⟩, false)

/-- The finite value of a content; specials count as 0. -/
def Acc.dyad : Acc → Dy
  | .fin x => x
  | _ => ⟨0, 0⟩

/-- A content alone in a fold: a finite one takes the one rounding of R74 all the same, since a run sum may hold
80 significant bits (R67). -/
def accAlone (k : WordKind) (y : Acc) : Acc × Bool :=
  match y, k with
  | .fin v, .e96 => roundE96 (.fin ⟨0, 0⟩) v
  | y, _ => (y, false)

/-- Fold of a run sum, or combination of two partials: Table 4-3 and R74. The flag is a clamp. -/
def accAdd (k : WordKind) (x y : Acc) : Acc × Bool :=
  match x, y with
  | .nan, _ => (.nan, false)
  | _, .nan => (.nan, false)
  | .inf s, .inf s' => (if s = s' then .inf s else .nan, false)
  | .inf s, _ => (.inf s, false)
  | _, .inf s => (.inf s, false)
  | .empty, y => accAlone k y
  | x, .empty => (x, false)
  | .nzero, .nzero => (.nzero, false)
  | x, y =>
    let v := dyAdd x.dyad y.dyad
    match k with
    | .e96 => roundE96 (.fin ⟨0, 0⟩) v
    | _ => clampA96 (truncDy v (-44))

/-- A run's content from its products (R66 to R68). Exact mode sums the products as they are; float
mode first truncates each to a multiple of 2^(E - 74). -/
def runSum (exact : Bool) (work : LPar) (ps : List Ext) : Acc :=
  if ps.any (· == .nan) || (ps.any (· == .inf false) && ps.any (· == .inf true)) then .nan
  else if ps.any (· == .inf false) then .inf false
  else if ps.any (· == .inf true) then .inf true
  else if !ps.isEmpty && ps.all (· == .zero true) then .nzero
  else
    let vs := ps.filterMap fun
      | .fin s t => let v := logToLinear work t; some (if s then dyNeg v else v)
      | _ => none
    if exact then .fin (vs.foldl dyAdd ⟨0, 0⟩)
    else
      match vs with
      | [] => .fin ⟨0, 0⟩
      | v0 :: _ =>
        let e := vs.foldl (fun a v => if a < dyExp v then dyExp v else a) (dyExp v0)
        .fin ⟨vs.foldl (fun a v => a + truncDy v (e - 74)) 0, e - 74⟩

/-- A content as a source: an empty entry reads as +0 (R83). -/
def Acc.src : Acc → Src
  | .nan => .nan
  | .inf s => .inf s
  | .empty => .zero false
  | .nzero => .zero true
  | .fin x => Src.ofDy false x

/-- A linear source as a content. -/
def Acc.ofSrc : Src → Acc
  | .nan => .nan
  | .inf s => .inf s
  | .zero s => if s then .nzero else .fin ⟨0, 0⟩
  | x => .fin x.dyad

/-- A written element stored in a slot (Table 4-8, slot write). -/
def storeElem (k : WordKind) (x : Src) : Acc × Bool :=
  match Acc.ofSrc x with
  | .fin v => match k with
    | .e96 => (.fin v, false)
    | _ => clampA96 (rneDy v (-44))
  | a => (a, false)

/-- A value carried into the L16 scale with no range limits (R42, first step). -/
def toL16Scale (x : Src) : Ext :=
  match x with
  | .nan => .nan
  | .inf s => .inf s
  | .zero s => .zero s
  | _ => .fin x.sign (x.steps 9 + 16392)

/-- A read-out code delivered into the output format (R42, last step). -/
def deliver (out : LPar) (x : Ext) : Nat × Bool :=
  match x with
  | .nan => (out.nan, false)
  | .inf s => (lCode out s out.inf, false)
  | .zero s => (lCode out s 0, false)
  | .fin s t => toL out (.pow s (t - 16392) 9)

/-- The element-wise fusion of a read-out (Table 4-6). -/
inductive FuseOp where
  | none | add | mul
  deriving DecidableEq, Repr

/-- Read-out of one entry: scale, fusion, conversion (R83). The flag is a saturation. -/
def readoutElem (out : LPar) (v : Src) (scale : LVal) (op : FuseOp) (fusePar : LPar) (fuse : LVal) : Nat × Bool :=
  let t := extMul parL16 (toL16Scale v) (Ext.ofL parL16 parL16 scale)
  match op with
  | .none => deliver out t
  | .mul => deliver out (extMul parL16 t (Ext.ofL fusePar parL16 fuse))
  | .add => toL out (srcSum [extValue parL16 t, lLinear fusePar fuse])

/-- Negation of a content. -/
def Acc.neg : Acc → Acc
  | .nan => .nan
  | .inf s => .inf (!s)
  | .empty => .empty
  | .nzero => .fin ⟨0, 0⟩
  | .fin x => if x.m = 0 then .nzero else .fin (dyNeg x)

/-- The sign of a content. -/
def Acc.sign : Acc → Bool
  | .inf s => s
  | .nzero => true
  | .fin x => decide (x.m < 0)
  | _ => false

/-- Whether a content is a zero of either sign. -/
def Acc.isZero : Acc → Bool
  | .nzero | .empty => true
  | .fin x => decide (x.m = 0)
  | _ => false

/-- A signed zero. -/
def accZero (s : Bool) : Acc := if s then .nzero else .fin ⟨0, 0⟩

/-- E96 addition, rounded once, under IEEE 754 rules (R85). An empty operand reads as +0. -/
def eAdd (x y : Acc) : Acc × Bool :=
  match x, y with
  | .nan, _ => (.nan, false)
  | _, .nan => (.nan, false)
  | .inf s, .inf s' => (if s = s' then .inf s else .nan, false)
  | .inf s, _ => (.inf s, false)
  | _, .inf s => (.inf s, false)
  | .nzero, .nzero => (.nzero, false)
  | x, y => roundE96 (.fin ⟨0, 0⟩) (dyAdd x.dyad y.dyad)

/-- E96 subtraction. -/
def eSub (x y : Acc) : Acc × Bool := eAdd x y.neg

/-- E96 multiplication (R85). -/
def eMul (x y : Acc) : Acc × Bool :=
  let s := x.sign != y.sign
  match x, y with
  | .nan, _ => (.nan, false)
  | _, .nan => (.nan, false)
  | .inf _, y => if y.isZero then (.nan, false) else (.inf s, false)
  | x, .inf _ => if x.isZero then (.nan, false) else (.inf s, false)
  | x, y =>
    if x.isZero || y.isZero then (accZero s, false)
    else roundE96 (accZero s) (dyMul x.dyad y.dyad)

/-- A quotient of nonzero dyadics with at least 82 significant bits and a sticky bit below. -/
def dyQuot (x y : Dy) : Dy :=
  let k := 84 + Nat.log2 y.m.natAbs - Nat.log2 x.m.natAbs
  let n := x.m.natAbs * 2 ^ k
  let q := 2 * (n / y.m.natAbs) + b2n (decide (n % y.m.natAbs ≠ 0))
  ⟨if decide (x.m < 0) != decide (y.m < 0) then -(q : Int) else q, x.e - y.e - k - 1⟩

/-- E96 division (R85). -/
def eDiv (x y : Acc) : Acc × Bool :=
  let s := x.sign != y.sign
  match x, y with
  | .nan, _ => (.nan, false)
  | _, .nan => (.nan, false)
  | .inf _, .inf _ => (.nan, false)
  | .inf _, _ => (.inf s, false)
  | _, .inf _ => (accZero s, false)
  | x, y =>
    if y.isZero then (if x.isZero then .nan else .inf s, false)
    else if x.isZero then (accZero s, false)
    else roundE96 (accZero s) (dyQuot x.dyad y.dyad)

/-- A square root of a positive dyadic with at least 82 significant bits and a sticky bit below. -/
def dySqrt (x : Dy) : Dy :=
  let k0 : Nat := 168
  let k : Nat := if (x.e - (k0 : Int)) % 2 = 0 then k0 else k0 + 1
  let n := x.m.natAbs * 2 ^ k
  let r := isqrt n
  ⟨(2 * r + b2n (decide (r * r ≠ n)) : Nat), (x.e - k) / 2 - 1⟩

/-- E96 square root (R110). -/
def eSqrt (x : Acc) : Acc × Bool :=
  match x with
  | .nan => (.nan, false)
  | .inf s => (if s then .nan else .inf false, false)
  | .nzero => (.nzero, false)
  | .empty => (.fin ⟨0, 0⟩, false)
  | .fin v =>
    if v.m = 0 then (.fin ⟨0, 0⟩, false)
    else if v.m < 0 then (.nan, false)
    else roundE96 (.fin ⟨0, 0⟩) (dySqrt v)

/-- A count as an E96 value. -/
def accNat (n : Nat) : Acc := .fin ⟨n, 0⟩

/-- A WELFORD state: count, mean, M2 (Table 4-7). -/
structure Welford where
  n : Nat
  mean : Acc
  m2 : Acc
  deriving DecidableEq, Repr

/-- The initial WELFORD state. -/
def Welford.init : Welford := ⟨0, .fin ⟨0, 0⟩, .fin ⟨0, 0⟩⟩

/-- One WELFORD update; the flag is any saturation, the count's among them (R85, R86). -/
def Welford.step (w : Welford) (x : Acc) : Welford × Bool :=
  let full := decide (2 ^ 32 - 1 ≤ w.n)
  let n := if full then w.n else w.n + 1
  let d := eSub x w.mean
  let q := eDiv d.1 (accNat n)
  let mean := eAdd w.mean q.1
  let d2 := eSub x mean.1
  let pr := eMul d.1 d2.1
  let m2 := eAdd w.m2 pr.1
  (⟨n, mean.1, m2.1⟩, full || d.2 || q.2 || mean.2 || d2.2 || pr.2 || m2.2)

end Sys2Proof
end

