-- ==== Sys2Proof/Machine/State.lean ====
section
/-!
DEFINITION. The state of the tile: every register, queue, buffer, mode and pin the manual gives it, as
plain data, and the state right after a cold reset. Tables are sparse: a key that is not listed reads as
the reset value of its kind.
-/
namespace Sys2Proof.Machine

/-- Reasons the machine stops: there is none. -/
inductive Fault where
  deriving DecidableEq, Repr

/-- Reasons a command has no meaning here. -/
inductive Refusal where
  /-- Raised by the dispatch of a command that has no meaning yet. Safe. -/
  | notModelled (mnemonic : String)
  deriving DecidableEq, Repr

/-! ## Operations and furrows -/

/-- Where an accepted descriptor stands. -/
inductive Phase where
  | accepted     -- not dispatched
  | snapshot     -- dispatch begun, its constant buffer being copied (R159)
  | waiting      -- reached in ring order, waits for what it orders on, or for its bank or batch
  | running      -- holds its engine
  | preempted    -- started, off its engine (R182, R183)
  | ended        -- its work is over; completion is due (R169)
  | done         -- completed, not yet retired
  deriving DecidableEq, Repr

/-- A slot row whose last run sum has arrived and that waits for read-out: activation row and N tile. -/
structure AwaitRow where
  m : Nat
  t : Nat
  deriving DecidableEq, Repr

/-- How far an operation has come: next pass and activation row (R182), rows that await read-out, next
Flue row (R183), next Sluice row and element within it (R137). `loaded` tells that the pass's weight block is in
the cells, `reload` that a resume reloads it (R58, R185). `row` also holds the index that a Sluice row
was found to have, and the place of a TABLE_LOAD or an INVOKE in dispatch order; `pass` of an INVOKE is 1 once
it is admitted. -/
structure Progress where
  pass : Nat := 0
  row : Nat := 0
  loaded : Bool := false
  reload : Bool := false
  await : List AwaitRow := []
  flueRow : Nat := 0
  segRow : Nat := 0
  segElem : Nat := 0
  deriving DecidableEq, Repr

/-- An accepted descriptor that has not retired. -/
structure Op where
  id : Nat
  opcode : Nat
  ticket : BitVec 48
  bytes : List Byte
  phase : Phase := .accepted
  snapTaken : Bool := false
  snapshot : List Byte := []
  reason : BitVec 8 := 0
  sat : Bool := false
  binds : List (Nat × Nat) := []
  basinSize : Nat := 0
  hbmSize : Nat := 0
  quad : Bool := false              -- engine mode in which it started (R179)
  coll : Nat := 0                   -- 0 none; 1 a collective off its engine, in phase B; 2 ready for phase C
  prog : Progress := {}
  deriving DecidableEq, Repr

/-- States of a furrow (Table 7-2). -/
inductive FurState where
  | unarmed | active | parked | halted
  deriving DecidableEq, Repr

/-- One furrow: its cards, its completion entry and the operations it holds (07, 08 cards). -/
structure Furrow where
  base : BitVec 52 := 0
  sizeLog2 : BitVec 5 := 0
  kind : BitVec 2 := 0
  arm : Bool := false
  plot : BitVec 6 := 0
  localIdx : BitVec 10 := 0
  alloc : Bool := false
  head : BitVec 16 := 0
  tail : BitVec 16 := 0
  state : FurState := .unarmed
  draining : Bool := false
  haltReason : BitVec 8 := 0
  privSeen : Bool := false
  armRefused : Bool := false
  badTail : Bool := false
  last : BitVec 48 := 0
  mark : BitVec 17 := 65536
  notice : Bool := false
  progress : BitVec 32 := 0
  slicesIdle : BitVec 8 := 0
  stalled : Bool := false
  doneTicket : BitVec 48 := 0
  launchTicket : BitVec 48 := 0
  epoch : BitVec 16 := 0
  drops : BitVec 16 := 0
  failTicket : BitVec 48 := 0
  failReason : BitVec 8 := 0
  fail : Bool := false
  satTicket : BitVec 48 := 0
  sat : Bool := false
  queue : List Op := []
  gaugeProgress : BitVec 32 := 0
  reported : Bool := false
  parkedOn : Option Nat := none
  deriving DecidableEq, Repr

/-! ## Plots -/

inductive PlotState where
  | none | live | resetting | quarantined
  deriving DecidableEq, Repr

/-- What a plot has in the mailbox (11_chimney_firmware R247 to R252). -/
structure Mailbox where
  reqBuf : List Byte := []          -- request buffer, 2 KiB; bytes past the end read 0
  held : List Byte := []            -- the request being served
  pending : Bool := false           -- a held request waits for service
  begun : Bool := false             -- the held request took effect and its response waits
  lastSeq : BitVec 16 := 0
  respSeq : BitVec 16 := 0
  overrun : Bool := false
  helloDone : Bool := false
  versionSent : Bool := false
  respBuf : List Byte := []         -- response buffer, 2 KiB
  ntcTail : BitVec 16 := 0
  ntcHead : BitVec 16 := 0
  ntcLost : BitVec 16 := 0
  ntcRing : Tbl (List Byte) := []   -- 32 notices of 64 bytes
  deriving DecidableEq, Repr

/-- One plot: HG_PLOT_CFG, HG_PLOT_STATE, PP_PLOT_STATUS, BA_PLOT_WIN, BA_RES, SC_PLOT_QUOTA,
HP_PLOT_PASID, its schedule entry and its mailbox. -/
structure Plot where
  slotMask : BitVec 16 := 0
  furFirst : BitVec 14 := 0
  furCount : BitVec 11 := 0
  evtCount : BitVec 11 := 0
  sluiceMax : BitVec 6 := 0
  state : PlotState := .none
  quarHw : Bool := false
  resets : BitVec 16 := 0
  epoch : BitVec 16 := 0
  flrHeld : Bool := false
  basinBase : BitVec 10 := 0
  basinSize : BitVec 10 := 0
  resBase : BitVec 10 := 0
  resSize : BitVec 10 := 0
  hbmBase : BitVec 10 := 0
  hbmSize : BitVec 10 := 0
  resLevel : BitVec 14 := 0
  resMark : BitVec 14 := 0x3FFF
  resNotice : Bool := false
  quota : BitVec 17 := 1024
  pasid : BitVec 20 := 0
  pasidEn : Bool := false
  sharePend : BitVec 8 := 1
  slicePend : BitVec 13 := 1000
  share : BitVec 8 := 1
  slice : BitVec 13 := 1000
  shareNext : BitVec 8 := 1         -- what COMMIT captured (R176)
  sliceNext : BitVec 13 := 1000
  mail : Mailbox := {}
  deriving DecidableEq, Repr

/-! ## Headgate -/

/-- A scheduling domain of Table 8-1. -/
structure Domain where
  holder : Option Nat := none       -- the furrow that holds the slice
  credits : Tbl Nat := []           -- per plot, in the round of nonzero shares; unlisted 1
  credits0 : Tbl Nat := []          -- per plot, in rounds of share-0 plots; unlisted 1
  lastPlot : Nat := 63
  lastFur : Tbl Nat := []           -- per plot, local index; unlisted 1023
  committed : Bool := false         -- the table that COMMIT captured is in force here
  taken : Option (Tbl (Nat × Nat)) := none   -- shares and slices in force here before SHARE_CUR shows them (R176)
  incoming : Option Nat := none     -- granted at an expiry while the holder's operation drains (R178)
  deriving DecidableEq, Repr

structure Headgate where
  commit : Bool := false
  hearthHold : Bool := false
  gaugeEn : Bool := true
  stallN : BitVec 8 := 16
  ctxValid : BitVec 16 := 0
  ctxLost : BitVec 16 := 0          -- the slot's content was lost since the save (R185)
  ctxPend : Option (Nat × Nat) := none   -- a context command, OP and slot, that waits for the slot's domain
  conflictTrace : Bool := false
  conflictGauge : Bool := false
  conflictSpill : Bool := false
  domains : Tbl Domain := []
  furrows : Tbl Furrow := []
  plots : Tbl Plot := []
  events : Tbl (BitVec 64) := []
  nextOp : Nat := 0
  deriving DecidableEq, Repr

/-! ## Hearth, Ashpan, Flue -/

/-- Firebox q and Stoker q: HE_FB and ST cards; `cells` holds the weight bytes of its 512 × 512 cells, by array
row (R50, R52). -/
structure Firebox where
  cells : List (List Byte) := []
  busy : Bool := false
  plot : BitVec 6 := 0
  slot : BitVec 4 := 0
  issueCycles : BitVec 64 := 0
  waitCycles : BitVec 64 := 0
  passes : BitVec 64 := 0
  runState : BitVec 3 := 0
  furrow : BitVec 14 := 0
  ctxPass : BitVec 32 := 0
  ctxRow : BitVec 16 := 0
  preempts : BitVec 64 := 0
  lockErr : BitVec 32 := 0
  deriving DecidableEq, Repr

structure Hearth where
  mode : Bool := false              -- HE_MODE_CTL.MODE: true is quadrant mode
  modeCur : Bool := false
  pending : Bool := false
  refused : Bool := false
  fb : Tbl Firebox := []
  deriving DecidableEq, Repr

/-- An Ashpan slot (R79, R92). -/
structure Slot where
  lease : Option Nat := none
  word : WordKind := .unset
  lanes : BitVec 2 := 0             -- log2 L
  quad : Bool := false              -- shape mode
  sat : Bool := false
  entries : Tbl (BitVec 96) := []   -- unlisted: the empty word of the kind
  bad : List Nat := []              -- entries with uncorrectable check bits
  deriving DecidableEq, Repr

structure Ashpan where
  sumsOnly : Bool := false
  slots : Tbl Slot := []
  eccCorr : BitVec 64 := 0
  eccUncorr : BitVec 64 := 0
  readout : Tbl (BitVec 64) := []
  deriving DecidableEq, Repr

/-- A user table slot: two banks (R116, R117). -/
structure TableSlot where
  bank0 : Option (List Byte) := none
  bank1 : Option (List Byte) := none
  active : Bool := false
  bad : List Nat := []              -- banks with an uncorrectable error
  deriving DecidableEq, Repr

structure Flue where
  tables : Tbl TableSlot := []
  loadedCrc : BitVec 32 := 0
  halfElems : Tbl (BitVec 64) := []
  tableCorr : BitVec 16 := 0
  tableUncorr : BitVec 16 := 0
  deriving DecidableEq, Repr

/-! ## Basin, HBM, Sluices, Scuttle -/

structure Basin where
  basin : Memory := []
  hbm : Memory := []
  basinBad : List Nat := []         -- 64-bit words with uncorrectable check bits
  hbmBad : List Nat := []
  bankIn : BitVec 24 := 0xFFFFFF
  stackIn : BitVec 8 := 0xFF
  bankFail : BitVec 24 := 0
  stackFail : BitVec 8 := 0
  basinCorr : BitVec 24 := 0
  basinUncorr : BitVec 8 := 0
  hbmCorr : BitVec 24 := 0
  hbmUncorr : BitVec 8 := 0
  scrubEn : Bool := true
  scrubPeriod : BitVec 8 := 24
  scrubPos : Nat := 0
  strayCount : BitVec 31 := 0
  straySeen : Bool := false
  hdmBase : Nat := 0
  hdmSize : Nat := 0
  hdmWait : Bool := false           -- a valid commit waits for HBM
  hdmCommitted : Bool := false
  hdmError : Bool := false
  hdmLock : Bool := false
  deriving DecidableEq, Repr

/-- A Sluice channel: the furrow and the operation it runs. -/
structure Channel where
  busy : Bool := false
  plot : BitVec 6 := 0
  furrow : BitVec 14 := 0
  op : Nat := 0
  deriving DecidableEq, Repr

structure Sluices where
  channels : Tbl Channel := []
  deriving DecidableEq, Repr

/-- A Scuttle line: the plot that fetched it, its host physical address, its 64 bytes; most recently used first in
the list. -/
structure Line where
  plot : Nat
  addr : Nat
  bytes : List Byte
  deriving DecidableEq, Repr

/-- A cached translation: a 4 KiB page of a plot's I/O virtual addresses, and the host physical page. -/
structure Translation where
  plot : Nat
  page : Nat
  host : Nat
  deriving DecidableEq, Repr

structure Scuttle where
  lines : List Line := []
  trans : List Translation := []
  flushed : Bool := false           -- the flush of Table 10-5 is done, and nothing was filled since
  deriving DecidableEq, Repr

/-! ## Pilot -/

/-- Progress of start-up (Table 15-3). -/
inductive BootPhase where
  | off          -- PWROK or HRST_L low
  | waitVaux     -- waits for VAUX12 (step 3)
  | boot         -- the ROM runs (step 4)
  | recovery     -- the recovery agent waits for an image
  | bringUp      -- CH0 runs bring-up
  | ready        -- PI_SERVICE written
  | stopped      -- start-up cannot go on (no CH0)
  deriving DecidableEq, Repr

/-- Power states of a domain (Table 1-3). -/
inductive Power where
  | stoked | banked | ember | dark
  deriving DecidableEq, Repr

/-- A write held for a sleeping block (R218). -/
structure HeldWrite where
  agent : Agent
  addr : Nat
  size : Nat
  v : BitVec 64
  deriving DecidableEq, Repr

/-- A management message that waits in the Pilot's 8 KiB buffer for CH0's component (R246, R327 to R329). -/
inductive MgmtMsg where
  | control (cmd : BitVec 8)
  | unknownType
  | setEid (eid : BitVec 8)
  | pldmDiscovery
  | sensor (n : Nat)
  | spdmNegotiation (doe : Bool)
  | certificate (doe : Bool) (slot off len : Nat)
  | challenge (doe : Bool) (nonce : List Byte)
  | measurements (doe : Bool) (index : Nat) (nonce : List Byte)
  | spdmOther (doe : Bool)           -- an SPDM request that the tile does not support (R329)
  | update (comp : BitVec 16) (image : List Byte)
  | activate
  deriving DecidableEq, Repr

structure Pilot where
  phase : BootPhase := .boot
  pwrok : Bool := true
  hrstLow : Bool := false
  refLocked : Bool := false
  refLost : Bool := false
  everLocked : Bool := false
  refAbsent : Bool := false         -- reference edges are missing now (R214)
  time : BitVec 64 := 0
  stepSeed : Nat := 0               -- the step pattern in force (R228): 32,768 reference periods' worth of Pilot clocks
  stepPos : Nat := 0                -- Pilot clocks of the pattern that have passed
  stepLeft : Nat := 0               -- ns of tile time left to the end of the pattern
  ptmTrigger : Bool := false
  ptmValid : Bool := false
  ptmPeriod : BitVec 16 := 0
  ptmSeq : BitVec 8 := 0
  ptmHost : BitVec 64 := 0
  ptmTile : BitVec 64 := 0
  dom : Tbl Power := []             -- 14 domains, unlisted STOKED
  domTarget : BitVec 28 := 0
  waking : List Nat := []
  latched : List HeldWrite := []
  clkMax : BitVec 3 := 6
  clkMin : BitVec 3 := 0
  powerCap : BitVec 10 := 700
  tAlert : BitVec 8 := 95
  modePolicy : BitVec 2 := 0
  deep : BitVec 8 := 0xFF
  idleBankedUs : BitVec 16 := 2
  idleEmberUs : BitVec 16 := 200
  idleDarkMs : BitVec 16 := 100
  hclkLevel : BitVec 3 := 6
  hclkNext : Option (BitVec 3) := none
  clamp : Bool := false
  capped : Bool := false
  powerW : BitVec 10 := 0
  tempMax : BitVec 8 := 0
  alert : Bool := false
  alertSeen : Bool := false
  trip : Bool := false
  fastEn : Bool := false
  ign : Tbl (BitVec 14) := []
  service : BitVec 32 := 3          -- PI_SERVICE
  resetLevel : BitVec 2 := 0
  warmCause : BitVec 3 := 0
  warmCount : BitVec 16 := 0
  warmDue : Bool := false           -- step 1 of Table 15-9 is done, the rest waits
  health : BitVec 128 := 0
  mctpHeld : List MgmtMsg := []
  deriving DecidableEq, Repr

/-- Pins and rails: inputs as sampled or in force, and the outputs that hold a state of their own. -/
structure Pins where
  strapHost : BitVec 2 := 0
  strapTile : BitVec 3 := 0
  strapBoot : Bool := false
  vaux12 : Bool := true
  vflash : Bool := true
  flashMiB : Nat := 64              -- size of the board's flash, as SFDP reports it (R330)
  vaux12Lost : Bool := false
  outputsOn : Bool := true
  tileReady : Bool := false
  ttripLatch : Bool := false
  smokeP : Bool := false
  traceEn : Bool := false
  deriving DecidableEq, Repr

/-! ## Chimney -/

inductive CoreState where
  | running | restarting | stopped | held
  deriving DecidableEq, Repr

structure Core where
  state : CoreState := .held
  codeBad : Bool := false
  lastCause : BitVec 3 := 0
  restarts : BitVec 16 := 0
  wdogMs : BitVec 16 := 100
  wdogArmed : Bool := false
  wdogStart : BitVec 64 := 0        -- tile time at which its watchdog period began
  deriving DecidableEq, Repr

/-- An invocation that waits for its list: one INVOKE, or the members of a batch, as furrow, operation and
rows, in admission order (R255, R256). -/
structure Batch where
  members : List (Nat × Nat × Nat)
  res : Option Nat                  -- resident copy that its layers read, as a window offset
  page : Option Nat                 -- window offset of its state page
  pageId : Nat
  deriving DecidableEq, Repr

/-- A registered firing list (R253 to R258). -/
structure FiringList where
  plot : Nat
  head : List Byte                  -- the header and the I/O table as registered
  base : Nat                        -- HBM window offset of the image
  workBase : Nat
  waitUs : Nat                      -- BATCH_WAIT_US
  mode : Nat                        -- RESIDE: 0 NEVER, 1 AUTO, 2 PIN
  resident : Option Nat             -- window offset of the resident image
  opened : Option Batch             -- the open batch
  closed : List Batch               -- closed batches and single invocations, first to run first
  lastUse : Nat
  doomed : Bool                     -- withdrawn, its admitted invocations not yet complete
  deriving DecidableEq, Repr

/-- A state page (R257). -/
structure StatePage where
  plot : Nat
  base : Nat
  size : Nat
  list : Nat
  deriving DecidableEq, Repr

/-- A notice that a component posts once it runs again (R246, R277): component, plot, TYPE, body. -/
structure DueNotice where
  comp : Nat
  plot : Nat
  type : Nat
  body : List Byte
  deriving DecidableEq, Repr

structure Chimney where
  cores : Tbl Core := []
  bootSrc : Bool := false
  bootSlot : Bool := false
  flashFail : Bool := false
  recordBlank : Bool := false
  failA : BitVec 3 := 0
  failB : BitVec 3 := 0
  mbVer : BitVec 16 := 0
  imageVer : BitVec 32 := 0
  svn : BitVec 32 := 0
  minSvn : BitVec 32 := 0
  newest : Bool := false
  validA : Bool := false
  validB : Bool := false
  writeFail : Bool := false
  recSeq : BitVec 32 := 0
  recordWant : Bool := false
  lastSnapCopied : BitVec 16 := 0
  calib : Option (List Byte) := none   -- calibration values changed since boot (R259, R260)
  sram : Memory := []
  image : List Byte := []
  lists : Tbl (Option FiringList) := []
  pages : Tbl (Option StatePage) := []
  nextList : Nat := 1
  nextPage : Nat := 1
  updSlot : Option Bool := none     -- a checked update waits in this slot
  localPend : BitVec 64 := 0
  noticeDue : List DueNotice := []
  bootCores : BitVec 4 := 0xF       -- cores in service when the ROM last ran (R346)
  modeSeq : Option Bool := none     -- the engine mode that CH1 is bringing about by Table 8-3 (08 R187)
  markDue : List Nat := []          -- units to be marked out once CH3's component runs again (R342)
  deriving DecidableEq, Repr

/-! ## Smokebox -/

/-- One source of Table 12-1: SB_SRC_CFG and SB_SRC_STATE. -/
structure Source where
  sev : BitVec 3 := 0
  chan : BitVec 2 := 0
  countN : BitVec 8 := 0
  windowMs : BitVec 16 := 1000
  effSev : BitVec 3 := 0
  escalated : Bool := false
  count : BitVec 8 := 0
  events : BitVec 16 := 0
  windowOpen : Bool := false
  deriving DecidableEq, Repr

structure Smokebox where
  status : BitVec 64 := 0
  live : BitVec 64 := 0             -- SB_LIVE's pulse of a single error in the present Pilot clock
  cfgLock : Bool := false
  cfgLockWritten : Bool := false
  alarmSev : BitVec 3 := 3
  irqSev : BitVec 3 := 1
  hostIrqEn : Bool := true
  ch3IrqEn : Bool := true
  graceUs : BitVec 24 := 100000
  actDegraded : BitVec 4 := 4
  actPlot : BitVec 4 := 5
  actTile : BitVec 4 := 0xE
  epOpen : Bool := false
  epSev : BitVec 3 := 0
  epId : BitVec 8 := 0
  epMerges : BitVec 8 := 0
  epTime : BitVec 64 := 0
  epPlots : BitVec 64 := 0
  escQuar : Bool := false
  escHgStop : Bool := false
  escAlarm : Bool := false
  escSmoke : Bool := false
  ackStale : Bool := false
  escalations : BitVec 8 := 0
  forceSmoke : Bool := false
  forceHgStop : Bool := false
  recCorr : BitVec 8 := 0
  snaps : BitVec 16 := 0
  recMem : Memory := []
  sources : Tbl Source := []
  deriving DecidableEq, Repr

/-! ## Canals -/

/-- States of a Canal port (CN_PORT_STATUS.STATE). -/
inductive PortState where
  | off | phyTrain | canalTrain | active | down
  deriving DecidableEq, Repr

structure Port where
  en : Bool := false
  retrain : Bool := false           -- CN_PORT_CTL.RETRAIN: set until training starts
  state : PortState := .off
  width8 : Bool := false
  wrongPeer : Bool := false
  downSeen : Bool := false
  peerId : BitVec 3 := 0
  peerValid : Bool := false
  replays : BitVec 32 := 0
  crcErr : BitVec 32 := 0
  txSeq : BitVec 12 := 0            -- next SEQ to send
  txq : List Flit := []             -- sequenced flits that wait for room in the replay buffer
  buffer : List Flit := []          -- sent, unacknowledged, oldest first
  rxExpect : BitVec 12 := 0
  nakSent : Bool := false
  stuck : BitVec 8 := 0             -- replays in a row without progress
  goodTrain : Nat := 0
  peerOk : Bool := false
  wasActive : Bool := false
  retraining : Bool := false
  deriving DecidableEq, Repr

inductive GangState where
  | idle | forming | formed | alone | broken
  deriving DecidableEq, Repr

/-- A collective of this tile from phase A to phase C (R298 to R302): its operation, which names it, its epoch, and how
far its exchange has come. -/
structure Coll where
  furrow : Nat
  op : Nat
  slot : Nat
  seq : BitVec 32
  begin : List Byte                 -- payload of its COLL_BEGIN: GEN, WORD, LANES, ROWS, COLS
  done : Nat                        -- entries that the record holds combined
  got : List Nat                    -- member: first entry indexes of the COLL_RESULT flits taken
  endSat : Option Bool              -- member: SAT of a COLL_END that waits for results still under way
  sat : Bool
  compared : Bool                   -- lead: step 1 of Table 13-6 is passed
  phaseC : Bool
  deriving DecidableEq, Repr

/-- What the lead has received of one member's collective: the first indexes of the COLL_DATA flits taken, and the
entries not yet combined. -/
structure Remote where
  src : Nat
  seq : BitVec 32
  begin : List Byte
  got : List Nat
  entries : Tbl (Option (BitVec 96))
  deriving DecidableEq, Repr

/-- A time exchange under way with a member (R296). -/
structure Exchange where
  member : Nat
  rest : List Nat                   -- members that follow
  count : Nat                       -- exchange number
  sentAt : BitVec 64
  best : Option (Nat × Int)         -- round trip and offset of the best exchange so far
  deriving DecidableEq, Repr

structure Canals where
  ports : Tbl Port := []
  members : BitVec 8 := 0
  gangPlot : BitVec 6 := 0
  pair2 : Bool := false
  gangKey : BitVec 32 := 0
  form : Bool := false
  measure : Bool := false
  state : GangState := .idle
  lead : BitVec 3 := 0
  refused : Bool := false
  skewFlag : Bool := false
  lostSeen : Bool := false
  tsetChanged : Bool := false
  mismatch : BitVec 8 := 0
  present : BitVec 8 := 0
  collSeq : BitVec 32 := 0
  gen : BitVec 16 := 0
  skew : Tbl (BitVec 64) := []
  heldForm : Option Flit := none
  heldPort : Nat := 0
  replies : List (Nat × Nat × Nat) := []   -- lead: member, mismatch mask, GEN
  exchange : Option Exchange := none
  colls : List Coll := []           -- in SEQ order
  remotes : List Remote := []       -- in order of arrival
  early : List (Nat × Nat × List (BitVec 96)) := []   -- lead: member, first index, entries that came before their COLL_BEGIN
  deaf : List Nat := []             -- lead: members whose collective was aborted, until their next COLL_BEGIN
  aborted : List (BitVec 32 × BitVec 8) := []   -- collectives aborted elsewhere before their dispatch here
  deriving DecidableEq, Repr

/-! ## Host port and management -/

/-- An entry of a function's MSI-X table, with its bit of the PBA (R317, R319). -/
structure MsixEntry where
  addr : BitVec 64 := 0
  data : BitVec 32 := 0
  masked : Bool := true
  waits : Bool := false
  deriving DecidableEq, Repr

structure HostPort where
  up : Bool := false
  cxl : Bool := false
  lanes : BitVec 8 := 0
  rate : BitVec 3 := 0
  downSeen : Bool := false
  lost : Bool := false              -- the link went down while PWROK was high and is not up again
  modules : BitVec 4 := 0           -- UCIe modules that trained and work
  carry : BitVec 4 := 0             -- those of them that the link runs on (R308)
  corr : BitVec 24 := 0
  uncorr : BitVec 8 := 0
  i3c : Bool := false
  dynAddr : BitVec 7 := 0
  eid : BitVec 8 := 0
  numVfs : Nat := 0                 -- VFs that exist
  vfWant : Nat := 0                 -- NumVFs as written
  vfOn : Bool := false              -- VF Enable
  master : List Nat := []           -- functions with Bus Master Enable set
  d3 : List Nat := []               -- functions in D3hot
  msixOn : List Nat := []           -- functions with MSI-X enabled
  msixMask : List Nat := []         -- functions with MSI-X masked as a whole
  vectors : Tbl MsixEntry := []     -- by function and vector
  cfg : Tbl Nat := []               -- writable fields of configuration space and of BAR2/3 that nothing else holds
  doe : List Byte := []             -- what the host has put into the PF's DOE mailbox (R314, R329)
  aerCorr : Bool := false           -- a correctable error stands in AER (R324)
  aerUncorr : Bool := false
  rasUncorr : Bool := false         -- an uncorrectable error stands in the CXL RAS capability
  deriving DecidableEq, Repr

/-- What the tile sends: the part of its behaviour that leaves it. A host access carries the routing ID of function `p`
and, while the plot's PASID is enabled, its PASID (R16, R320). -/
inductive Out where
  | hostWrite (p : Nat) (pasid : Option (BitVec 20)) (addr : Nat) (bytes : List Byte)
  | hostRead (p : Nat) (pasid : Option (BitVec 20)) (addr n : Nat)
  | atsRequest (p : Nat) (pasid : Option (BitVec 20)) (page : Nat)
  | cacheRead (addr : Nat)             -- a CXL.cache shared read of a line, by host physical address
  | msix (fn vector : Nat)
  | coreLoad (c : Nat) (bytes : List Byte)   -- what a core's read returned
  | ch3Irq
  | ch3Local (n : Nat)
  | flit (port : Nat) (fl : Flit)
  | mgmt (bytes : List Byte)
  | cxlData (bytes : List Byte) (poison : Bool)
  | cxlDone
  | snoopResp (hit : Bool)
  | evict (p addr : Nat)
  | atsDone (p : Nat)
  | doe (bytes : List Byte)
  | flrDone (p : Nat)
  deriving DecidableEq, Repr

/-! ## The whole state -/

structure State where
  pi : Pilot := {}
  pins : Pins := {}
  hg : Headgate := {}
  he : Hearth := {}
  ap : Ashpan := {}
  fl : Flue := {}
  ba : Basin := {}
  sl : Sluices := {}
  sc : Scuttle := {}
  ch : Chimney := {}
  sb : Smokebox := {}
  cn : Canals := {}
  hp : HostPort := {}
  flash : Memory := []
  pending : List Instr := []
  out : List Out := []
  free : Nat := 0
  deriving DecidableEq, Repr

/-- The tile just after a cold reset, outputs on, the ROM not yet run (15_reset_and_bringup R335, R337;
log 5): every field at the value its card or its log entry gives. -/
def State.reset : State := {}

end Sys2Proof.Machine
end

