-- ==== Sys2Proof/Machine/Ops.lean ====
section
/-!
DEFINITION. The shared operations over the state: reading and updating its tables, which units are in
service, Basin and HBM access with check bits, what the tile sends, and free values.
-/
namespace Sys2Proof.Machine

/-- What a command answers. -/
abbrev Res := Host.Outcome State Fault Refusal

/-! ## Tables -/

def furDef : Nat → Furrow := fun _ => {}
def getFur (s : State) (f : Nat) : Furrow := tblGet furDef s.hg.furrows f
def setFur (s : State) (f : Nat) (x : Furrow) : State :=
  { s with hg := { s.hg with furrows := tblSet furDef s.hg.furrows f x } }
def modFur (f : Nat) (g : Furrow → Furrow) (s : State) : State := setFur s f (g (getFur s f))

def plotDef : Nat → Plot := fun _ => {}
def getPlot (s : State) (p : Nat) : Plot := tblGet plotDef s.hg.plots p
def setPlot (s : State) (p : Nat) (x : Plot) : State :=
  { s with hg := { s.hg with plots := tblSet plotDef s.hg.plots p x } }
def modPlot (p : Nat) (g : Plot → Plot) (s : State) : State := setPlot s p (g (getPlot s p))
def modMail (p : Nat) (g : Mailbox → Mailbox) (s : State) : State :=
  modPlot p (fun x => { x with mail := g x.mail }) s

def eventDef : Nat → BitVec 64 := fun _ => 0
/-- Event counter `e` of plot `p`: the plot owns counters 1024 p to 1024 p + 1023 (R196). -/
def getEvent (s : State) (p e : Nat) : BitVec 64 := tblGet eventDef s.hg.events (1024 * p + e)
def setEvent (s : State) (p e : Nat) (v : BitVec 64) : State :=
  { s with hg := { s.hg with events := tblSet eventDef s.hg.events (1024 * p + e) v } }

def domDef : Nat → Domain := fun _ => {}
def getDom (s : State) (d : Nat) : Domain := tblGet domDef s.hg.domains d
def setDom (s : State) (d : Nat) (x : Domain) : State :=
  { s with hg := { s.hg with domains := tblSet domDef s.hg.domains d x } }
def modDom (d : Nat) (g : Domain → Domain) (s : State) : State := setDom s d (g (getDom s d))

def fbDef : Nat → Firebox := fun _ => {}
def getFb (s : State) (q : Nat) : Firebox := tblGet fbDef s.he.fb q
def setFb (s : State) (q : Nat) (x : Firebox) : State :=
  { s with he := { s.he with fb := tblSet fbDef s.he.fb q x } }
def modFb (q : Nat) (g : Firebox → Firebox) (s : State) : State := setFb s q (g (getFb s q))
/-- The same change to several Fireboxes. -/
def modFbs (qs : List Nat) (g : Firebox → Firebox) (s : State) : State := qs.foldl (fun s q => modFb q g s) s

def slotDef : Nat → Slot := fun _ => {}
def getSlot (s : State) (n : Nat) : Slot := tblGet slotDef s.ap.slots n
def setSlot (s : State) (n : Nat) (x : Slot) : State :=
  { s with ap := { s.ap with slots := tblSet slotDef s.ap.slots n x } }
def modSlot (n : Nat) (g : Slot → Slot) (s : State) : State := setSlot s n (g (getSlot s n))

def tableDef : Nat → TableSlot := fun _ => {}
def getTable (s : State) (n : Nat) : TableSlot := tblGet tableDef s.fl.tables n
def setTable (s : State) (n : Nat) (x : TableSlot) : State :=
  { s with fl := { s.fl with tables := tblSet tableDef s.fl.tables n x } }

def chanDef : Nat → Channel := fun _ => {}
def getChan (s : State) (c : Nat) : Channel := tblGet chanDef s.sl.channels c
def setChan (s : State) (c : Nat) (x : Channel) : State :=
  { s with sl := { s.sl with channels := tblSet chanDef s.sl.channels c x } }

def coreDef : Nat → Core := fun _ => {}
def getCore (s : State) (c : Nat) : Core := tblGet coreDef s.ch.cores c
def setCore (s : State) (c : Nat) (x : Core) : State :=
  { s with ch := { s.ch with cores := tblSet coreDef s.ch.cores c x } }
def modCore (c : Nat) (g : Core → Core) (s : State) : State := setCore s c (g (getCore s c))

def portDef : Nat → Port := fun _ => {}
def getPort (s : State) (n : Nat) : Port := tblGet portDef s.cn.ports n
def setPort (s : State) (n : Nat) (x : Port) : State :=
  { s with cn := { s.cn with ports := tblSet portDef s.cn.ports n x } }
def modPort (n : Nat) (g : Port → Port) (s : State) : State := setPort s n (g (getPort s n))

def powerDef : Nat → Power := fun _ => .stoked
def getPower (s : State) (d : Nat) : Power := tblGet powerDef s.pi.dom d
def setPower (s : State) (d : Nat) (x : Power) : State :=
  { s with pi := { s.pi with dom := tblSet powerDef s.pi.dom d x } }

def ignDef : Nat → BitVec 14 := fun _ => 0
def count64Def : Nat → BitVec 64 := fun _ => 0
/-- A 64-bit counter of a table advanced by `n`. -/
def tblAdd (t : Tbl (BitVec 64)) (k n : Nat) : Tbl (BitVec 64) :=
  tblSet count64Def t k (tblGet count64Def t k + bv 64 n)

/-! ## Source lines (Table 12-1) -/

/-- Reserved source lines never set (R263). -/
def sourceReserved (n : Nat) : Bool := n == 7 || (59 ≤ n && n ≤ 62) || 64 ≤ n

/-- Default severity of a source. -/
def sourceSev (n : Nat) : BitVec 3 :=
  if sourceReserved n then 0
  else if [26, 29, 45, 46, 49, 50].contains n then 4
  else if [31, 41, 44, 51, 53, 54, 55, 56].contains n then 0
  else if [12, 15, 19, 22, 24, 27, 28, 32, 33, 34, 35].contains n then 1
  else 2

/-- Default channel of a source: 0 LOCAL, 1 COLLECT, 2 BOTH. -/
def sourceChan (n : Nat) : BitVec 2 :=
  if sourceReserved n then 0
  else if [12, 15, 19, 22, 24, 27, 28, 31, 32, 33, 34, 35].contains n then 0
  else if n ≤ 27 || n == 30 || (36 ≤ n && n ≤ 39) || (47 ≤ n && n ≤ 50) then 2
  else 1

def sourceDef : Nat → Source := fun n =>
  { sev := sourceSev n, chan := sourceChan n, windowMs := if sourceReserved n then 0 else 1000 }
def getSrc (s : State) (n : Nat) : Source := tblGet sourceDef s.sb.sources n
def setSrc (s : State) (n : Nat) (x : Source) : State :=
  { s with sb := { s.sb with sources := tblSet sourceDef s.sb.sources n x } }

/-! ## Outputs and free values -/

/-- Something leaves the tile. -/
def emit (o : Out) (s : State) : State := { s with out := s.out ++ [o] }

/-- The PASID that a host access of a plot carries (R320). -/
def pasidOf (s : State) (p : Nat) : Option (BitVec 20) := if (getPlot s p).pasidEn then some (getPlot s p).pasid else none

/-- Function `p` can send requests: the link is up, the function exists and is in D0, and its Bus Master Enable is set
(R316, R318, R325). -/
def hostOpen (s : State) (p : Nat) : Bool :=
  s.hp.up && decide (p ≤ s.hp.numVfs) && s.hp.master.contains p && !s.hp.d3.contains p

def vectorDef : Nat → MsixEntry := fun _ => {}
/-- Entry `v` of the MSI-X table of function `fn`. -/
def getVector (s : State) (fn v : Nat) : MsixEntry := tblGet vectorDef s.hp.vectors (4 * fn + v)
def modVector (fn v : Nat) (g : MsixEntry → MsixEntry) (s : State) : State :=
  { s with hp := { s.hp with vectors := tblSet vectorDef s.hp.vectors (4 * fn + v) (g (getVector s fn v)) } }

/-- MSI-X vector `v` of function `fn` (Table 14-5): it fires while the function's MSI-X is enabled and the vector is
unmasked, waits in the PBA while it is masked, and goes nowhere while the function may send nothing (R319, R325). -/
def msix (fn v : Nat) (s : State) : State :=
  if hostOpen s fn && s.hp.msixOn.contains fn then
    (if s.hp.msixMask.contains fn || (getVector s fn v).masked then modVector fn v (fun x => { x with waits := true }) s
     else emit (.msix fn v) s)
  else s

/-- The next free value's index; the counter steps on. -/
def takeFree (s : State) : Nat × State := (s.free, { s with free := s.free + 1 })

/-! ## Units in service (Table 15-6a, R343) -/

/-- Bit `i` of PI_HEALTH.MAP. -/
def outBit (s : State) (i : Nat) : Bool := bitAt s.pi.health.toNat i

/-- Bits of PI_HEALTH.MAP by unit: byte 4 of the map is bit 32. -/
def fbBit (q : Nat) : Nat := 32 + q
def apBit (q : Nat) : Nat := 36 + q
def statsBit : Nat := 40
def flueBit (h : Nat) : Nat := 41 + h
def scuttleBit : Nat := 43
def headgateBit : Nat := 44
def coreBit (c : Nat) : Nat := 48 + c
def canalBit (n : Nat) : Nat := 52 + n
def moduleBit (m : Nat) : Nat := 56 + m
def bankBit (b : Nat) : Nat := 64 + b
def stackBit (k : Nat) : Nat := 88 + k
def sluiceBit (c : Nat) : Nat := 96 + c

/-- The bits of the map that stand for units (Table 15-6a). -/
def unitBits : List Nat := ([0, 1, 2, 3, 4, 5, 6, 7, 8, 9, 10, 11, 12] : List Nat).map (32 + ·)
  ++ (List.range 12).map (48 + ·) ++ (List.range 64).map (64 + ·)

def apIn (s : State) (q : Nat) : Bool := !outBit s (apBit q)
/-- HE_CAP.FB_IN_SERVICE: the Firebox, its Stoker and its Ashpan quarter. -/
def fbIn (s : State) (q : Nat) : Bool := !outBit s (fbBit q) && apIn s q
/-- HE_CAP.WHOLE_OK (R57). -/
def wholeOk (s : State) : Bool := fbIn s 0 && fbIn s 1 && fbIn s 2 && fbIn s 3
def statsIn (s : State) : Bool := !outBit s statsBit
def flueIn (s : State) (h : Nat) : Bool := !outBit s (flueBit h)
def scuttleIn (s : State) : Bool := !outBit s scuttleBit
def coreIn (s : State) (c : Nat) : Bool := !outBit s (coreBit c)
def canalIn (s : State) (n : Nat) : Bool := !outBit s (canalBit n)
def sluiceIn (s : State) (c : Nat) : Bool := !outBit s (sluiceBit c)

/-- How many of the first `n` indexes satisfy `f`. -/
def countIn (n : Nat) (f : Nat → Bool) : Nat := (List.range n).countP f

/-- The core that the ROM gave component `c`: its own, or under R346 the lowest-numbered one of CH1 to CH3
in service when the ROM ran. -/
def compCore (s : State) (c : Nat) : Option Nat :=
  let had := fun k => s.ch.bootCores.getLsbD k
  if c = 0 then (if had 0 then some 0 else none)
  else if had c then some c
  else ([1, 2, 3] : List Nat).find? had

/-- Component `c` executes. -/
def compRuns (s : State) (c : Nat) : Bool :=
  match compCore s c with
  | some k => coreIn s k && (getCore s k).state == .running
  | none => false

/-- The minimum set of R344. In UCIE mode the host port can have a link only while a module is in service (R308). -/
def minimumSet (s : State) : Bool :=
  coreIn s 0 && (coreIn s 1 || coreIn s 2 || coreIn s 3) && !outBit s headgateBit
    && (s.pins.strapHost == 1 || s.pins.strapHost == 0 && [0, 1, 2, 3].any fun m => !outBit s (moduleBit m))
    && (fbIn s 0 || fbIn s 1 || fbIn s 2 || fbIn s 3) && (flueIn s 0 || flueIn s 1)
    && decide (2 ≤ popCount s.ba.bankIn.toNat 24) && decide (2 ≤ countIn 32 (sluiceIn s))

/-- PI_SERVICE.LEVEL once bring-up has ended (Table 15-7). -/
def serviceLevel (s : State) : Nat :=
  if !coreIn s 0 then 3
  else if s.pi.health.toNat / 2 ^ 32 = 0 && minimumSet s then 0
  else if minimumSet s then 1
  else 2

/-- PI_SERVICE with a level and the units in service. -/
def serviceWord (s : State) (level : Nat) : BitVec 32 :=
  bv 32 (level + 4 * b2n (s.ba.stackIn == 0) + 8 * b2n (wholeOk s)
    + 16 * (b2n (fbIn s 0) + 2 * b2n (fbIn s 1) + 4 * b2n (fbIn s 2) + 8 * b2n (fbIn s 3))
    + 256 * (b2n (flueIn s 0) + 2 * b2n (flueIn s 1))
    + 1024 * popCount s.ba.bankIn.toNat 24 + 65536 * popCount s.ba.stackIn.toNat 8
    + 2 ^ 20 * countIn 32 (sluiceIn s)
    + 2 ^ 26 * (b2n (coreIn s 0) + 2 * b2n (coreIn s 1) + 4 * b2n (coreIn s 2) + 8 * b2n (coreIn s 3)))

/-- PI_SERVICE.LEVEL. -/
def levelOf (s : State) : Nat := s.pi.service.toNat % 4

/-- SB_ESC.HG_STOP sets, and TILE_READY is deasserted (R272, R340). -/
def hgStop (s : State) : State :=
  { s with sb := { s.sb with escHgStop := true }, pins := { s.pins with tileReady := false } }

/-- CH0 rewrites PI_SERVICE after a change of the units in service (R347); a fall to MGMT_ONLY stops the
Headgate (R344). -/
def rewriteService (s : State) : State :=
  if s.pi.phase = .ready ∧ s.pi.warmDue = false then
    let level := serviceLevel s
    let s' := { s with pi := { s.pi with service := serviceWord s level } }
    if level = 0 ∨ level = 1 then s' else if level = 2 then hgStop s'
    else { s' with pins := { s'.pins with tileReady := false } }
  else s

/-! ## Slots -/

/-- Rows of a slot's shape (Table 4-4). -/
def Slot.rows (x : Slot) : Nat := (if x.quad then 256 else 128) / 2 ^ x.lanes.toNat
/-- Columns of a slot's shape. -/
def Slot.cols (x : Slot) : Nat := (if x.quad then 512 else 1024) * 2 ^ x.lanes.toNat

/-- The content of an unlisted entry. -/
def entryDef (k : WordKind) : Nat → BitVec 96 := fun _ => emptyWord k

/-- Zeroing a whole slot (R72): the lease stands. -/
def zeroSlot (quad : Bool) (x : Slot) : Slot :=
  { x with word := .unset, lanes := 0, quad := quad, sat := false, entries := [], bad := [] }

/-- Zeroing the first `n` rows of a slot (R72). -/
def zeroRows (n : Nat) (x : Slot) : Slot :=
  { x with entries := tblClear 0 (n * x.cols) x.entries, bad := x.bad.filter fun i => n * x.cols ≤ i }

/-- The quarter that entry `i` of slot `n` lies in (R383): its Firebox's in quadrant mode, `quad` being the engine
mode in force; else by the halves of the slot's rows and columns. -/
def entryQuarter (quad : Bool) (n : Nat) (x : Slot) (i : Nat) : Nat :=
  if quad then n / 4
  else 2 * b2n (x.rows ≤ 2 * (i / x.cols)) + b2n (x.cols ≤ 2 * (i % x.cols))

/-- The Fireboxes that a slot's operations use in the engine mode in force. -/
def slotFbs (s : State) (n : Nat) : List Nat := if s.he.modeCur then [n / 4] else [0, 1, 2, 3]

/-- The domain of operations that name slot `n` (Table 8-1). -/
def slotDomain (s : State) (n : Nat) : Nat := if s.he.modeCur then 1 + n / 4 else 0

/-! ## Basin and HBM -/

/-- Bytes of Basin (R122) and of HBM (R126). -/
def basinCap (s : State) : Nat := popCount s.ba.bankIn.toNat 24 * 2 ^ 25
def hbmCap (s : State) : Nat := popCount s.ba.stackIn.toNat 8 * (24 * 2 ^ 30)

/-- First byte of the context store (R184). -/
def ctxBase (s : State) : Nat := basinCap s - 2 ^ 25

/-- The unit that serves a physical address: the in-service one of rank (granule mod n). -/
def unitOf (mask bits gran a : Nat) : Nat :=
  let us := bitList mask bits
  us.getD (a / gran % us.length) 0

/-- Whether the unit that serves an address has failed in service (R125). -/
def unitFailed (hbm : Bool) (s : State) (a : Nat) : Bool :=
  if hbm then s.ba.stackFail ≠ 0 && bitAt s.ba.stackFail.toNat (unitOf s.ba.stackIn.toNat 8 256 a)
  else s.ba.bankFail ≠ 0 && bitAt s.ba.bankFail.toNat (unitOf s.ba.bankIn.toNat 24 4096 a)

/-- Words with uncorrectable check bits. -/
def badWords (hbm : Bool) (s : State) : List Nat := if hbm then s.ba.hbmBad else s.ba.basinBad

/-- Whether a read of `n` bytes at `a` meets an uncorrectable word (R123, R125, R126). -/
def readBad (hbm : Bool) (s : State) (a n : Nat) : Bool :=
  let gran := if hbm then 256 else 4096
  (badWords hbm s).any (fun w => overlaps (8 * w) 8 a n)
    || ((if hbm then s.ba.stackFail ≠ 0 else s.ba.bankFail ≠ 0) && decide (n ≠ 0)
        && (List.range ((a + n - 1) / gran - a / gran + 1)).any fun i =>
            unitFailed hbm s ((a / gran + i) * gran))

def memOf (hbm : Bool) (s : State) : Memory := if hbm then s.ba.hbm else s.ba.basin

/-- Bytes of Basin or HBM at a physical address. -/
def readMem (hbm : Bool) (s : State) (a n : Nat) : List Byte := memRead memDefault (memOf hbm s) a n

def setMem (hbm : Bool) (s : State) (m : Memory) (bad : List Nat) : State :=
  if hbm then { s with ba := { s.ba with hbm := m, hbmBad := bad } }
  else { s with ba := { s.ba with basin := m, basinBad := bad } }

/-- Cells of a write that land: those of units that have not failed (R125). -/
def landCells (hbm : Bool) (s : State) (m' m : Memory) (a n : Nat) : Memory :=
  if (if hbm then s.ba.stackFail = 0 else s.ba.bankFail = 0) then m'
  else (List.range n).foldl
    (fun acc i => if unitFailed hbm s (a + i) then tblSet memDefault acc (a + i) (tblGet memDefault m (a + i))
      else acc) m'

/-- A write whose every byte lands, words wholly covered taking fresh check bits (R123). -/
def putMem (hbm : Bool) (s : State) (a : Nat) (bs : List Byte) : State :=
  let n := bs.length
  setMem hbm s (landCells hbm s (memWrite memDefault (memOf hbm s) a bs) (memOf hbm s) a n)
    ((badWords hbm s).filter fun w => !(decide (a ≤ 8 * w) && decide (8 * w + 8 ≤ a + n)))

/-- How many bytes of a write at `a` are carried out before one that would merge into an uncorrectable
word (R123). -/
def writeRoom (hbm : Bool) (s : State) (a n : Nat) : Nat :=
  let head := (8 - a % 8) % 8
  let tail := (a + n) % 8
  if n = 0 then 0
  else if (a % 8 ≠ 0 ∨ n < 8 - a % 8) ∧ readBad hbm s (a / 8 * 8) 8 then 0
  else if tail ≠ 0 ∧ head + tail ≤ n ∧ readBad hbm s ((a + n) / 8 * 8) 8 then n - tail
  else n

/-- A write as the engines make it: the state, and whether it met an uncorrectable word. -/
def writeMem (hbm : Bool) (s : State) (a : Nat) (bs : List Byte) : State × Bool :=
  let k := writeRoom hbm s a bs.length
  (if k = 0 then s else putMem hbm s a (bs.take k), decide (k ≠ bs.length))

/-- Zeros over a range with fresh check bits (R200, R204). -/
def zeroMem (hbm : Bool) (s : State) (a n : Nat) : State :=
  if n = 0 then s
  else setMem hbm s (tblClear a (a + n) (memOf hbm s))
    ((badWords hbm s).filter fun w => !(overlaps (8 * w) 8 a n))

/-- Physical address of a plot's Basin offset (R120). -/
def basinAddr (s : State) (p o : Nat) : Nat := (getPlot s p).basinBase.toNat * 2 ^ 20 + o
/-- Device address of a plot's HBM offset. -/
def hbmAddr (s : State) (p o : Nat) : Nat := (getPlot s p).hbmBase.toNat * 2 ^ 28 + o
def winAddr (hbm : Bool) (s : State) (p o : Nat) : Nat := if hbm then hbmAddr s p o else basinAddr s p o
def basinWin (s : State) (p : Nat) : Nat := (getPlot s p).basinSize.toNat * 2 ^ 20
def hbmWin (s : State) (p : Nat) : Nat := (getPlot s p).hbmSize.toNat * 2 ^ 28

/-! ## Furrows and plots -/

/-- The global furrow of local index `i` of plot `p` (R196). -/
def globalFur (s : State) (p i : Nat) : Option Nat :=
  let x := getPlot s p
  if i < x.furCount.toNat then some (x.furFirst.toNat + i) else none

/-- Local index of a global furrow. -/
def localFur (s : State) (f : Nat) : Nat := (getFur s f).localIdx.toNat
def furPlot (s : State) (f : Nat) : Nat := (getFur s f).plot.toNat

/-- The furrows a plot holds, in local order, that the table lists (the others are as reset leaves
them, with nothing queued). -/
def plotFurs (s : State) (p : Nat) : List Nat :=
  let x := getPlot s p
  (s.hg.furrows.map (·.1)).filter fun f => x.furFirst.toNat ≤ f && f < x.furFirst.toNat + x.furCount.toNat

/-- A furrow parked on `t`, if there is one (R165). -/
def parkerOf (s : State) (t : Nat) : Option Nat :=
  (s.hg.furrows.find? fun kv => kv.2.state == .parked && kv.2.parkedOn == some t).map (·.1)

/-- Entries of a ring between HEAD and the stored tail. -/
def Furrow.outstanding (x : Furrow) : Nat :=
  (x.tail.toNat + 2 ^ x.sizeLog2.toNat - x.head.toNat) % 2 ^ x.sizeLog2.toNat

/-- Domains (Table 1-4): bits of the PI_DOM cards. -/
def dFront : Nat := 0
def dChimney : Nat := 1
def dBasin : Nat := 2
def dHbm : Nat := 3
def dFb (q : Nat) : Nat := 4 + q
def dFlue (h : Nat) : Nat := 8 + h
def dCanal (n : Nat) : Nat := 10 + n

/-- What a domain needs (Table 1-4). -/
def domNeeds (d : Nat) : List Nat :=
  if d < 2 then [] else if d < 4 then [0] else if d < 8 then [0, 2] else if d < 10 then [2] else [0, 2]

/-- A domain with everything it needs, needed ones first (R19). -/
def domClosure (d : Nat) : List Nat :=
  if d < 2 then [d] else if d < 4 then [0, d] else [0, 2, d]

/-- Every domain of the list is STOKED. -/
def awake (s : State) (ds : List Nat) : Bool := ds.all fun d => getPower s d == .stoked

/-- Ignition of domains and of what they need (R223). Nothing ignites after a thermal trip or without
VAUX12 (R235, R369). -/
def ignite (ds : List Nat) (s : State) : State :=
  if s.pi.trip || !s.pins.vaux12 || s.pins.vaux12Lost then s
  else
    let ns := (ds.flatMap domClosure).eraseDups.filter fun d =>
      getPower s d != .stoked && !s.pi.waking.contains d
    { s with pi := { s.pi with waking := s.pi.waking ++ ns } }

end Sys2Proof.Machine
end

