-- ==== Sys2Proof/Machine/Mail.lean ====
section
/-!
DEFINITION. The mailbox's response side (11_chimney_firmware R248, R249): headers, and the writing of a
response.
-/
namespace Sys2Proof.Machine

/-- Fields of a message header (Table 11-7). -/
def msgType (b : List Byte) : Nat := leAt b 0 2
def msgVer (b : List Byte) : Nat := leAt b 2 2
def msgLen (b : List Byte) : Nat := leAt b 4 2

/-- Status codes (Table 11-9). -/
def stOk : Nat := 0
def stNoHello : Nat := 1
def stBadType : Nat := 2
def stBadArg : Nat := 3
def stDenied : Nat := 4
def stNoSpace : Nat := 5
def stNotFound : Nat := 6
def stInvalidList : Nat := 7
def stVersion : Nat := 8

/-- The header and body of a response to a held request. -/
def responseBytes (s : State) (m : Mailbox) (status : Nat) (body : List Byte) : List Byte :=
  natLe 2 (msgType m.held) ++ natLe 2 s.ch.mbVer.toNat ++ natLe 2 body.length ++ natLe 2 m.lastSeq.toNat
    ++ natLe 2 status ++ List.replicate 6 0 ++ body

/-- The vector that a mailbox raises: the PF's are one higher than a VF's (Table 14-5). -/
def mailVector (p v : Nat) : Nat := if p = 0 then v + 1 else v

/-- Firmware answers plot `p`'s held request: the response, then RESP_SEQ and PENDING (R249 step 5). -/
def respond (p status : Nat) (body : List Byte) (s : State) : State :=
  let m := (getPlot s p).mail
  let r := responseBytes s m status body
  let s1 := modMail p (fun m => { m with respBuf := r ++ m.respBuf.drop r.length, respSeq := m.lastSeq
                                         pending := false, begun := false, held := [] }) s
  if m.respSeq = m.lastSeq then s1 else msix p (mailVector p 0) s1

/-- A SCHED_SET of plot 0 that waited for its COMMIT is answered. -/
def answerSchedSet (s : State) : State :=
  let m := (getPlot s 0).mail
  if m.pending && m.begun && msgType m.held == 0x0042 && compRuns s 0 then respond 0 stOk [] s else s

end Sys2Proof.Machine
end

