-- ==== Sys2Proof/Config.lean ====
section
/-!
DEFINITION. What one part fixes and the manual does not print, and the free values. Every constant
here is opaque: nothing can evaluate it, so a claim that holds, holds whatever its value is.
-/
namespace Sys2Proof.Config

/-- Entry `j` of the direct table of built-in function `fn` (its FN code, 0x20 to 0x25) in table set 1,
which R105 defines by images that Deulinor publishes and the manual does not print. -/
opaque builtinDirect : Nat → Nat → BitVec 16
/-- Segment `s` of built-in function `fn`: sign and magnitude Y0, then D1 and D2 (R107). -/
opaque builtinY0 : Nat → Nat → BitVec 32
opaque builtinD1 : Nat → Nat → BitVec 32
opaque builtinD2 : Nat → Nat → BitVec 32

/-- The signature of the device key over a byte string (R329). -/
opaque deviceSign : List Byte → List Byte
/-- KEY_HASH in one-time fuses (R240). -/
opaque keyHash : List Byte
/-- MIN_SVN as the part's fuses hold it before any SVN_COMMIT (R244). -/
opaque minSvnFuse : BitVec 32
/-- Factory calibration values in fuses, bytes 17,408 to 25,599 of a record bank (R259, R261). -/
opaque factoryCalibration : Nat → Byte
/-- The steps of tile time that the Pilot chooses: in its `n`th step pattern, at a Pilot clock of it (R228). -/
opaque timeStep : Nat → Nat → Nat
/-- Pilot clocks that pass in the 32,768 reference periods of the `n`th step pattern, beyond the fewest that R213's
20 ppm allows. -/
opaque refClocks : Nat → Nat
/-- HCLK cycles that a read-out pause adds to HE_FB_WAIT_CYCLES: the `n`th such count. -/
opaque pauseCycles : Nat → BitVec 64
/-- The hottest HBM stack's temperature in degrees C, read by a PLDM sensor: the `n`th reading (R328). -/
opaque hbmTemperature : Nat → BitVec 8

/-- Where the SPDM certificate chain lies in the flash header region, and how long it is (R329, R331). -/
opaque certOffset : Nat
opaque certLength : Nat
/-- The `n`th random nonce of an SPDM response, 32 bytes (R329). -/
opaque spdmNonce : Nat → List Byte
/-- The MCTP base versions that Get MCTP Version Support reports (R327). -/
opaque mctpVersions : List Byte

/-- What comes of the `n`th mailbox request that R250 leaves undefined: whether it acts as one of the format that the tile
speaks, whether it is answered with a status and a body, and which. -/
opaque undefinedActs : Nat → Bool
opaque undefinedAnswers : Nat → Bool
opaque undefinedStatus : Nat → Nat
opaque undefinedBody : Nat → List Byte

end Sys2Proof.Config
end

