-- ==== Sys2Proof/Machine/FlueMath.lean ====
section
/-!
DEFINITION. The Flue's functions on elements and rows (05_flue R97 to R115): element-wise arithmetic,
table functions, gated functions, row normalisation, soft maximum.
-/
namespace Sys2Proof

/-- An element's image with its format. -/
structure El where
  f : Fmt
  v : Nat
  deriving DecidableEq, Repr

/-- The decoded element. -/
def El.val (x : El) : LVal := lDecode x.f.par x.v

/-- The element carried into a working scale (R32, R100). -/
def El.ext (work : LPar) (x : El) : Ext := Ext.ofL x.f.par work x.val

/-- The element's own exact value (R34, R103). -/
def El.lin (x : El) : Src := lLinear x.f.par x.val

/-- The simple functions of Table 5-4, by FN code. -/
inductive SimpleFn where
  | copy | add | sub | mul | div | max | min | muladd | neg | abs | recip | sqrt | rsqrt | log2 | exp2
  | cmpEq | cmpLt | cmpLe
  deriving DecidableEq, Repr

/-- The simple function of a code (Table 5-4). -/
def SimpleFn.ofCode : Nat → Option SimpleFn
  | 0x00 => some .copy | 0x01 => some .add | 0x02 => some .sub | 0x03 => some .mul | 0x04 => some .div
  | 0x05 => some .max | 0x06 => some .min | 0x07 => some .muladd | 0x08 => some .neg | 0x09 => some .abs
  | 0x0A => some .recip | 0x0B => some .sqrt | 0x0C => some .rsqrt | 0x0D => some .log2 | 0x0E => some .exp2
  | 0x10 => some .cmpEq | 0x11 => some .cmpLt | 0x12 => some .cmpLe | _ => none

/-- Operands a simple function takes. -/
def SimpleFn.arity : SimpleFn → Nat
  | .copy | .neg | .abs | .recip | .sqrt | .rsqrt | .log2 | .exp2 => 1
  | .muladd => 3
  | _ => 2

/-- DIV on extended codes (Table 5-5). -/
def extDiv (work : LPar) (a b : Ext) : Ext :=
  match a, b with
  | .nan, _ => .nan
  | _, .nan => .nan
  | .zero _, .zero _ => .nan
  | .inf _, .inf _ => .nan
  | .zero s, .fin s' _ => .zero (s != s')
  | .zero s, .inf s' => .zero (s != s')
  | .fin s _, .zero s' => .inf (s != s')
  | .fin s _, .inf s' => .zero (s != s')
  | .inf s, .zero s' => .inf (s != s')
  | .inf s, .fin s' _ => .inf (s != s')
  | .fin s t, .fin s' t' => .fin (s != s') (t - t' + work.b)

/-- RECIP (Table 5-5). -/
def extRecip (work : LPar) : Ext → Ext
  | .nan => .nan
  | .zero s => .inf s
  | .inf s => .zero s
  | .fin s t => .fin s (2 * work.b - t)

/-- SQRT (Table 5-5). -/
def extSqrt (work : LPar) : Ext → Ext
  | .nan => .nan
  | .zero s => .zero s
  | .inf s => if s then .nan else .inf false
  | .fin s t => if s then .nan else .fin false (work.b + rneDivInt (t - work.b) 2)

/-- RSQRT (Table 5-5). -/
def extRsqrt (work : LPar) : Ext → Ext
  | .nan => .nan
  | .zero s => .inf s
  | .inf s => if s then .nan else .zero false
  | .fin s t => if s then .nan else .fin false (work.b + rneDivInt (work.b - t) 2)

/-- EXP2 (Table 5-5): `v` is the operand's own value; the result is positive. A magnitude past every
format's range is cut to one that saturates or vanishes in the same way. -/
def extExp2 (work : LPar) : Src → Ext
  | .nan => .nan
  | .inf s => if s then .zero false else .inf false
  | .zero _ => .fin false work.b
  | .dy s m e =>
    let v : Dy := ⟨if s then -(m : Int) else m, e⟩
    if dyExp v < 40 then .fin false (work.b + rneDy ⟨v.m * 2 ^ work.p, v.e⟩ 0)
    else .fin false (if s then -(2 ^ 50 : Int) else 2 ^ 50)
  | .pow _ _ _ => .nan

/-- The result of a code-arithmetic function in OUT_FMT (R41, R101); far underflow goes to a zero. -/
def extDeliver (work out : LPar) (x : Ext) : Nat :=
  match x with
  | .fin s t => if t < -(2 ^ 45 : Int) then lCode out s 0 else (extToOut work out x).1
  | _ => (extToOut work out x).1

/-- LOG2 of an operand (R102): the exact value (e_a - b) / 2^p. -/
def extLog2 (work : LPar) : Ext → Src
  | .nan => .nan
  | .zero _ => .inf true
  | .inf s => if s then .nan else .inf false
  | .fin s t => if s then .nan else Src.ofDy false ⟨t - work.b, -(work.p : Int)⟩

/-- A choice between two operands (R45): the chosen element's image converted by R38. -/
def chooseEl (isMax : Bool) (a b : El) (out : LPar) : Nat :=
  let va := a.lin
  let vb := b.lin
  let conv := fun (x : El) => (lToL x.f.par out x.v).1
  match va, vb with
  | .nan, _ => out.nan
  | _, .nan => out.nan
  | .zero s, .zero s' => lCode out (if isMax then s && s' else s || s') 0
  | _, _ => if (if isMax then srcLt va vb else srcLt vb va) then conv b else conv a

/-- One element of a simple function (R100 to R104): image out. `a`, `b`, `c` are the operands in use. -/
def simpleElem (fn : SimpleFn) (work out : LPar) (a b c : El) : Nat :=
  let ea := a.ext work
  let eb := b.ext work
  match fn with
  | .copy => (lToL a.f.par out a.v).1
  | .add => (toL out (srcSum [a.lin, b.lin])).1
  | .sub => (toL out (srcSum [a.lin, b.lin.neg])).1
  | .muladd => (toL out (srcSum [extValue work (extMul work ea eb), c.lin])).1
  | .mul => extDeliver work out (extMul work ea eb)
  | .div => extDeliver work out (extDiv work ea eb)
  | .recip => extDeliver work out (extRecip work ea)
  | .sqrt => extDeliver work out (extSqrt work ea)
  | .rsqrt => extDeliver work out (extRsqrt work ea)
  | .exp2 => extDeliver work out (extExp2 work a.lin)
  | .log2 => (toL out (extLog2 work ea)).1
  | .neg => extDeliver work out (match ea with
      | .nan => .nan | .inf s => .inf (!s) | .zero s => .zero (!s) | .fin s t => .fin (!s) t)
  | .abs => extDeliver work out (match ea with
      | .nan => .nan | .inf _ => .inf false | .zero _ => .zero false | .fin _ t => .fin false t)
  | .max => chooseEl true a b out
  | .min => chooseEl false a b out
  | .cmpEq => if srcEq a.lin b.lin then 0x44 else 0
  | .cmpLt => if srcLt a.lin b.lin then 0x44 else 0
  | .cmpLe => if srcLt a.lin b.lin || srcEq a.lin b.lin then 0x44 else 0

/-- A function table in use: a built-in one by its FN code, or a loaded image (R105, R106). -/
inductive Table where
  | builtin (fn : Nat)
  | image (bytes : List Byte)
  deriving DecidableEq, Repr

/-- The L16 code of a dyadic constant. -/
def l16Of (m e : Int) : Nat := (toL parL16 (Src.ofDy false ⟨m, e⟩)).1

/-- Results of a built-in function at +0, -0, +inf, -inf (Table 5-6), as L16 images. -/
def builtinSpecial (fn k : Nat) : Nat :=
  let one := l16Of 1 0
  let half := l16Of 1 (-1)
  let inf := parL16.inf
  match fn, k with
  | 0x22, 0 => half | 0x22, 1 => half | 0x22, 2 => one | 0x22, _ => 0
  | 0x24, 0 => 0 | 0x24, 1 => 0x8000 | 0x24, 2 => one | 0x24, _ => 0x8000 + one
  | 0x25, 0 => one | 0x25, 1 => one | 0x25, 2 => inf | 0x25, _ => 0
  | _, 0 => 0 | _, 1 => 0x8000 | _, 2 => inf | _, _ => 0

/-- Flush thresholds of the built-in functions in sixteenths (Table 5-6). -/
def builtinFlush : Nat → Option Int
  | 0x20 => some (-105) | 0x21 => some (-95) | 0x22 => some (-356) | 0x23 => some (-408)
  | 0x25 => some (-356) | _ => none

/-- No built-in or loaded function produces an L16 subnormal (R105): an image's entry that is one gives +0, as a segment
result below code 8 does by R107 (log 104). -/
def noSubnormal (v : Nat) : Nat := if 0 < v % 2 ^ 15 ∧ v % 2 ^ 15 < 8 then 0 else v

/-- Whether a value lies strictly below the flush threshold (R105, R107 step 3). -/
def Table.flushes (t : Table) (x : Src) : Bool :=
  match t with
  | .builtin fn => match builtinFlush fn with
    | some n => srcLt x (Src.ofDy false ⟨n, -4⟩)
    | none => false
  | .image b => srcLt x (lLinear parL16 (lDecode parL16 (leAt b 8 2)))

/-- The L16 result for +0, -0, +inf, -inf (k = 0 to 3). -/
def Table.special (t : Table) (k : Nat) : Nat :=
  match t with
  | .builtin fn => builtinSpecial fn k
  | .image b => noSubnormal (leAt b (10 + 2 * k) 2)

/-- DIRECT entry `j`. -/
def Table.direct (t : Table) (j : Nat) : Nat :=
  match t with
  | .builtin fn => noSubnormal (Config.builtinDirect fn j).toNat
  | .image b => noSubnormal (leAt b (64 + 2 * j) 2)

/-- Segment `s`: Y0, D1, D2 (Table 5-7). -/
def Table.seg (t : Table) (s : Nat) : Nat × Int × Int :=
  match t with
  | .builtin fn => ((Config.builtinY0 fn s).toNat, (Config.builtinD1 fn s).toInt, (Config.builtinD2 fn s).toInt)
  | .image b => (leAt b (576 + 12 * s) 4, toSigned 32 (leAt b (580 + 12 * s) 4), toSigned 32 (leAt b (584 + 12 * s) 4))

/-- The quadratic of R107 step 5. -/
def segEval (y0 : Nat) (d1 d2 r : Int) : Nat :=
  let acc : Int := (y0 % 2 ^ 31 : Nat) + d1 * r + d2 * r * (r - 255) / 256
  let n := (acc + 128) / 256
  if n < 8 then 0 else b2n (bitAt y0 31) * 2 ^ 15 + (if 32765 < n then 32765 else n.toNat)

/-- A table function of one L8 or L16 element, as an L16 image (R107). -/
def tableEval (t : Table) (x : El) : Nat :=
  match x.val with
  | .nan => parL16.nan
  | .zero s => t.special (b2n s)
  | .inf s => t.special (2 + b2n s)
  | .fin _ _ =>
    if t.flushes x.lin then 0
    else if x.f = .l8 then t.direct x.v
    else let g := t.seg (x.v / 256 % 256); segEval g.1 g.2.1 g.2.2 (x.v % 256 : Nat)

/-- A table function converted into the output format. -/
def tableElem (t : Table) (x : El) (out : LPar) : Nat := (lToL parL16 out (tableEval t x)).1

/-- A gated function (R108): A times f(B), by code addition in the L16 scale. -/
def gatedElem (t : Table) (a b : El) (out : LPar) : Nat :=
  let f : El := ⟨.l16, tableEval t b⟩
  extDeliver parL16 out (extMul parL16 (a.ext parL16) (f.ext parL16))

/-- The table that a gated code applies (Table 5-4). -/
def gateTable : Nat → Nat
  | 0x28 => 0x20
  | 0x29 => 0x21
  | _ => 0x23

/-- A linear value as an E96 content. -/
def El.acc (x : El) : Acc := Acc.ofSrc x.lin

/-- The WELFORD statistics of a row (R110, Table 4-7). -/
def welfordRow (xs : List Acc) : Welford := xs.foldl (fun w x => (w.step x).1) Welford.init

/-- The sum of squares of a row, from an empty accumulation (R110). -/
def sumSqRow (xs : List Acc) : Acc :=
  match xs with
  | [] => .fin ⟨0, 0⟩
  | x :: t => t.foldl (fun q y => (eAdd q (eMul y y).1).1) (eMul x x).1

/-- One row of NORM (R110): values, gamma, beta, eps; images in the output format. -/
def normRow (rms : Bool) (xs : List Acc) (gamma beta : Option (List Acc)) (eps : Acc) (out : LPar) : List Nat :=
  let w := welfordRow xs
  let mean := if rms then .fin ⟨0, 0⟩ else w.mean
  let v := if rms then (eDiv (sumSqRow xs) (accNat xs.length)).1 else (eDiv w.m2 (accNat w.n)).1
  let g := (eDiv (.fin ⟨1, 0⟩) (eSqrt (eAdd v eps).1).1).1
  (List.range xs.length).zip xs |>.map fun cx =>
    let y := (eMul (eSub cx.2 mean).1 g).1
    let y := match gamma with | some gs => (eMul y (gs.getD cx.1 .nan)).1 | none => y
    let y := match beta with | some bs => (eAdd y (bs.getD cx.1 .nan)).1 | none => y
    (toL out y.src).1

/-- expe(l16(a - b)) as an L16 element (R113). -/
def expeDiff (a b : Src) : El := ⟨.l16, tableEval (.builtin 0x25) ⟨.l16, (toL parL16 (srcSum [a, b.neg])).1⟩⟩

/-- The largest of non-NaN values by R45. -/
def srcMaxList : List Src → Src
  | [] => .inf true
  | x :: xs => xs.foldl srcMax x

/-- The three-pass denominator (R113): the terms in increasing position. -/
def softSum3 (m : Src) (xs : List Src) : Acc :=
  xs.foldl (fun s x => (accAdd .e96 s (expeDiff x m).acc).1) .empty

/-- One step of the two-pass first pass (R114). While m is -inf a live -inf adds its term +0. The steps are R114's, each
with its rounding; where many of them would part from the three-pass result by more than R115 bounds, R114 is
followed (log 109). -/
def softStep2 (sm : Acc × Src) (x : Src) : Acc × Src :=
  if srcLt sm.2 x then ((eAdd (eMul sm.1 (expeDiff sm.2 x).acc).1 (.fin ⟨1, 0⟩)).1, x)
  else if x == .inf true then (sm.1, sm.2)
  else ((eAdd sm.1 (expeDiff x sm.2).acc).1, sm.2)

/-- The two-pass denominator (R114). -/
def softSum2 (xs : List Src) : Acc := (xs.foldl softStep2 (.fin ⟨0, 0⟩, .inf true)).1

/-- One row of a soft maximum (R113, R114): elements with their liveness; images in the output format. -/
def softmaxRow (three : Bool) (row : List (Src × Bool)) (out : LPar) : List Nat :=
  let live := (row.filter (·.2)).map (·.1)
  let z0 := lCode out false 0
  let k := live.countP (· == .inf false)
  if live.isEmpty then row.map fun _ => z0
  else if live.any (· == .nan) then row.map fun _ => out.nan
  else if 0 < k then
    let w := (toL out (if k = 1 then .dy false 1 0 else (eDiv (accNat 1) (accNat k)).1.src)).1
    row.map fun x => if x.2 && x.1 == .inf false then w else z0
  else
    let m := srcMaxList live
    if m == .inf true then row.map fun _ => z0
    else
      let s := if three then softSum3 m live else softSum2 live
      let sl : El := ⟨.l16, (toL parL16 s.src).1⟩
      row.map fun x =>
        if x.2 then extDeliver parL16 out (extDiv parL16 ((expeDiff x.1 m).ext parL16) (sl.ext parL16))
        else z0

/-- The checks of R117 on a loaded table image. -/
def tableImageOk (b : List Byte) : Bool :=
  leAt b 0 4 == 0x46544231 && leAt b 4 2 == 1 && leAt b 6 2 == 0 && leAt b 18 2 == 0
    && (((b.drop 24).take 36).all (· == 0)) && ((b.drop 3648).all (· == 0))
    && leAt b 60 4 == (crc32c (b.take 60 ++ (b.drop 64).take 4032)).toNat

end Sys2Proof
end

