-- ==== Sys2Proof/Machine/Operands.lean ====
section
/-!
DEFINITION. Descriptors (07_furrows_and_descriptors R153 to R158, R166, R168): the header, the opcode
table, every body, and the ranges that an operation uses (R381).
-/
namespace Sys2Proof.Machine

/-! ## Header and opcodes -/

def descOpcode (b : List Byte) : Nat := leAt b 0 1
def descExt (b : List Byte) : Bool := bitAt (leAt b 1 1) 0
def descVer (b : List Byte) : Nat := leAt b 2 1
def descTicket (b : List Byte) : BitVec 48 := bv 48 (leAt b 8 6)
def descCbufAddr (b : List Byte) : Nat := leAt b 16 8
def descCbufLen (b : List Byte) : Nat := leAt b 24 2

/-- Assigned opcodes (Table 7-5). -/
def opcodeAssigned (c : Nat) : Bool :=
  [0x00, 0x01, 0x02, 0x03, 0x04, 0x05, 0x08, 0x09, 0x0A, 0x0B, 0x0C, 0x0D, 0x10, 0x11, 0x12, 0x13].contains c

/-- Ring entries of an opcode. -/
def opcodeEntries (c : Nat) : Nat := if c = 0x0B then 2 else 1

/-- Kernel-only opcodes: PRIV in a USER or INNER furrow. -/
def opcodeKernelOnly (c : Nat) : Bool := decide (0x10 ≤ c)

/-- Opcodes whose completion later descriptors of the furrow wait for. -/
def opcodeBlocks (c : Nat) : Bool := [0x01, 0x03, 0x04, 0x0D, 0x11, 0x12].contains c

/-! ## Reason codes (Table 7-8) -/

def rOk : Nat := 0x00
def rFieldRange : Nat := 0x01
def rFormat : Nat := 0x02
def rWindow : Nat := 0x03
def rOverlap : Nat := 0x04
def rSlotMode : Nat := 0x05
def rSlotLease : Nat := 0x06
def rSlotShape : Nat := 0x07
def rFlueNone : Nat := 0x08
def rStatsOff : Nat := 0x09
def rTableEmpty : Nat := 0x0A
def rTableImage : Nat := 0x0B
def rOwner : Nat := 0x0C
def rEvent : Nat := 0x0D
def rList : Nat := 0x0E
def rCbuf : Nat := 0x0F
def rInner : Nat := 0x10
def rInnerFull : Nat := 0x11
def rCbufFault : Nat := 0x12
def rHwError : Nat := 0x20
def rHostFault : Nat := 0x21
def rAbortEpoch : Nat := 0x22
def rAbortMember : Nat := 0x23
def hPriv : Nat := 0x80
def hBadOpcode : Nat := 0x81
def hRingWrap : Nat := 0x82
def hTicketExhausted : Nat := 0x83
def hDescVer : Nat := 0x84
def hFetchFault : Nat := 0x85
def hExtMismatch : Nat := 0x86

/-- The code of the first check that fails, in the order given; 0 when none does (R380). -/
def firstCode : List (Bool × Nat) → Nat
  | [] => 0
  | (ok, c) :: t => if ok then firstCode t else c

/-! ## Ranges (R381) -/

/-- A byte range: first byte and length; length 0 is an unused range. -/
structure Range where
  a : Nat
  n : Nat
  deriving DecidableEq, Repr

/-- The extent of `r` rows of `b` bytes at base `a` with stride `st`. -/
def rowRange (a r b st : Nat) : Range := if r = 0 ∨ b = 0 then ⟨a, 0⟩ else ⟨a, (r - 1) * st + b⟩

def Range.meets (x y : Range) : Bool := overlaps x.a x.n y.a y.n
/-- The range ends within a window of `w` bytes (R121). -/
def Range.within (x : Range) (w : Nat) : Bool := decide (x.n = 0) || decide (x.a + x.n ≤ w)
/-- No two ranges of the list share a byte. -/
def apart : List Range → Bool
  | [] => true
  | x :: t => t.all (fun y => !x.meets y) && apart t

/-! ## GEMM (Table 7-6a) -/

/-- Reductions of Table 4-7. -/
inductive Reduce where
  | none | sum | sumsq | welford
  deriving DecidableEq, Repr

def reduceOf : Nat → Reduce
  | 0 => .none | 1 => .sum | 2 => .sumsq | _ => .welford

/-- Bytes of a reduction record. -/
def Reduce.size : Reduce → Nat
  | .none => 0 | .sum => 16 | .sumsq => 16 | .welford => 32

/-- The output side of a GEMM or a slot read (Table 4-6). Modes are the fields' own codes. -/
structure ReadDesc where
  rows : Nat
  cols : Nat
  outFmt : Nat
  outBase : Nat
  outStride : Nat
  scaleEn : Bool
  scaleBase : Nat
  fuseOp : Nat
  fuseFmt : Nat
  fuseBase : Nat
  fuseStride : Nat
  reduce : Reduce
  axisCol : Bool
  statBase : Nat
  accum : Bool
  deriving DecidableEq, Repr

structure GemmDesc where
  m : Nat
  n : Nat
  k : Nat
  actFmt : Nat
  wFmt : Nat
  slot : Nat
  accum : Bool
  hold : Bool
  epiFn : Nat
  actBase : Nat
  wBase : Nat
  actStride : Nat
  wStride : Nat
  out : ReadDesc
  deriving DecidableEq, Repr

def gemmDesc (b : List Byte) : GemmDesc :=
  let m := leAt b 32 2 + 1
  let n := leAt b 34 2 + 1
  let acc := bitAt (leAt b 41 1) 4
  { m := m, n := n, k := leAt b 36 4 + 1
    actFmt := byteField b 40 0 4, wFmt := byteField b 40 4 4
    slot := byteField b 41 0 4, accum := acc, hold := bitAt (leAt b 41 1) 5
    epiFn := leAt b 44 1
    actBase := leAt b 48 4, wBase := leAt b 52 4, actStride := leAt b 64 4, wStride := leAt b 68 4
    out :=
      { rows := m, cols := n, outFmt := byteField b 42 0 4, outBase := leAt b 60 4, outStride := leAt b 72 4
        scaleEn := true, scaleBase := leAt b 56 4
        fuseOp := byteField b 42 4 2, fuseFmt := byteField b 43 0 4
        fuseBase := leAt b 76 4, fuseStride := leAt b 80 4
        reduce := reduceOf (byteField b 43 4 2), axisCol := bitAt (leAt b 42 1) 6
        statBase := leAt b 84 4, accum := acc } }

/-! ## FLUE (Table 7-6b) -/

structure FlueDesc where
  fn : Nat
  aFmt : Nat
  bFmt : Nat
  cFmt : Nat
  outFmt : Nat
  bMode : Nat        -- 0 NONE, 1 TENSOR, 2 ROW, 3 SCALAR
  cMode : Nat
  maskMode : Nat     -- 0 NONE, 1 BITMAP, 2 CAUSAL
  scaleEn : Bool
  rms : Bool
  rows : Nat
  cols : Nat
  aBase : Nat
  aStride : Nat
  bBase : Nat
  bStride : Nat
  cBase : Nat
  cStride : Nat
  outBase : Nat
  outStride : Nat
  maskBase : Nat
  maskStride : Nat
  deriving DecidableEq, Repr

def flueDesc (b : List Byte) : FlueDesc :=
  { fn := leAt b 32 1, aFmt := byteField b 33 0 4, bFmt := byteField b 33 4 4
    cFmt := byteField b 34 0 4, outFmt := byteField b 34 4 4
    bMode := byteField b 35 0 2, cMode := byteField b 35 2 2, maskMode := byteField b 35 4 2
    scaleEn := bitAt (leAt b 35 1) 6, rms := bitAt (leAt b 35 1) 7
    rows := leAt b 36 2 + 1, cols := leAt b 38 2 + 1
    aBase := leAt b 40 4, aStride := leAt b 44 4, bBase := leAt b 48 4, bStride := leAt b 52 4
    cBase := leAt b 56 4, cStride := leAt b 60 4, outBase := leAt b 64 4, outStride := leAt b 68 4
    maskBase := leAt b 72 4, maskStride := leAt b 76 4 }

/-- Classes of FLUE functions (Table 5-4). -/
inductive FlueClass where
  | simple | table | gated | norm | softmax3 | softmax2 | reserved
  deriving DecidableEq, Repr

def flueClass (fn : Nat) : FlueClass :=
  if (SimpleFn.ofCode fn).isSome then .simple
  else if (0x20 ≤ fn ∧ fn ≤ 0x25) ∨ (0x30 ≤ fn ∧ fn ≤ 0x3F) then .table
  else if 0x28 ≤ fn ∧ fn ≤ 0x2A then .gated
  else if fn = 0x40 then .norm else if fn = 0x41 then .softmax3 else if fn = 0x42 then .softmax2
  else .reserved

/-! ## MOVE (Table 7-6c) -/

structure SluiceDesc where
  src : Nat          -- 0 HOST, 1 BASIN, 2 HBM
  dst : Nat
  convert : Bool
  indexMode : Nat    -- 0 NONE, 1 GATHER, 2 SCATTER
  srcFmt : Nat
  dstFmt : Nat
  rows : Nat
  rowLen : Nat
  srcAddr : Nat
  dstAddr : Nat
  srcStride : Nat
  dstStride : Nat
  indexAddr : Nat
  deriving DecidableEq, Repr

def moveForm (b : List Byte) : Nat := leAt b 32 1

def sluiceDesc (b : List Byte) : SluiceDesc :=
  { src := byteField b 33 0 2, dst := byteField b 33 2 2, convert := bitAt (leAt b 33 1) 4
    indexMode := byteField b 33 5 2, srcFmt := byteField b 34 0 4, dstFmt := byteField b 34 4 4
    rows := leAt b 36 2 + 1, rowLen := leAt b 40 4, srcAddr := leAt b 48 8, dstAddr := leAt b 56 8
    srcStride := leAt b 64 4, dstStride := leAt b 68 4, indexAddr := leAt b 72 4 }

structure SlotDesc where
  slot : Nat
  partners : Nat
  fmt : Nat
  word : WordKind
  lanes : Nat
  base : Nat
  stride : Nat
  out : ReadDesc
  deriving DecidableEq, Repr

def slotDesc (b : List Byte) : SlotDesc :=
  let rows := leAt b 36 2 + 1
  let cols := leAt b 38 2 + 1
  let base := leAt b 40 4
  let stride := leAt b 44 4
  { slot := byteField b 33 0 4, partners := byteField b 33 4 4, fmt := byteField b 34 0 4
    word := if bitAt (leAt b 34 1) 4 then .e96 else .a96, lanes := byteField b 34 5 2
    base := base, stride := stride
    out :=
      { rows := rows, cols := cols, outFmt := byteField b 34 0 4, outBase := base, outStride := stride
        scaleEn := bitAt (leAt b 35 1) 0, scaleBase := leAt b 64 4
        fuseOp := byteField b 35 1 2, fuseFmt := byteField b 48 0 4
        fuseBase := leAt b 52 4, fuseStride := leAt b 56 4
        reduce := reduceOf (byteField b 35 3 2), axisCol := bitAt (leAt b 35 1) 5
        statBase := leAt b 60 4, accum := bitAt (leAt b 35 1) 6 } }

/-! ## Other bodies (Table 7-6d, Tables 9-2, 9-3) -/

def evtOf (b : List Byte) : Nat := leAt b 32 2
def valueOf (b : List Byte) : Nat := leAt b 40 8
def leaseSlot (b : List Byte) : Nat := byteField b 32 0 4
def targetOf (b : List Byte) : Nat := leAt b 32 2
def spawnCount (b : List Byte) : Nat := leAt b 34 2
def spawnBase (b : List Byte) : Nat := leAt b 36 4
def parkEvent (b : List Byte) : Nat := leAt b 34 2
def tlSlot (b : List Byte) : Nat := byteField b 32 0 4
def tlClear (b : List Byte) : Bool := bitAt (leAt b 33 1) 0
def tlBase (b : List Byte) : Nat := leAt b 36 4

structure PlotCtl where
  op : Nat
  plot : Nat
  slotMask : BitVec 16
  furFirst : Nat
  furCount : Nat
  evtCount : Nat
  sluiceMax : Nat
  deriving DecidableEq, Repr

def plotCtl (b : List Byte) : PlotCtl :=
  { op := leAt b 32 1, plot := byteField b 33 0 6, slotMask := bv 16 (leAt b 34 2)
    furFirst := leAt b 36 2, furCount := leAt b 38 2, evtCount := leAt b 40 2, sluiceMax := leAt b 42 1 }

structure WindowMapDesc where
  plot : Nat
  basinBase : Nat
  basinSize : Nat
  resBase : Nat
  resSize : Nat
  hbmBase : Nat
  hbmSize : Nat
  deriving DecidableEq, Repr

def windowMapDesc (b : List Byte) : WindowMapDesc :=
  { plot := byteField b 32 0 6, basinBase := leAt b 34 2, basinSize := leAt b 36 2, resBase := leAt b 38 2
    resSize := leAt b 40 2, hbmBase := leAt b 42 2, hbmSize := leAt b 44 2 }

/-- A binding of an INVOKE (Table 7-7). -/
structure Binding where
  io : Nat
  space : Nat
  fmt : Nat
  stride : Nat
  addr : Nat
  deriving DecidableEq, Repr

def bindingAt (b : List Byte) (off : Nat) : Binding :=
  { io := leAt b off 1, space := leAt b (off + 1) 1, fmt := leAt b (off + 2) 1
    stride := leAt b (off + 4) 4, addr := leAt b (off + 8) 8 }

structure InvokeDesc where
  listId : Nat
  rows : Nat
  nbind : Nat
  statePage : Nat
  deriving DecidableEq, Repr

def invokeDesc (b : List Byte) : InvokeDesc :=
  { listId := leAt b 32 4, rows := leAt b 36 2 + 1, nbind := leAt b 38 1, statePage := leAt b 40 4 }

/-- The bindings that the tile reads: 0 to 7 in the second entry, 8 to 15 in the snapshot, as far as it holds them
(R166). -/
def invokeBindings (b snap : List Byte) : List Binding :=
  (List.range (invokeDesc b).nbind).filterMap fun j =>
    if j < 8 then some (bindingAt b (128 + 16 * j))
    else if 16 * (j - 8) + 16 ≤ snap.length then some (bindingAt snap (16 * (j - 8))) else none

end Sys2Proof.Machine
end

