-- ==== Sys2Proof/Machine/Sched.lean ====
section
/-!
DEFINITION. Which operation may dispatch next, the two-level round robin, completion and retirement
(07 R154, R165, R169 to R171, R189; 08 R175 to R179, R187).
-/
namespace Sys2Proof.Machine

/-! ## Operations of a furrow -/

def findOp (s : State) (f id : Nat) : Option Op := (getFur s f).queue.find? (·.id == id)

/-- A change to one operation. -/
def modOp (f id : Nat) (g : Op → Op) (s : State) : State :=
  modFur f (fun x => { x with queue := x.queue.map fun o => if o.id = id then g o else o }) s

/-- Dispatched and not completed. -/
def Op.inFlight (o : Op) : Bool :=
  match o.phase with
  | .waiting | .running | .preempted | .ended => true
  | _ => false

/-- Started on an engine and not completed. -/
def Op.started (o : Op) : Bool :=
  match o.phase with
  | .running | .preempted | .ended => true
  | _ => false

/-- The slot an operation names, when its opcode names one. -/
def Op.slot? (o : Op) : Option Nat :=
  if o.opcode = 0x08 then some (gemmDesc o.bytes).slot
  else if o.opcode = 0x0A ∧ 1 ≤ moveForm o.bytes ∧ moveForm o.bytes ≤ 4 then some (slotDesc o.bytes).slot
  else none

/-- The domain an operation belongs to (Table 8-1), in the engine mode in force. -/
def opDomain (s : State) (o : Op) : Option Nat :=
  if o.opcode = 0x09 then some 5
  else if o.opcode = 0x0A ∧ moveForm o.bytes = 0 then some 6
  else o.slot?.map (slotDomain s)

/-- The first operation not dispatched, unless an earlier one holds back what follows it (R154). -/
def nextUndispatched : List Op → Option Op
  | [] => none
  | o :: t =>
    match o.phase with
    | .accepted | .snapshot => some o
    | .done => nextUndispatched t
    | _ => if opcodeBlocks o.opcode then none else nextUndispatched t

/-- Whether the Headgate may dispatch from a furrow (Table 7-2, R165, R193, R272). A furrow that halted because it
accepted the last ticket of all still runs what it has accepted (R161). -/
def canDispatch (s : State) (f : Nat) : Bool :=
  let x := getFur s f
  !s.sb.escHgStop && !s.pi.trip && awake s [dFront]
    && (getPlot s x.plot.toNat).state == .live
    && x.arm && !x.draining
    && (x.state == .active || x.state == .halted && x.haltReason == bv 8 hTicketExhausted)
    && (x.kind != 2 || (parkerOf s f).isSome)

/-- The slots that an operation names: its own, its partners (R76), that of LEASE and RELEASE. -/
def Op.slots (o : Op) : List Nat :=
  if o.opcode = 0x04 ∨ o.opcode = 0x05 then [leaseSlot o.bytes]
  else match o.slot? with
    | none => []
    | some n =>
      if o.opcode = 0x0A ∧ moveForm o.bytes = 1 then
        n :: (bitList (slotDesc o.bytes).partners 4).map fun q => 4 * q + n % 4
      else [n]

/-- A RELEASE of a slot that the operation names still waits before it (R80), or an earlier operation on a slot that
it names has not made its last access (R81); a collective makes its last in phase C. -/
def slotHeldBack (q : List Op) (o : Op) : Bool :=
  (q.takeWhile (·.id != o.id)).any fun e =>
    (e.opcode == 0x05 && e.phase == .waiting && o.slots.contains (leaseSlot e.bytes))
    || (o.slot?.isSome && e.started && o.slots.any fun n => e.slots.contains n)

/-- The operation whose turn it is in ring order. -/
def turnOp (s : State) (f : Nat) : Option Op :=
  if canDispatch s f then
    match nextUndispatched (getFur s f).queue with
    | some o => if slotHeldBack (getFur s f).queue o then none else some o
    | none => none
  else none

/-- Operations dispatched before this one that have not completed. -/
def earlierOpen (q : List Op) (id : Nat) : Bool :=
  (q.takeWhile (·.id != id)).any fun o => o.phase != .done

/-! ## Readiness -/

/-- Channels that run MOVEs of a plot. -/
def plotChannels (s : State) (p : Nat) : Nat :=
  s.sl.channels.countP fun kv => kv.2.busy && kv.2.plot.toNat == p

/-- The lowest-numbered channel that is free and in service (R132). A SLUICE_MAX above the number in service
thereby acts as that number (R345). -/
def freeChannel (s : State) : Option Nat :=
  (List.range 32).find? fun c => !(getChan s c).busy && sluiceIn s c

/-- New dispatch is held in a domain (R56, R187). -/
def domHeld (s : State) (d : Nat) : Bool := decide (d ≤ 4) && (s.hg.hearthHold || s.he.pending)

/-- The preempted operation that a furrow holds in a domain, a collective ready for phase C among them. -/
def preemptedOp (s : State) (d f : Nat) : Option Op :=
  (getFur s f).queue.find? fun o =>
    o.phase == .preempted && o.coll != 1 && opDomain s o == some d && (d == 5 || o.quad == s.he.modeCur)

/-- What a furrow would run next in a domain: its preempted operation, or the next it may dispatch. -/
def readyOp (s : State) (d f : Nat) : Option Op :=
  match preemptedOp s d f with
  | some o => some o
  | none =>
    match turnOp s f with
    | some o =>
      if opDomain s o = some d ∧ o.phase ≠ .snapshot ∧ domHeld s d = false
          ∧ (d = 6 → (freeChannel s).isSome ∧ plotChannels s (furPlot s f) < (getPlot s (furPlot s f)).sluiceMax.toNat)
      then some o else none
    | none => none

/-- The operation that runs in a domain for its holder; nothing runs while FRONT sleeps. The MOVEs of the SLUICE domain
run on channels of their own. -/
def runningOp (s : State) (d : Nat) : Option (Nat × Op) :=
  match (getDom s d).holder with
  | none => none
  | some f =>
    if awake s [dFront] = false ∨ d = 6 then none
    else
      let q := (getFur s f).queue.filter fun o => opDomain s o == some d
      match q.find? (·.phase == .running) with
      | some o => some (f, o)
      | none => (q.find? (·.phase == .ended)).map fun o => (f, o)

/-- Work that a furrow has in a domain; the holder's running operation counts (R178), but in the SLUICE domain, where
a MOVE that runs leaves its holder free to start another. -/
def hasWork (s : State) (d f : Nat) : Bool :=
  (readyOp s d f).isSome || (d != 6 && (match runningOp s d with | some (g, _) => g == f | none => false))

/-- The furrow that is served in a furrow's place in the order of R177: for a PARKED one the inner furrow it is parked
on, after what it has itself started in the domain. -/
def placeOf (s : State) (d g : Nat) : Option Nat :=
  let x := getFur s g
  if x.state = .parked then (if hasWork s d g then some g else x.parkedOn)
  else if x.kind = 2 ∧ (parkerOf s g).isSome then none
  else some g

/-- Places of a plot with work in a domain: local index of the place, and the furrow served there. -/
def readyPlaces (s : State) (d p : Nat) : List (Nat × Nat) :=
  (plotFurs s p).filterMap fun g =>
    match placeOf s d g with
    | some f => if hasWork s d f then some (localFur s g, f) else none
    | none => none

/-- The first element whose key lies after `k`, else the first of all. -/
def nextAfter (k : Nat) (xs : List (Nat × Nat)) : Option (Nat × Nat) :=
  match xs.find? fun x => k < x.1 with
  | some x => some x
  | none => xs.head?

/-! ## Rounds (R176) -/

def tableDefault : Nat → Nat × Nat := fun _ => (1, 1000)

/-- The share and the slice of a plot in force in a domain: those of the committed table once the domain has taken it,
else SHARE_CUR and SLICE_CUR. -/
def entryIn (s : State) (d p : Nat) : Nat × Nat :=
  match (getDom s d).taken with
  | some t => tblGet tableDefault t p
  | none => ((getPlot s p).share.toNat, (getPlot s p).slice.toNat)
def shareIn (s : State) (d p : Nat) : Nat := (entryIn s d p).1

def creditDef : Nat → Nat := fun _ => 1
def placeDef : Nat → Nat := fun _ => 1023

/-- Plots that have work in a domain, as (plot, 0), rising. -/
def readyPlots (s : State) (d : Nat) : List Nat :=
  (s.hg.plots.map (·.1)).filter fun p => !(readyPlaces s d p).isEmpty

/-- Domains that exist in the engine mode in force (Table 8-1). -/
def domainsNow (s : State) : List Nat := if s.he.modeCur then [1, 2, 3, 4, 5, 6] else [0, 5, 6]

/-- COMMIT is written: the pending table is captured for every domain (R176). A domain that took a table captured
before keeps it until its next round boundary. -/
def captureTable (s : State) : State :=
  let s1 := (List.range 7).foldl (fun t d => modDom d (fun x => { x with committed := false }) t)
    { s with hg := { s.hg with commit := true } }
  (s1.hg.plots.map (·.1)).foldl
    (fun t p => modPlot p (fun x => { x with shareNext := x.sharePend, sliceNext := x.slicePend }) t) s1

/-- The captured table, by plot. -/
def capturedTable (s : State) : Tbl (Nat × Nat) :=
  s.hg.plots.foldl (fun t kv => tblSet tableDefault t kv.1 (kv.2.shareNext.toNat, kv.2.sliceNext.toNat)) []

/-- Every domain has taken the committed table: it is the table in force, COMMIT clears, and a SCHED_SET
that waits is answered (R251). -/
def settleCommit (s : State) : State :=
  if s.hg.commit && (domainsNow s).all (fun d => (getDom s d).committed) then
    let s1 := (List.range 7).foldl (fun t d => modDom d (fun x => { x with committed := false, taken := none }) t)
      { s with hg := { s.hg with commit := false } }
    answerSchedSet ((s1.hg.plots.map (·.1)).foldl
      (fun t p => modPlot p (fun x => { x with share := x.shareNext, slice := x.sliceNext }) t) s1)
  else s

/-- A captured table takes effect in a domain. -/
def takeTable (d : Nat) (s : State) : State :=
  if s.hg.commit then settleCommit (modDom d (fun x => { x with committed := true, taken := some (capturedTable s) }) s)
  else s

/-- Plots with work in a domain that have a nonzero share there; where there are none, the domain serves the plots of
share 0 in rounds of their own. -/
def nonzeroReady (s : State) (d : Nat) : List Nat := (readyPlots s d).filter fun p => shareIn s d p ≠ 0

/-- The start of a round of the given kind: each plot's credits. -/
def newCredits (d : Nat) (zeroRound : Bool) (s : State) : State :=
  if zeroRound then modDom d (fun x => { x with credits0 := [] }) s
  else
    let cs := (s.hg.plots.map (·.1)).foldl (fun t p => tblSet creditDef t p (shareIn s d p)) []
    modDom d (fun x => { x with credits := cs }) s

/-- A round boundary of a domain: a captured table takes effect there, and the new round, of the kind that the plots
with ready work make it, gives every plot its credits. -/
def roundStart (d : Nat) (s : State) : State :=
  let s1 := takeTable d s
  newCredits d ((nonzeroReady s1 d).isEmpty && !(readyPlots s1 d).isEmpty) s1

/-- A grant: plot, place, furrow, whether a round boundary precedes it, whether it is of a share-0 round. -/
structure Grant where
  plot : Nat
  place : Nat
  fur : Nat
  boundary : Bool
  zeroRound : Bool
  deriving DecidableEq, Repr

/-- The plots, rising, that start after `k`. -/
def rotate (k : Nat) (ps : List Nat) : List Nat := ps.filter (k < ·) ++ ps.filter (· ≤ k)

/-- The slice that the present round still grants next in a domain. -/
def roundGrant (s : State) (d : Nat) (boundary : Bool) : Option Grant :=
  let dom := getDom s d
  let nz := nonzeroReady s d
  let zero := nz.isEmpty
  let credit := fun p => tblGet creditDef (if zero then dom.credits0 else dom.credits) p
  match (rotate dom.lastPlot ((if zero then readyPlots s d else nz).filter fun p => credit p ≠ 0)).head? with
  | none => none
  | some p =>
    (nextAfter (tblGet placeDef dom.lastFur p) (readyPlaces s d p)).map fun pf =>
      { plot := p, place := pf.1, fur := pf.2, boundary := boundary, zeroRound := zero }

/-- The slice that R176 and R177 grant next in a domain: in the present round, or, where no plot with ready work holds a
credit, in the round that starts then, with the table in force in it. -/
def grantOf (s : State) (d : Nat) : Option Grant :=
  match roundGrant s d false with
  | some g => some g
  | none => roundGrant (roundStart d s) d true

/-- The grant is made: one credit goes and the visit order moves on. -/
def useCredit (d : Nat) (g : Grant) (s : State) : State :=
  let s1 := if g.boundary then roundStart d s else s
  modDom d (fun x =>
    { x with
      credits := if g.zeroRound then x.credits else tblSet creditDef x.credits g.plot (tblGet creditDef x.credits g.plot - 1)
      credits0 := if g.zeroRound then tblSet creditDef x.credits0 g.plot (tblGet creditDef x.credits0 g.plot - 1) else x.credits0
      lastPlot := g.plot
      lastFur := tblSet placeDef x.lastFur g.plot g.place }) s1

/-- The furrow granted holds the domain's slice. -/
def giveSlice (d : Nat) (g : Grant) (s : State) : State :=
  modDom d (fun x => { x with holder := some g.fur, incoming := none }) (useCredit d g s)

/-- A holder with no further ready work in a domain forfeits its slice (R178). -/
def dropIdleHolder (d : Nat) (s : State) : State :=
  match (getDom s d).holder with
  | some g => if hasWork s d g then s else modDom d (fun x => { x with holder := x.incoming, incoming := none }) s
  | none => s

/-- Furrow `f` takes its turn in a domain: it holds the slice already and runs nothing there, or the next
slice is its own. -/
def takeTurn (d f : Nat) (s : State) : Option State :=
  let s0 := dropIdleHolder d s
  match (getDom s0 d).holder with
  | some g => if g = f ∧ (runningOp s0 d).isNone then some s0 else none
  | none =>
    match grantOf s0 d with
    | some g => if g.fur = f then some (giveSlice d g s0) else none
    | none => none

/-! ## Progress, retirement, completion -/

/-- One event of R189 for a furrow and for a furrow parked on it. -/
def progressOne (x : Furrow) : Furrow := { x with progress := x.progress + 1, slicesIdle := 0 }

def bumpProgress (f : Nat) (s : State) : State :=
  let s1 := modFur f progressOne s
  match parkerOf s f with
  | some g => modFur g progressOne s1
  | none => s1

/-- Retirement of the operations at the front of a furrow's queue (R169, R170): the furrow, and how many
retired. -/
def retireGo : List Op → Furrow → Nat → Furrow × Nat
  | [], x, n => ({ x with queue := [] }, n)
  | o :: t, x, n =>
    if o.phase = .done ∧ (o.reason = 0 ∨ x.fail = false) then
      let x1 := { x with doneTicket := o.ticket }
      let x2 := if o.reason = 0 then x1
        else { x1 with fail := true, failTicket := o.ticket, failReason := o.reason }
      retireGo t x2 (n + 1)
    else ({ x with queue := o :: t }, n)

/-- A step repeated `n` times. -/
def times (n : Nat) (g : State → State) (s : State) : State := (List.range n).foldl (fun s _ => g s) s

def retire (f : Nat) (s : State) : State :=
  let x := getFur s f
  let r := retireGo x.queue x 0
  times r.2 (bumpProgress f) (setFur s f r.1)

/-- A disarmed furrow with no dispatched operation left enters UNARMED (R149). -/
def drainCheck (f : Nat) (s : State) : State :=
  let x := getFur s f
  if x.draining && !x.queue.any Op.inFlight then
    setFur s f { x with draining := false, state := .unarmed }
  else s

/-- After an operation of furrow `f` in a domain: a slice that expired while it drained passes on to the furrow chosen
then, and a holder with no further ready work forfeits its slice (R178). -/
def yieldSlice (d f : Nat) (s : State) : State :=
  if (getDom s d).holder = some f ∧ (runningOp s d).isNone then
    dropIdleHolder d (match (getDom s d).incoming with
      | some g => modDom d (fun x => { x with holder := some g, incoming := none }) s
      | none => s)
  else s

/-- The Fireboxes of an operation's engine fall idle. -/
def idleFbs (qs : List Nat) (s : State) : State :=
  modFbs qs (fun x => { x with busy := false, runState := 0 }) s

/-- An operation completes with a reason (R169, R171): its engine, channel and table bindings are freed,
SAT is recorded, it and its followers retire as far as they can. -/
def completeOp (f id : Nat) (reason : Nat) (sat : Bool) (s : State) : State :=
  match findOp s f id with
  | none => s
  | some o =>
    let d := opDomain s o
    let s1 := modOp f id (fun o => { o with phase := .done, reason := bv 8 reason, sat := sat, binds := [] }) s
    let s2 := if sat then modFur f (fun x => { x with sat := true, satTicket := o.ticket }) s1 else s1
    let s3 := { s2 with sl := { s2.sl with channels := s2.sl.channels.filter fun kv => !(kv.2.busy && kv.2.op == id) } }
    let s4 := match d with
      | some d =>
        if d ≤ 4 ∧ (runningOp s d).map (fun r => (r.1, r.2.id)) = some (f, id) then idleFbs (slotFbs s (o.slot?.getD 0)) s3
        else s3
      | none => s3
    let s5 := drainCheck f (retire f s4)
    match d with
    | some d => yieldSlice d f s5
    | none => s5

/-- The saturation flag that an operation reports at completion, that of the slot it names as it then stands (R91,
R171): a GEMM, a slot-form MOVE. -/
def opSat (s : State) (o : Op) : Bool :=
  match o.slot? with
  | some n => (getSlot s n).sat
  | none => false

/-- A dispatched operation is over with a reason; OPERATION_COMPLETE completes it. -/
def endOp (f id reason : Nat) (s : State) : State :=
  modOp f id (fun o => { o with phase := .ended, reason := bv 8 reason }) s

/-- The slot rows that a GEMM touches from its start to its end (R59). -/
def gemmRows (x : Slot) (g : GemmDesc) : Nat := if g.m < x.rows then g.m else x.rows

/-- A Hearth operation stops on an error (R59, R181, R382): its rows are zeroed, it writes no further
read-out, and it ends with HW_ERROR. -/
def stopHearth (f : Nat) (o : Op) (s : State) : State :=
  let g := gemmDesc o.bytes
  endOp f o.id rHwError (modSlot g.slot (fun x => zeroRows (gemmRows x g) x) s)

/-- LAUNCH_TICKET advances to an operation's ticket (R159). -/
def launched (f : Nat) (o : Op) (s : State) : State := modFur f (fun x => { x with launchTicket := o.ticket }) s

end Sys2Proof.Machine
end

