-- ==== Sys2Proof/Machine/Raise.lean ====
section
/-!
DEFINITION. A fault event as the Pilot handles it: counting, escalation, the two channels, episodes
(12_smokebox R264 to R269, R276), and the marking out of failed units (15_reset_and_bringup R342, R343).
-/
namespace Sys2Proof.Machine

/-- The effective severity of an event, and whether escalation raised it (R267). `count` counts the event. -/
def effSev (x : Source) (count : BitVec 8) : BitVec 3 × Bool :=
  let up := x.countN ≠ 0 ∧ x.countN ≤ count ∧ x.sev < 4
  if up then (x.sev + 1, true) else (x.sev, false)

/-- The collector interrupt (R276): to CH3 and to plot 0's vector, each while enabled. -/
def collectorIrq (s : State) : State :=
  let s1 := if s.sb.ch3IrqEn then ignite [dChimney] (emit .ch3Irq s) else s
  if s.sb.hostIrqEn then msix 0 0 s1 else s1

/-- The bit that a named plot has in SB_EPISODE_PLOTS. -/
def plotBit : Option Nat → BitVec 64
  | some p => if p < 64 then 1#64 <<< p else 0
  | none => 0

/-- A collected event (R268, R269). -/
def collect (n : Nat) (plot : Option Nat) (eff : BitVec 3) (s : State) : State :=
  let sb := { s.sb with status := setBit s.sb.status n true }
  if sb.epOpen then
    collectorIrq { s with sb := { sb with epMerges := incHold sb.epMerges
                                          epSev := if sb.epSev < eff then eff else sb.epSev
                                          epPlots := sb.epPlots ||| plotBit plot } }
  else if 2 ≤ eff then
    collectorIrq { s with sb := { sb with epOpen := true, epSev := eff, epId := sb.epId + 1, epMerges := 0
                                          epTime := s.pi.time, epPlots := plotBit plot } }
  else
    let s1 := { s with sb := sb }
    if sb.irqSev ≤ eff then collectorIrq s1 else s1

/-- The source's own count and capture (R264, R267). -/
def countEvent (x : Source) : Source × BitVec 3 :=
  let count := if x.windowOpen then incHold x.count else 1
  let e := effSev x count
  let x1 := { x with count := count, windowOpen := true, events := incHold x.events }
  if x.chan = 0 then (x1, e.1)
  else ({ x1 with effSev := if x.effSev < e.1 then e.1 else x.effSev, escalated := x.escalated || e.2 }, e.1)

/-- The local channel (R265, R282): CH3's vector, latched while CH3's component does not run. -/
def localVector (n : Nat) (s : State) : State :=
  if compRuns s 3 then ignite [dChimney] (emit (.ch3Local n) s)
  else { s with ch := { s.ch with localPend := setBit s.ch.localPend n true } }

/-- The levels of conditions that persist (R264): host link lost, Canal port DOWN, reference lost, thermal
alert and trip, VAUX12 lost. -/
def liveHeld (s : State) : BitVec 64 :=
  let put := fun (n : Nat) (b : Bool) (v : BitVec 64) => setBit v n b
  let v := put 46 s.pins.vaux12Lost (put 45 s.pi.trip (put 44 s.pi.alert (put 42 s.pi.refAbsent (put 29 s.hp.lost 0))))
  [0, 1, 2, 3].foldl (fun v n => put (36 + n) ((getPort s n).state == .down) v) v

/-- SB_LIVE: what persists, and the pulse of a single error (R264). -/
def sbLive (s : State) : BitVec 64 := liveHeld s ||| s.sb.live

/-- The pulse that an event of source `n` leaves in SB_LIVE: none where a condition that persists shows it (log 96). -/
def pulse (s : State) (n : Nat) : BitVec 64 := if (liveHeld s).getLsbD n then 0 else setBit 0 n true

/-- One event of source `n` (R263 to R269), without the marking out of units. -/
def raiseBare (n : Nat) (plot : Option Nat) (s : State) : State :=
  if sourceReserved n then s
  else
    let x := getSrc s n
    let r := countEvent x
    let s1 := setSrc { s with sb := { s.sb with live := pulse s n } } n r.1
    let s2 := if x.chan = 1 then s1 else localVector n s1
    if x.chan = 0 then s2 else collect n plot r.2 s2

/-- The unit that an event of source `n` marks out at once (R342). -/
def failedUnit (n unit : Nat) : Option Nat :=
  if n = 13 then some statsBit
  else if n = 16 ∨ n = 17 then some (flueBit (n - 16))
  else if n = 20 then some (bankBit (unit % 24))
  else if n = 23 then some (stackBit (unit % 8))
  else if n = 58 then some (moduleBit (unit % 4))
  else if n = 49 ∨ n = 50 then some (coreBit (unit % 4))
  else none

/-- The unit that a source names for an escalated mark (R342). -/
def escalatedUnit (n unit : Nat) : Option Nat :=
  if n ≤ 3 then some (fbBit n)
  else if n ≤ 6 then some (fbBit (n - 3))
  else if 8 ≤ n ∧ n ≤ 11 then some (apBit (n - 8))
  else if n = 14 then some (flueBit (unit % 2))
  else if n = 25 then some (sluiceBit (unit % 32))
  else none

/-- The Hearth operation that runs in domain `d` stops (R59). -/
def stopDomain (d : Nat) (s : State) : State :=
  match runningOp s d with
  | some (f, o) =>
    if o.phase = .running then
      (if o.opcode = 0x08 then stopHearth f o s else endOp f o.id rHwError s)
    else s
  | none => s

/-- What the loss of a unit does to work in progress: a Firebox or quarter stops its Hearth operation
(R59), a Flue half stops the FLUE operation, a core stops (R346), the Scuttle holds no line any more (R144). -/
def loseUnit (bit : Nat) (s : State) : State :=
  if 48 ≤ bit ∧ bit < 52 then modCore (bit - 48) (fun x => { x with state := .stopped, wdogArmed := false }) s
  else if 32 ≤ bit ∧ bit < 40 then stopDomain (if s.he.modeCur then 1 + bit % 4 else 0) s
  else if bit = 41 ∨ bit = 42 then stopDomain 5 s
  else if bit = scuttleBit then { s with sc := { s.sc with lines := [], trans := [] } }
  else s

/-- CH3 marks a unit out (R342, R343, R347): PI_HEALTH, source 57, the record, PI_SERVICE. -/
def markOut (bit : Nat) (s : State) : State :=
  if outBit s bit then s
  else
    let s1 := loseUnit bit { s with pi := { s.pi with health := setBit s.pi.health bit true }
                                    ch := { s.ch with recordWant := true } }
    rewriteService (raiseBare 57 none s1)

/-- A mark, made at once or once CH3's component runs again. -/
def markUnit (bit : Nat) (s : State) : State :=
  if compRuns s 3 then markOut bit s
  else { s with ch := { s.ch with markDue := s.ch.markDue ++ [bit] } }

/-- One event of source `n`, with the mark it brings. `unit` names the bank, stack, module, core, Flue
half or channel of sources that have one line for several. -/
def raiseUnit (n : Nat) (plot : Option Nat) (unit : Nat) (s : State) : State :=
  let s1 := raiseBare n plot s
  match failedUnit n unit with
  | some b => markUnit b s1
  | none =>
    match escalatedUnit n unit with
    | some b => if (getSrc s1 n).escalated && !(getSrc s n).escalated then markUnit b s1 else s1
    | none => s1

/-- One event of a source that names no unit of its own. -/
def raise (n : Nat) (plot : Option Nat) (s : State) : State := raiseUnit n plot 0 s

/-- One HG_CONFLICT bit sets: 0 TRACE, 1 GAUGE, 2 SPILL (R209). -/
def conflict (bit : Nat) (s : State) : State :=
  let hg := if bit = 0 then { s.hg with conflictTrace := true }
    else if bit = 1 then { s.hg with conflictGauge := true } else { s.hg with conflictSpill := true }
  raise 54 none { s with hg := hg }

/-- An uncorrectable word of Basin or HBM met by an operation of `plot`, or by the scrubber (R123, R126). -/
def memUncorr (hbm : Bool) (plot : Option Nat) (s : State) : State :=
  if hbm then raise 21 plot { s with ba := { s.ba with hbmUncorr := incHold s.ba.hbmUncorr } }
  else raise 18 plot { s with ba := { s.ba with basinUncorr := incHold s.ba.basinUncorr } }

/-- A corrected word. -/
def memCorr (hbm : Bool) (s : State) : State :=
  if hbm then raise 22 none { s with ba := { s.ba with hbmCorr := incHold s.ba.hbmCorr } }
  else raise 19 none { s with ba := { s.ba with basinCorr := incHold s.ba.basinCorr } }

/-- A furrow halts with a reason (R152, R161); PRIV_SEEN and source 55 go with PRIV. -/
def haltFurrow (f reason : Nat) (s : State) : State :=
  let s1 := modFur f (fun x => { x with state := .halted, haltReason := bv 8 reason
                                        privSeen := x.privSeen || reason == hPriv }) s
  if reason = hPriv then raise 55 (some (furPlot s f)) s1 else s1

end Sys2Proof.Machine
end

