-- ==== Sys2Proof/Machine/Launch.lean ====
section
/-!
DEFINITION. The start of every dispatch: the operation whose turn it is, the domains it needs, its
constant buffer (07 R159, 10 R223), and rejection (07 R380). Also the records of preempted slots
(08 R184, R185), table bindings (05 R116) and the owner table (09 R208).
-/
namespace Sys2Proof.Machine

/-- A rejected operation completes with its code and changes nothing; its completion carries the flag of the slot it
names (R91). -/
def reject (f : Nat) (o : Op) (code : Nat) (s : State) : State :=
  completeOp f o.id code (opSat s o) (launched f o s)

/-- Whether a descriptor has a constant buffer to copy (R159; an address of 0 stands for none). -/
def hasCbuf (b : List Byte) : Bool := descCbufLen b != 0 && descCbufAddr b != 0

/-- The constant buffer of an inner furrow's operation is not wholly in the plot's window. -/
def snapOutside (s : State) (f : Nat) (o : Op) : Bool :=
  (getFur s f).kind == 2 && hasCbuf o.bytes && decide (basinWin s (furPlot s f) < descCbufAddr o.bytes + descCbufLen o.bytes)

/-- The code that a step's checks come to where the constant buffer of an inner furrow's operation lies out of the
window, which is a check of step 8 of Table 7-10: an earlier step's own code, else WINDOW. -/
def windowStep (s : State) (f : Nat) (o : Op) (code : Nat) : Nat :=
  if snapOutside s f o && !([rFormat, rFieldRange, rEvent, rInner, rInnerFull, rList] : List Nat).contains code then rWindow else code

/-- A snapshot lies in Basin, for an inner furrow; one out of the window is not copied, and its operation is rejected at
the window check. -/
def innerSnap (f : Nat) (o : Op) (s : State) : Except State (Op × State) :=
  let p := furPlot s f
  let a := descCbufAddr o.bytes
  let n := descCbufLen o.bytes
  let take := fun (b : List Byte) =>
    let o1 := { o with snapTaken := true, snapshot := b }
    Except.ok (o1, launched f o1 (modOp f o.id (fun _ => o1) s))
  if snapOutside s f o then take []
  else if readBad false s (basinAddr s p a) n then .error (reject f o rHwError (memUncorr false (some p) s))
  else take (readMem false s (basinAddr s p a) n)

/-- The constant buffer of an operation about to be dispatched: taken, empty, being copied, or refused. -/
def takeSnapshot (f : Nat) (o : Op) (s : State) : Except State (Op × State) :=
  let b := o.bytes
  if o.snapTaken then .ok (o, s)
  else if 512 < descCbufLen b ∨ descCbufAddr b % 8 ≠ 0 then .error (reject f o rCbuf s)
  else if !hasCbuf b then
    let o1 := { o with snapTaken := true }
    .ok (o1, launched f o1 (modOp f o.id (fun _ => o1) s))
  else if (getFur s f).kind = 2 then innerSnap f o s
  else .error (modOp f o.id (fun o => { o with phase := .snapshot }) s)

/-- The operation of furrow `f` that may be dispatched now, when `sel` selects it; an error carries the
state in which the command leaves the tile. -/
def beginDispatch (f : Nat) (sel : Op → Bool) (needs : List Nat) (s : State) : Except State (Op × State) :=
  match turnOp s f with
  | none => .error s
  | some o =>
    if !sel o || o.phase == .snapshot then .error s
    else if !awake s needs then .error (ignite needs s)
    else takeSnapshot f o s

/-- The same for an operation of an engine, which needs its turn in a domain too. -/
def beginEngine (d f : Nat) (sel : Op → Bool) (needs : List Nat) (s : State) : Except State (Op × State) :=
  match readyOp s d f with
  | none =>
    (match turnOp s f with
     | some o => if sel o ∧ o.phase ≠ .snapshot ∧ opDomain s o = some d ∧ awake s needs = false
                 then .error (ignite needs s) else .error s
     | none => .error s)
  | some o =>
    if !sel o || o.phase == .preempted then .error s
    else if !awake s needs then .error (ignite needs s)
    else match takeTurn d f s with
      | none => .error s
      | some s1 => takeSnapshot f o s1

/-! ## The owner table (R208) -/

/-- Whether a range that an operation writes meets the plot's residency region. -/
def meetsRes (s : State) (p : Nat) (r : Range) : Bool :=
  let x := getPlot s p
  overlaps (x.resBase.toNat * 2 ^ 20) (x.resSize.toNat * 2 ^ 20) r.a r.n

/-- A rejection by code, with SPILL where the owner table refuses (R209). -/
def rejectCode (f : Nat) (o : Op) (code : Nat) (s : State) : State :=
  let s1 := reject f o code s
  if code = rOwner then conflict 2 s1 else s1

/-! ## User tables (R105, R116) -/

/-- The active bank of a user slot. -/
def TableSlot.cur (t : TableSlot) : Option (List Byte) := if t.active then t.bank1 else t.bank0

/-- The user slot a function code names. -/
def userSlot (fn : Nat) : Option Nat := if 0x30 ≤ fn ∧ fn ≤ 0x3F then some (fn - 0x30) else none

/-- The bindings that an operation naming function `fn` takes at dispatch. -/
def bindsFor (s : State) (fn : Nat) : List (Nat × Nat) :=
  match userSlot fn with
  | some n => [(n, b2n (getTable s n).active)]
  | none => []

/-- The bank of user slot `n` in force under an operation's bindings: the one bound, else the active one. -/
def boundBank (s : State) (binds : List (Nat × Nat)) (n : Nat) : Nat :=
  ((binds.find? fun x => x.1 == n).map (·.2)).getD (b2n (getTable s n).active)

/-- What a bank of a user slot holds. -/
def TableSlot.bank (t : TableSlot) (b : Nat) : Option (List Byte) := if b = 1 then t.bank1 else t.bank0

/-- A table in every user slot named, in the banks that the bindings name. -/
def tableReady (s : State) (binds : List (Nat × Nat)) (fn : Nat) : Bool :=
  match userSlot fn with
  | some n => ((getTable s n).bank (boundBank s binds n)).isSome
  | none => true

/-- The table that a function code applies under an operation's bindings; none where its bank has an
uncorrectable error. -/
def tableFor (s : State) (binds : List (Nat × Nat)) (fn : Nat) : Option Table :=
  match userSlot fn with
  | none => some (.builtin (if 0x28 ≤ fn ∧ fn ≤ 0x2A then gateTable fn else fn))
  | some n =>
    let t := getTable s n
    let b := boundBank s binds n
    if t.bad.contains b then none else some (.image ((t.bank b).getD []))

/-- An uncorrectable table-bank read (05 corners): counted, source 14 with the half that met it. -/
def tableUncorr (p half : Nat) (s : State) : State :=
  raiseUnit 14 (some p) half { s with fl := { s.fl with tableUncorr := incHold s.fl.tableUncorr } }

/-! ## Full-width images (04 Table 4-9) -/

def wordCode : WordKind → Nat
  | .unset => 0 | .a96 => 1 | .e96 => 2

/-- Bytes of an image's header. -/
def imageHeader (x : Slot) : List Byte :=
  natLe 1 (wordCode x.word) ++ natLe 1 (2 ^ x.lanes.toNat) ++ natLe 1 (b2n x.quad) ++ natLe 1 (b2n x.sat)
    ++ natLe 2 x.rows ++ natLe 2 0 ++ natLe 4 x.cols ++ List.replicate 52 0

/-- Entries of a slot (R69, Table 4-4). -/
def slotEntries : Nat := 131072

/-- Bytes of an image (R89). -/
def imageSize : Nat := 64 + 12 * slotEntries

/-- The image of a slot. An uncorrectable entry leaves as NaN (R92). -/
def slotImage (x : Slot) : List Byte :=
  imageHeader x ++ (List.range slotEntries).flatMap fun i =>
    natLe 12 (if x.bad.contains i then encodeWord x.word .nan
              else (tblGet (entryDef x.word) x.entries i).toNat)

/-- The slot that an image header describes, entries empty; none where R89 refuses it. -/
def imageShape (h : List Byte) : Option Slot :=
  let w := leAt h 0 1
  let l := leAt h 1 1
  let m := leAt h 2 1
  let lanes : Option Nat := if l = 1 then some 0 else if l = 2 then some 1 else if l = 4 then some 2
    else if l = 8 then some 3 else none
  match lanes with
  | none => none
  | some k =>
    let x : Slot := { word := if w = 1 then .a96 else if w = 2 then .e96 else .unset
                      lanes := bv 2 k, quad := m == 1, sat := leAt h 3 1 == 1 }
    if w ≤ 2 ∧ m ≤ 1 ∧ leAt h 3 1 ≤ 1 ∧ leAt h 4 2 = x.rows ∧ leAt h 6 2 = 0 ∧ leAt h 8 4 = x.cols
        ∧ (h.drop 12).all (· == 0) = true then some x else none

/-- Entries of a slot from the bytes of an image's body. -/
def imageEntries (k : WordKind) (n : Nat) (body : List Byte) : Tbl (BitVec 96) :=
  (List.range n).foldr (fun i acc =>
    let w := bv 96 (leAt body (12 * i) 12)
    if w = emptyWord k then acc else (i, w) :: acc) []

/-- Physical address of the context-store record of slot `n` (R184). -/
def recordAddr (s : State) (n : Nat) : Nat := ctxBase s + 2 ^ 21 * n

/-- Uncorrectable entries read while an image is formed (R92). -/
def eccEntries (n : Nat) (p : Nat) (s : State) : State :=
  let x := getSlot s n
  x.bad.foldl (fun t i => raise (8 + entryQuarter s.he.modeCur n x i) (some p)
    { t with ap := { t.ap with eccUncorr := t.ap.eccUncorr + 1 } }) s

/-- The image of slot `n` goes to its record, which becomes valid (R182, R184). -/
def saveRecord (n : Nat) (s : State) : State :=
  let s1 := putMem false s (recordAddr s n) (slotImage (getSlot s n))
  { s1 with hg := { s1.hg with ctxValid := setBit s1.hg.ctxValid n true, ctxLost := setBit s1.hg.ctxLost n false } }

/-- The record of slot `n` is invalid. -/
def dropRecord (n : Nat) (s : State) : State :=
  { s with hg := { s.hg with ctxValid := setBit s.hg.ctxValid n false, ctxLost := setBit s.hg.ctxLost n false } }

/-- The slot as the first access after a save will find it (R185). -/
def slotView (s : State) (n : Nat) : Slot :=
  if s.hg.ctxValid.getLsbD n && s.hg.ctxLost.getLsbD n then
    match imageShape (readMem false s (recordAddr s n) 64) with
    | some x => { x with lease := (getSlot s n).lease }
    | none => getSlot s n
  else getSlot s n

/-- A slot takes the content of an image that lies at a physical address; false where an uncorrectable
word stopped it and the slot was zeroed whole (R90). -/
def restoreImage (n a : Nat) (shape : Slot) (p : Option Nat) (s : State) : State × Bool :=
  if readBad false s a imageSize then
    (memUncorr false p (modSlot n (zeroSlot s.he.modeCur) s), false)
  else
    (modSlot n (fun x => { shape with lease := x.lease
                                      entries := imageEntries shape.word slotEntries (readMem false s (a + 64) (12 * slotEntries)) }) s,
     true)

/-- The first access to a slot with a valid record (R185): a lost content is restored first; the record
becomes invalid. -/
def serveRecord (n : Nat) (p : Option Nat) (s : State) : State × Bool :=
  if s.hg.ctxValid.getLsbD n then
    if s.hg.ctxLost.getLsbD n then
      let a := recordAddr s n
      match imageShape (readMem false s a 64) with
      | some shape => let r := restoreImage n a shape p s; (dropRecord n r.1, r.2)
      | none =>
        if readBad false s a 64 then (dropRecord n (memUncorr false p (modSlot n (zeroSlot s.he.modeCur) s)), false)
        else (dropRecord n s, true)
    else (dropRecord n s, true)
  else (s, true)

end Sys2Proof.Machine
end

