-- ==== Sys2Proof/Machine/Hearth.lean ====
section
/-!
DEFINITION. GEMM: dispatch checks, passes, run sums, read-out and reductions (03_hearth R50 to R64,
R382; 04_ashpan R66 to R87; 05_flue R109). Commands GEMM, PASS_START, SLOT_ROW_READOUT.
-/
namespace Sys2Proof.Machine

/-! ## Geometry (Tables 3-2, 3-3) -/

def fmtOr (c : Nat) : Fmt := (Fmt.ofCode c).getD .l8

/-- Exact mode (R54). -/
def isExact (act w : Fmt) : Bool :=
  act == .l8 && (w == .w1 || w == .w2 || w == .w2z || w == .l4 || w == .l8)

/-- log2 of the lane count. -/
def lanesLog (act w : Fmt) : Nat :=
  if isExact act w then (match w with | .w1 => 3 | .w2 => 2 | .w2z => 2 | .l4 => 1 | _ => 0) else 0

/-- Output columns of one pass. -/
def nBlock (quad : Bool) (act w : Fmt) : Nat :=
  (if quad then 512 else 1024) * 2 ^ lanesLog act w
    / (if isExact act w then 1 else match w with | .l16 => 2 | .l32 => 4 | _ => 1)

/-- HCLK cycles per activation row. -/
def rowCycles (act w : Fmt) : Nat :=
  if isExact act w then 1
  else match w, act with
    | .l16, .l32 => 32
    | .l16, _ => 8
    | .l32, _ => 16
    | _, .l32 => 64
    | _, _ => 16

def kBlock (quad : Bool) : Nat := if quad then 512 else 1024

/-- A GEMM's geometry in the engine mode in force. -/
structure Geo where
  act : Fmt
  w : Fmt
  exact : Bool
  lanes : Nat
  rows : Nat         -- slot rows R
  cols : Nat         -- slot columns C
  nb : Nat           -- N block B
  kb : Nat           -- K block
  nTiles : Nat
  kTiles : Nat
  mTiles : Nat
  deriving DecidableEq, Repr

def geoOf (quad : Bool) (g : GemmDesc) : Geo :=
  let act := fmtOr g.actFmt
  let w := fmtOr g.wFmt
  let l := lanesLog act w
  let rows := (if quad then 256 else 128) / 2 ^ l
  let nb := nBlock quad act w
  let kb := kBlock quad
  { act := act, w := w, exact := isExact act w, lanes := l, rows := rows
    cols := (if quad then 512 else 1024) * 2 ^ l, nb := nb, kb := kb
    nTiles := (g.n + nb - 1) / nb, kTiles := (g.k + kb - 1) / kb, mTiles := (g.m + rows - 1) / rows }

/-- One pass: N tile, K block, first activation row and number of rows (R60, R61). -/
structure Pass where
  t : Nat
  kb : Nat
  m0 : Nat
  rows : Nat
  deriving DecidableEq, Repr

/-- Passes of an operation. -/
def passCount (q : Geo) : Nat := if q.kTiles ≤ 1 then q.nTiles else q.mTiles * q.nTiles * q.kTiles

def passAt (q : Geo) (g : GemmDesc) (i : Nat) : Pass :=
  if q.kTiles ≤ 1 then { t := i, kb := 0, m0 := 0, rows := g.m }
  else
    let mt := i / (q.nTiles * q.kTiles)
    let m0 := mt * q.rows
    { t := i / q.kTiles % q.nTiles, kb := i % q.kTiles, m0 := m0
      rows := if g.m - m0 < q.rows then g.m - m0 else q.rows }

/-- Whether a use of the entries of row m in N tile t is the operation's first (R62). -/
def firstUse (q : Geo) (m t : Nat) : Bool := decide (m < q.rows) && decide (t * q.nb < q.cols)

/-! ## Dispatch checks (Table 7-10) -/

/-- A format code that is legal on the output side. -/
def outFmtOk (c : Nat) : Bool := Fmt.ofCode c == some .l8 || Fmt.ofCode c == some .l16

def al64 (a : Nat) : Bool := a % 64 == 0

/-- A legal EPI_FN: NONE, simple unary or table (R109). -/
def epiOk (fn : Nat) : Bool :=
  fn == 0xFF || flueClass fn == .table
    || (match SimpleFn.ofCode fn with | some x => x.arity == 1 | none => false)

/-- Format checks of a read-out. -/
def readFmtOk (r : ReadDesc) : Bool := outFmtOk r.outFmt && (r.fuseOp == 0 || outFmtOk r.fuseFmt)

/-- Field checks of a read-out (Table 4-6). -/
def readFieldOk (r : ReadDesc) : Bool :=
  al64 r.outBase && al64 r.outStride && (!r.scaleEn || al64 r.scaleBase) && r.fuseOp != 3
    && (r.fuseOp == 0 || (al64 r.fuseBase && al64 r.fuseStride))
    && (r.reduce == .none || al64 r.statBase)

def readOutRange (r : ReadDesc) : Range :=
  rowRange r.outBase r.rows (r.cols * (fmtOr r.outFmt).size) r.outStride
def readFuseRange (r : ReadDesc) : Range :=
  if r.fuseOp = 0 then ⟨0, 0⟩ else rowRange r.fuseBase r.rows (r.cols * (fmtOr r.fuseFmt).size) r.fuseStride
def readScaleRange (r : ReadDesc) : Range := if r.scaleEn then ⟨r.scaleBase, 2 * r.cols⟩ else ⟨0, 0⟩
def readStatRange (r : ReadDesc) : Range := ⟨r.statBase, (if r.axisCol then r.cols else r.rows) * r.reduce.size⟩

/-- The fusion range coincides exactly with the output range (R82). -/
def fuseInPlace (r : ReadDesc) : Bool :=
  r.fuseOp != 0 && r.fuseBase == r.outBase && r.fuseStride == r.outStride && r.fuseFmt == r.outFmt

/-- No forbidden overlap of the output, fusion and statistics ranges with one another or with inputs. -/
def readApart (r : ReadDesc) (inputs : List Range) : Bool :=
  let out := readOutRange r
  let fuse := if fuseInPlace r then ⟨0, 0⟩ else readFuseRange r
  let stat := readStatRange r
  apart [out, fuse, stat] && [out, fuse, stat].all fun x => inputs.all fun y => !x.meets y

/-- The reduction's datapath is on (R87). -/
def statsOk (s : State) (r : ReadDesc) : Bool :=
  (r.reduce == .none || r.reduce == .sum) || (!s.ap.sumsOnly && statsIn s)

/-- A slot of the engine mode in force, on units in service (R55, R343). -/
def slotModeOk (s : State) (n : Nat) : Bool := if s.he.modeCur then fbIn s (n / 4) else wholeOk s

def gemmRanges (g : GemmDesc) (q : Geo) : Range × Range :=
  (rowRange g.actBase g.m (g.k * q.act.size) g.actStride,
   rowRange g.wBase g.n ((g.k * q.w.bits + 7) / 8) g.wStride)

/-- The code with which a GEMM is rejected; 0 when it passes every step. -/
def gemmCheck (s : State) (f : Nat) (o : Op) : Nat :=
  let g := gemmDesc o.bytes
  let q := geoOf s.he.modeCur g
  let p := furPlot s f
  let win := basinWin s p
  let conv := !g.hold
  let ra := gemmRanges g q
  let sl := slotView s g.slot
  let epi := conv && g.epiFn != 0xFF
  firstCode [
    ((match Fmt.ofCode g.actFmt with | some x => x.isL | none => false)
      && (match Fmt.ofCode g.wFmt with | some x => x.isWeight | none => false)
      && (!conv || readFmtOk g.out), rFormat),
    (decide (g.k ≤ 262144) && al64 g.actBase && al64 g.wBase
      && al64 g.actStride && decide (g.k * q.act.size ≤ g.actStride)
      && al64 g.wStride && decide ((g.k * q.w.bits + 7) / 8 ≤ g.wStride)
      && (!conv || (readFieldOk g.out && epiOk g.epiFn)), rFieldRange),
    (ra.1.within win && ra.2.within win
      && (!conv || ((readOutRange g.out).within win && (readFuseRange g.out).within win
        && (readScaleRange g.out).within win && (readStatRange g.out).within win)), rWindow),
    (slotModeOk s g.slot, rSlotMode),
    (sl.lease == some f, rSlotLease),
    ((!g.accum || (sl.word == (if q.exact then .a96 else .e96) && sl.lanes.toNat == q.lanes && sl.quad == s.he.modeCur))
      && (conv || (decide (g.m ≤ q.rows) && decide (g.n ≤ q.cols))), rSlotShape),
    (!conv || statsOk s g.out, rStatsOff),
    (!epi || flueIn s 0 || flueIn s 1, rFlueNone),
    (!epi || tableReady s o.binds g.epiFn, rTableEmpty),
    (!conv || readApart g.out [ra.1, ra.2, readScaleRange g.out], rOverlap),
    (!conv || (!meetsRes s p (readOutRange g.out) && !meetsRes s p (readStatRange g.out)), rOwner)]

/-! ## Start of an operation -/

/-- START on a slot (R62, R91). -/
def startSlot (word : WordKind) (lanes : Nat) (quad : Bool) (rows : Nat) (x : Slot) : Slot :=
  if x.word = word ∧ x.lanes.toNat = lanes ∧ x.quad = quad then
    { zeroRows rows x with sat := false }
  else { x with word := word, lanes := bv 2 lanes, quad := quad, sat := false, entries := [], bad := [] }

/-- The initial record of a reduction (Table 4-7). -/
def initRecord (r : Reduce) : List Byte :=
  match r with
  | .none => []
  | .sum | .sumsq => natLe 12 (encodeE96 .empty) ++ [0, 0, 0, 0]
  | .welford => natLe 4 0 ++ natLe 12 (encodeE96 (.fin ⟨0, 0⟩)) ++ natLe 12 (encodeE96 (.fin ⟨0, 0⟩)) ++ [0, 0, 0, 0]

/-- A read-out with ACC = START initialises its records (R85). -/
def initStats (p : Nat) (r : ReadDesc) (s : State) : State :=
  if r.reduce = .none ∨ r.accum then s
  else
    let n := if r.axisCol then r.cols else r.rows
    putMem false s (basinAddr s p r.statBase) ((List.range n).flatMap fun _ => initRecord r.reduce)

/-- The domains a Hearth operation on slot `n` needs. -/
def hearthNeeds (s : State) (n : Nat) : List Nat := dFront :: dBasin :: (slotFbs s n).map dFb

/-- The Flue half that carries the read-out of an entry in column-half `h` (Table 1-2, R95, R14): the half itself, or
the other while it is out of service. -/
def servingHalf (s : State) (h : Nat) : Nat := if flueIn s h then h else 1 - h

/-- The Flue half that carries the read-out of slot column `c` of a slot with `cols` columns: that of the slot's Firebox
in quadrant mode, of the column's half in whole-engine mode (R95). -/
def epiHalf (s : State) (quad : Bool) (slot cols c : Nat) : Nat :=
  servingHalf s (if quad then slot / 4 % 2 else b2n (decide (cols ≤ 2 * c)))

/-- The domains that a GEMM needs: those of its slot, and the Flue halves that its EPI_FN is applied in (R223). -/
def gemmNeeds (s : State) (o : Op) : List Nat :=
  let g := gemmDesc o.bytes
  hearthNeeds s g.slot ++
    (if g.hold || g.epiFn == 0xFF then []
     else if s.he.modeCur then [dFlue (servingHalf s (g.slot / 4 % 2))]
     else [dFlue (servingHalf s 0), dFlue (servingHalf s 1)].eraseDups)

/-- What the GEMM whose turn it is needs. -/
def gemmNeedsNext (s : State) (f : Nat) : List Nat :=
  match turnOp s f with
  | some o => gemmNeeds s o
  | none => []

/-- The Fireboxes and Stokers show an operation that starts loading. -/
def showStart (s0 : State) (f n : Nat) (s : State) : State :=
  modFbs (slotFbs s0 n) (fun x =>
    { x with busy := true, plot := bv 6 (furPlot s0 f), slot := bv 4 n, runState := 1, furrow := bv 14 f
             ctxPass := 0, ctxRow := 0 }) s

/-- A GEMM that has passed its checks starts (R62, R85, R116, R185). -/
def gemmStart (f : Nat) (o : Op) (s : State) : State :=
  let g := gemmDesc o.bytes
  let q := geoOf s.he.modeCur g
  let p := furPlot s f
  let r := serveRecord g.slot (some p) s
  let s1 := modOp f o.id (fun o =>
    { o with phase := .running, quad := s.he.modeCur, binds := if g.hold then [] else bindsFor s g.epiFn
             basinSize := basinWin s p, hbmSize := hbmWin s p, prog := {} }) r.1
  if r.2 = false then endOp f o.id rHwError s1
  else
    let s2 := if g.accum then s1 else modSlot g.slot (startSlot (if q.exact then .a96 else .e96) q.lanes s.he.modeCur
      (if g.m < q.rows then g.m else q.rows)) s1
    let s3 := if g.hold then s2 else initStats p g.out s2
    showStart s f g.slot s3

/-- The domain in which the next operation of a furrow would run. -/
def nextDomain (s : State) (f : Nat) : Nat :=
  match turnOp s f with
  | some o => (opDomain s o).getD 7
  | none => 7

def slotOfNext (s : State) (f : Nat) : Nat :=
  match turnOp s f with
  | some o => o.slot?.getD 0
  | none => 0

/-- GEMM (R63, R64). -/
def execGemm (f : Nat) (s : State) : Res :=
  match beginEngine (nextDomain s f) f (fun o => o.opcode == 0x08) (gemmNeedsNext s f) s with
  | .error s1 => .next s1
  | .ok (o, s1) =>
    let code := windowStep s1 f o (gemmCheck s1 f o)
    .next (if code = 0 then gemmStart f o s1 else rejectCode f o code s1)

/-! ## Passes -/

/-- The activations of row `m` in a K block, as extended codes. -/
def actRow (s : State) (p : Nat) (g : GemmDesc) (q : Geo) (work : LPar) (m k0 n : Nat) : List Ext :=
  let bytes := readMem false s (basinAddr s p (g.actBase + m * g.actStride + k0 * q.act.size)) (n * q.act.size)
  (List.range n).map fun i => Ext.ofL q.act.par work (lDecode q.act.par (leAt bytes (i * q.act.size) q.act.size))

/-- The codes of `n` weights of output column `c` from K index `k0` on, as Basin holds them; packed formats by R27. -/
def weightCodes (s : State) (p : Nat) (g : GemmDesc) (q : Geo) (c k0 n : Nat) : List Nat :=
  let bits := q.w.bits
  let b0 := k0 * bits / 8
  let v := leNat (readMem false s (basinAddr s p (g.wBase + c * g.wStride + b0)) (((k0 + n) * bits + 7) / 8 - b0))
  (List.range n).map fun i => bitField v ((k0 + i) * bits - 8 * b0) bits

/-- Cells that one weight occupies in float mode (R53). -/
def weightCells (w : Fmt) : Nat := match w with | .l16 => 2 | .l32 => 4 | _ => 1

/-- The weight bytes of one array row from the codes of the pass's output columns: in exact mode lane ℓ of cell column
c holds output column L·c + ℓ (R52, Table 3-1); in float mode a weight takes its cells in byte order (R53). -/
def packRow (q : Geo) (codes : List Nat) : List Byte :=
  if q.exact then
    let l := 2 ^ q.lanes
    (List.range ((codes.length + l - 1) / l)).map fun c =>
      bv 8 ((List.range l).foldl (fun v i => v + codes.getD (l * c + i) 0 % 2 ^ q.w.bits * 2 ^ (q.w.bits * i)) 0)
  else codes.flatMap (natLe (weightCells q.w))

/-- The code of output column `j` of a pass that an array row of cells holds (R52, R53). -/
def rowCode (q : Geo) (row : List Byte) (j : Nat) : Nat :=
  if q.exact then
    let l := 2 ^ q.lanes
    bitField (row.getD (j / l) 0).toNat (q.w.bits * (j % l)) q.w.bits
  else leAt row (j * weightCells q.w) (weightCells q.w)

/-- The weights of the pass's output column `j` from the rows of cells, as extended codes. -/
def cellCol (q : Geo) (work : LPar) (rows : List (List Byte)) (j : Nat) : List Ext :=
  rows.map fun row => Ext.ofL q.w.par work (weightDecode q.w (rowCode q row j))

/-- Lists of equal length `n`, turned about. -/
def turned (n : Nat) (cols : List (List Nat)) : List (List Nat) :=
  cols.foldr (List.zipWith (· :: ·)) (List.replicate n [])

/-- The rows of cells that the Fireboxes of slot `n`'s operations hold: Firebox q has row-half q >> 1 and
column-half q & 1 of the whole engine (01_the_tile R13). -/
def cellRows (s : State) (n : Nat) : List (List Byte) :=
  if s.he.modeCur then (getFb s (n / 4)).cells
  else List.zipWith (· ++ ·) (getFb s 0).cells (getFb s 1).cells ++ List.zipWith (· ++ ·) (getFb s 2).cells (getFb s 3).cells

/-- A weight block taken into the cells. -/
def putCells (n : Nat) (rows : List (List Byte)) (s : State) : State :=
  if s.he.modeCur then modFb (n / 4) (fun x => { x with cells := rows }) s
  else [0, 1, 2, 3].foldl (fun t q => modFb q (fun x =>
    { x with cells := ((rows.drop (512 * (q / 2))).take 512).map fun row => (row.drop (512 * (q % 2))).take 512 }) t) s

/-- A list cut into runs of 32 consecutive K indices (R50). -/
def runs32 (xs : List Ext) : List (List Ext) :=
  (List.range ((xs.length + 31) / 32)).map fun j => (xs.drop (32 * j)).take 32

/-- The run sums of one activation row and one output column in a K block (R50, R66 to R68). -/
def runSums (exact : Bool) (work : LPar) (as ws : List Ext) : List Acc :=
  (runs32 (List.zipWith (extMul work) as ws)).map (runSum exact work)

/-- Run sums folded into a content in increasing run index (R73 to R75); the flag is a clamp. -/
def foldRuns (k : WordKind) (x : Acc) (rs : List Acc) : Acc × Bool :=
  rs.foldl (fun a r => let z := accAdd k a.1 r; (z.1, a.2 || z.2)) (x, false)

/-- An uncorrectable entry of slot `n` is read: counted and raised (R92). -/
def entryUncorr (n i p : Nat) (s : State) : State :=
  raise (8 + entryQuarter s.he.modeCur n (getSlot s n) i) (some p)
    { s with ap := { s.ap with eccUncorr := s.ap.eccUncorr + 1 } }

/-- The operation will complete with HW_ERROR, and goes on. -/
def flagHw (f id : Nat) (s : State) : State := modOp f id (fun o => { o with reason := bv 8 rHwError }) s

/-- The content of entry `i` of slot `n`; an uncorrectable one reads as NaN (R92). -/
def entryAcc (x : Slot) (i : Nat) : Acc :=
  if x.bad.contains i then .nan else decodeWord x.word (tblGet (entryDef x.word) x.entries i).toNat

/-- An entry written, with fresh check bits; the flag is added to the slot's. -/
def putEntry (n i : Nat) (v : Acc) (clamp : Bool) (s : State) : State :=
  modSlot n (fun x => { x with entries := tblSet (entryDef x.word) x.entries i (bv 96 (encodeWord x.word v))
                               bad := x.bad.filter (· ≠ i), sat := x.sat || clamp }) s

/-- One output column of one activation row of a pass. -/
def foldColumn (f : Nat) (o : Op) (g : GemmDesc) (q : Geo) (pa : Pass) (work : LPar) (as : List Ext)
    (rows : List (List Byte)) (m : Nat) (s : State) (c : Nat) : State :=
  let p := furPlot s f
  let i := (m % q.rows) * q.cols + c % q.cols
  let x := getSlot s g.slot
  let fresh := pa.kb = 0 ∧ firstUse q m pa.t = false
  let s1 := if ¬ fresh ∧ x.bad.contains i then flagHw f o.id (entryUncorr g.slot i p s) else s
  let start := if fresh then .empty else entryAcc x i
  let r := foldRuns x.word start (runSums q.exact work as (cellCol q work rows (c - pa.t * q.nb)))
  putEntry g.slot i r.1 r.2 s1

/-- The columns of an N tile. -/
def tileCols (q : Geo) (g : GemmDesc) (t : Nat) : List Nat :=
  (List.range (if g.n - t * q.nb < q.nb then g.n - t * q.nb else q.nb)).map (t * q.nb + ·)

/-- K indices of a K block. -/
def blockK (q : Geo) (g : GemmDesc) (kb : Nat) : Nat :=
  if g.k - kb * q.kb < q.kb then g.k - kb * q.kb else q.kb

/-- Whether the weight block of a pass holds an uncorrectable Basin word (R382). -/
def weightsBad (s : State) (p : Nat) (g : GemmDesc) (q : Geo) (pa : Pass) : Bool :=
  let b0 := pa.kb * q.kb * q.w.bits / 8
  let n := ((pa.kb * q.kb + blockK q g pa.kb) * q.w.bits + 7) / 8 - b0
  (tileCols q g pa.t).any fun c => readBad false s (basinAddr s p (g.wBase + c * g.wStride + b0)) n

/-- The slot row that row m of N tile t needs still awaits read-out (R60, R61). -/
def rowBlocked (q : Geo) (ws : List AwaitRow) (m t : Nat) : Bool :=
  ws.any fun a => a.m % q.rows == m % q.rows && a.t * q.nb % q.cols == t * q.nb % q.cols

/-- HCLK cycles that Fireboxes wait for the load of pass `i`'s block before it issues (R58, R185): all 32 of them for an
operation's first pass and for a reload, else what the issue of the pass before leaves of them. -/
def passWait (q : Geo) (g : GemmDesc) (i : Nat) (reload : Bool) : Nat :=
  if i = 0 ∨ reload then 32 else 32 - (passAt q g (i - 1)).rows * rowCycles q.act q.w

/-- The rows of cells that the loader forms from a pass's weight block in Basin (R27, R52, R53). -/
def blockRows (s : State) (p : Nat) (g : GemmDesc) (q : Geo) (pa : Pass) : List (List Byte) :=
  (turned (blockK q g pa.kb) ((tileCols q g pa.t).map fun c => weightCodes s p g q c (pa.kb * q.kb) (blockK q g pa.kb))).map
    (packRow q)

/-- The current pass's weight block is swapped into the cells (R58): read from Basin at that moment. -/
def loadBlock (f : Nat) (o : Op) (g : GemmDesc) (q : Geo) (pa : Pass) (s : State) : State :=
  let s1 := putCells g.slot (blockRows s (furPlot s f) g q pa) s
  let s2 := modFbs (slotFbs s g.slot) (fun x =>
    { x with waitCycles := x.waitCycles + bv 64 (passWait q g o.prog.pass o.prog.reload), runState := 1 }) s1
  modOp f o.id (fun o => { o with prog := { o.prog with loaded := true, reload := false } }) s2

/-- One activation row issues, drains and folds; a row whose last run sum has come awaits read-out. -/
def issueRow (f : Nat) (o : Op) (g : GemmDesc) (q : Geo) (pa : Pass) (j : Nat) (s : State) : State :=
  let p := furPlot s f
  let m := pa.m0 + j
  let k0 := pa.kb * q.kb
  let kn := blockK q g pa.kb
  let work := (widest [q.act, q.w]).par
  let as := actRow s p g q work m k0 kn
  let s1 := (tileCols q g pa.t).foldl (foldColumn f o g q pa work as (cellRows s g.slot) m) s
  let s2 := modFbs (slotFbs s g.slot) (fun x =>
    { x with issueCycles := x.issueCycles + bv 64 (rowCycles q.act q.w), runState := 2
             ctxPass := bv 32 o.prog.pass, ctxRow := bv 16 (j + 1) }) s1
  modOp f o.id (fun o => { o with prog := { o.prog with row := j + 1
                                                        await := if pa.kb + 1 = q.kTiles ∧ g.hold = false
                                                          then o.prog.await ++ [⟨m, pa.t⟩] else o.prog.await } }) s2

/-- The end of a pass (R58, R189). -/
def endPass (f : Nat) (o : Op) (g : GemmDesc) (q : Geo) (s : State) : State :=
  let next := o.prog.pass + 1
  let last := next = passCount q
  let s1 := modFbs (slotFbs s g.slot) (fun x =>
    { x with passes := x.passes + 1, runState := if last then 3 else 1, ctxPass := bv 32 next, ctxRow := 0 }) s
  let s2 := modOp f o.id (fun o =>
    { o with prog := { o.prog with pass := next, row := 0, loaded := false }
             phase := if last ∧ o.prog.await = [] then .ended else o.phase }) s1
  bumpProgress f s2

/-- Up to `rows` activation rows of the current pass (R58, R60, R61). -/
def runRows (f : Nat) (g : GemmDesc) (q : Geo) (pa : Pass) (id : Nat) : Nat → State → State
  | 0, s => s
  | n + 1, s =>
    match findOp s f id with
    | none => s
    | some o =>
      let j := o.prog.row
      if pa.rows ≤ j then s
      else if rowBlocked q o.prog.await (pa.m0 + j) pa.t then s
      else if readBad false s (basinAddr s (furPlot s f) (g.actBase + (pa.m0 + j) * g.actStride + pa.kb * q.kb * q.act.size))
          (blockK q g pa.kb * q.act.size) then
        stopHearth f o (memUncorr false (some (furPlot s f)) s)
      else
        let s1 := issueRow f o g q pa j s
        if j + 1 = pa.rows then endPass f o g q s1 else runRows f g q pa id n s1

/-- The pass that the running GEMM of a domain is in: its weight block is loaded first where the cells do not hold it
yet. A block with an uncorrectable word is not loaded, and the operation stops (R382). -/
def runPass (f : Nat) (o : Op) (rows : Nat) (s : State) : State :=
  let g := gemmDesc o.bytes
  let q := geoOf o.quad g
  if o.phase ≠ .running ∨ passCount q ≤ o.prog.pass then s
  else
    let pa := passAt q g o.prog.pass
    let p := furPlot s f
    if o.prog.loaded then runRows f g q pa o.id rows s
    else if weightsBad s p g q pa then stopHearth f o (memUncorr false (some p) s)
    else runRows f g q pa o.id rows (loadBlock f o g q pa s)

/-- Whether a fault can befall the running operation: weight parity is checked at the swap, in a Firebox of the
operation (R59); a follower compares its steps in whole-engine mode (R180, R181). -/
def faultCan (s : State) (o : Op) (flt : PassFault) : Bool :=
  match flt with
  | .none => false
  | .parity q => !o.prog.loaded && (slotFbs s (gemmDesc o.bytes).slot).contains q
  | .lockstep n => !s.he.modeCur && decide (1 ≤ n) && decide (n ≤ 3)

/-- A follower Stoker's mismatch is counted and reported on its source line (R181). -/
def lockstepReport (f n : Nat) (s : State) : State :=
  raise (3 + n) (some (furPlot s f)) (modFb n (fun x => { x with lockErr := incHold x.lockErr }) s)

/-- A weight-parity mismatch at the swap (R59), or a lockstep mismatch (R181). -/
def passFault (f : Nat) (o : Op) (flt : PassFault) (s : State) : State :=
  if faultCan s o flt = false then s
  else match flt with
    | .none => s
    | .parity q => raise q (some (furPlot s f)) (stopHearth f o s)
    | .lockstep n => lockstepReport f n (stopHearth f o s)

/-- The preempted operation whose context save the Stokers of the whole engine show as the last thing they did. -/
def savingOp (s : State) (d : Nat) : Option (Nat × Op) :=
  let f := (getFb s 0).furrow.toNat
  if d = 0 ∧ s.he.modeCur = false ∧ (getFb s 0).runState = 4 then
    ((getFur s f).queue.find? fun o => o.phase == .preempted && o.coll == 0 && opDomain s o == some 0).map fun o => (f, o)
  else none

/-- A lockstep mismatch during a context save (08 corners): the save is abandoned, the record is not valid, and the
operation stops as under R181. -/
def abandonSave (f : Nat) (o : Op) (n : Nat) (s : State) : State :=
  let s1 := stopHearth f o (dropRecord (gemmDesc o.bytes).slot s)
  lockstepReport f n (idleFbs [0, 1, 2, 3] s1)

/-- PASS_START (R58). -/
def execPassStart (d rows : Nat) (flt : PassFault) (s : State) : Res :=
  match runningOp s d with
  | some (f, o) =>
    if o.opcode = 0x08 ∧ o.phase = .running ∧ o.prog.pass < passCount (geoOf o.quad (gemmDesc o.bytes)) then
      .next (match flt with
        | .none => runPass f o rows s
        | _ => passFault f o flt s)
    else .next s
  | none =>
    match savingOp s d, flt with
    | some (f, o), .lockstep n => .next (if 1 ≤ n ∧ n ≤ 3 then abandonSave f o n s else s)
    | _, _ => .next s

/-! ## Read-out (R83, R85, R109) -/

/-- What stops a read-out element loop. -/
inductive Halt where
  | go
  | hearth      -- a scale could not be read (R382)
  | basin       -- another Basin word could not be read or merged (R123)
  deriving DecidableEq, Repr

/-- A reduction record after one more element (R85, R86); the flag is a saturation. -/
def recordStep (r : Reduce) (b : List Byte) (x : Acc) : List Byte × Bool :=
  match r with
  | .none => (b, false)
  | .sum =>
    let z := accAdd .e96 (decodeE96 (leAt b 0 12)) x
    (natLe 12 (encodeE96 z.1) ++ [0, 0, 0, 0], z.2)
  | .sumsq =>
    let y := eMul x x
    let z := accAdd .e96 (decodeE96 (leAt b 0 12)) y.1
    (natLe 12 (encodeE96 z.1) ++ [0, 0, 0, 0], y.2 || z.2)
  | .welford =>
    let w : Welford := ⟨leAt b 0 4, decodeE96 (leAt b 4 12), decodeE96 (leAt b 16 12)⟩
    let z := w.step x
    (natLe 4 z.1.n ++ natLe 12 (encodeE96 z.1.mean) ++ natLe 12 (encodeE96 z.1.m2) ++ [0, 0, 0, 0], z.2)

/-- The update of the record that element (m, n) belongs to. -/
def updateRecord (p slot : Nat) (r : ReadDesc) (m n : Nat) (x : Acc) (s : State) : State × Halt :=
  if r.reduce = .none then (s, .go)
  else
    let a := basinAddr s p (r.statBase + (if r.axisCol then n else m) * r.reduce.size)
    if readBad false s a r.reduce.size then (memUncorr false (some p) s, .basin)
    else
      let z := recordStep r.reduce (readMem false s a r.reduce.size) x
      let w := writeMem false (modSlot slot (fun y => { y with sat := y.sat || z.2 }) s) a z.1
      if w.2 then (memUncorr false (some p) w.1, .basin) else (w.1, .go)

/-- The epilogue function on an output code (R109): none where a table bank could not be read. -/
def epiElem (s : State) (binds : List (Nat × Nat)) (fn : Nat) (out : Fmt) (v : Nat) : Option Nat :=
  if fn = 0xFF then some v
  else match SimpleFn.ofCode fn with
    | some x => some (simpleElem x out.par out.par ⟨out, v⟩ ⟨out, v⟩ ⟨out, v⟩)
    | none => (tableFor s binds fn).map fun t => tableElem t ⟨out, v⟩ out.par

/-- Elements written by a Flue half (FL_HALF_ELEMS). -/
def countHalf (h n : Nat) (s : State) : State := { s with fl := { s.fl with halfElems := tblAdd s.fl.halfElems h n } }

/-- Where a read-out goes and through which epilogue; `cols` is the slot's column count. -/
structure ReadCtx where
  f : Nat
  id : Nat
  slot : Nat
  r : ReadDesc
  epi : Nat
  quad : Bool
  cols : Nat
  binds : List (Nat × Nat)
  deriving DecidableEq, Repr

/-- One element read out: `v` is the entry's (or the combined) content (R83, R109, R85). -/
def readElem (c : ReadCtx) (m n : Nat) (v : Acc) (s : State) : State × Halt :=
  let p := furPlot s c.f
  let r := c.r
  let out := fmtOr r.outFmt
  let sa := basinAddr s p (r.scaleBase + 2 * n)
  let fz := (fmtOr r.fuseFmt).size
  let fa := basinAddr s p (r.fuseBase + m * r.fuseStride + n * fz)
  if r.scaleEn && readBad false s sa 2 then (memUncorr false (some p) s, .hearth)
  else if r.fuseOp ≠ 0 ∧ readBad false s fa fz then (memUncorr false (some p) s, .basin)
  else
    let scale := if r.scaleEn then leNat (readMem false s sa 2) else 0x4008
    let op : FuseOp := if r.fuseOp = 1 then .add else if r.fuseOp = 2 then .mul else .none
    let fused := if r.fuseOp = 0 then 0 else leNat (readMem false s fa fz)
    let e := readoutElem out.par v.src (lDecode parL16 scale) op (fmtOr r.fuseFmt).par
      (lDecode (fmtOr r.fuseFmt).par fused)
    let s1 := modSlot c.slot (fun y => { y with sat := y.sat || e.2 }) s
    let half := epiHalf s c.quad c.slot c.cols (n % c.cols)
    let q := epiElem s1 c.binds c.epi out e.1
    let s2 := if q.isNone then flagHw c.f c.id (tableUncorr p half s1)
      else if c.epi = 0xFF then s1 else countHalf half 1 s1
    let code := q.getD out.par.nan
    let w := writeMem false s2 (basinAddr s p (r.outBase + m * r.outStride + n * out.size)) (natLe out.size code)
    if w.2 then (memUncorr false (some p) w.1, .basin)
    else updateRecord p c.slot r m n (El.acc ⟨out, code⟩) w.1

/-- Elements of one row, until something stops it. -/
def readCols (c : ReadCtx) (m : Nat) (get : State → Nat → State × Acc) : List Nat → State → State × Halt
  | [], s => (s, .go)
  | n :: t, s =>
    let g := get s n
    let r := readElem c m n g.2 g.1
    if r.2 = .go then readCols c m get t r.1 else r

/-- The entry of a GEMM's own slot for output (m, n), counted as read out (R383). -/
def gemmEntry (f id slot : Nat) (q : Geo) (m : Nat) (s : State) (n : Nat) : State × Acc :=
  let i := (m % q.rows) * q.cols + n % q.cols
  let x := getSlot s slot
  let s1 := { s with ap := { s.ap with readout := tblAdd s.ap.readout (entryQuarter s.he.modeCur slot x i) 1 } }
  (if x.bad.contains i then flagHw f id (entryUncorr slot i (furPlot s f) s1) else s1, entryAcc x i)

/-- One slot row is read out whole (R60, R83). -/
def readRow (f : Nat) (o : Op) (a : AwaitRow) (s : State) : State :=
  let g := gemmDesc o.bytes
  let q := geoOf o.quad g
  let c : ReadCtx := { f := f, id := o.id, slot := g.slot, r := g.out, epi := g.epiFn
                       quad := o.quad, cols := q.cols, binds := o.binds }
  let fr := takeFree s
  let s0 := modFbs (slotFbs s g.slot) (fun x => { x with waitCycles := x.waitCycles + Config.pauseCycles fr.1 }) fr.2
  let r := readCols c a.m (gemmEntry f o.id g.slot q a.m) (tileCols q g a.t) s0
  match r.2 with
  | .hearth => stopHearth f o r.1
  | .basin => endOp f o.id rHwError r.1
  | .go =>
    modOp f o.id (fun x =>
      { x with prog := { x.prog with await := x.prog.await.drop 1 }
               phase := if x.prog.await.length ≤ 1 ∧ passCount q ≤ x.prog.pass then .ended else x.phase }) r.1

/-- SLOT_ROW_READOUT (R83): the oldest row that awaits read-out in domain `d`. -/
def execSlotRowReadout (d : Nat) (s : State) : Res :=
  match runningOp s d with
  | some (f, o) =>
    (match o.prog.await with
     | a :: _ => .next (if o.phase = .running ∧ o.opcode = 0x08 then readRow f o a s else s)
     | [] => .next s)
  | none => .next s

end Sys2Proof.Machine
end

