-- ==== Sys2Proof/Machine/Context.lean ====
section
/-!
DEFINITION. Context commands, the engine-mode change, and the sequence in which CH1 makes it
(08_headgate_and_stokers R184, R185, R187, R191; 03_hearth R56, R57). Command MODE_CHANGE; what the writes of
HG_CTX_CMD and HE_MODE_CTL do.
-/
namespace Sys2Proof.Machine

/-! ## Context commands (R184, R185) -/

/-- An operation is running or preempted on slot `n`. -/
def slotBusy (s : State) (n : Nat) : Bool :=
  s.hg.furrows.any fun kv => kv.2.queue.any fun o => o.started && o.slot? == some n

/-- SAVE of a slot: nothing for one that is not leased, or on which an operation is running or preempted (R184). -/
def ctxSaves (s : State) (n : Nat) : Bool := (getSlot s n).lease.isSome && !slotBusy s n

/-- A context command acts, its slot's domain awake. -/
def ctxAct (op n : Nat) (s : State) : State :=
  if op = 1 then
    (if ctxSaves s n then saveRecord n (eccEntries n (furPlot s ((getSlot s n).lease.getD 0)) s) else s)
  else if op = 2 then (serveRecord n none s).1
  else s

/-- HG_CTX_CMD with OP `op` on slot `n`. One that finds the slot's domain asleep wakes it and shows BUSY until it acts;
a command written meanwhile is ignored (R192). -/
def ctxCommand (op n : Nat) (s : State) : State :=
  if s.hg.ctxPend.isSome then s
  else if op = 3 then dropRecord n s
  else if (op = 1 ∧ ctxSaves s n) ∨ (op = 2 ∧ s.hg.ctxValid.getLsbD n) then
    (if awake s (hearthNeeds s n) then ctxAct op n s
     else ignite (hearthNeeds s n) { s with hg := { s.hg with ctxPend := some (op, n) } })
  else s

/-- A context command that waited for its slot's domain. -/
def settleCtx (s : State) : State :=
  match s.hg.ctxPend with
  | some (op, n) =>
    if awake s (hearthNeeds s n) then ctxAct op n { s with hg := { s.hg with ctxPend := none } } else s
  | none => s

/-! ## Engine mode (R56, R57) -/

/-- A write of HE_MODE_CTL.MODE. A refused request for the whole engine leaves 1 stored. -/
def writeMode (v : Bool) (s : State) : State :=
  let refused := !v && !wholeOk s
  let m := v || refused
  { s with he := { s.he with mode := m, refused := s.he.refused || refused, pending := m != s.he.modeCur } }

/-- All four Stokers are idle. -/
def stokersIdle (s : State) : Bool := [0, 1, 2, 3].all fun q => !(getFb s q).busy

/-- HEARTH_IDLE (R187): no started Hearth operation remains and all Stokers are idle. -/
def hearthIdle (s : State) : Bool :=
  stokersIdle s && s.hg.furrows.all fun kv => kv.2.queue.all fun o => !(o.started && o.slot?.isSome)

/-- The mode written takes effect: every slot is zeroed as a whole slot, leases stand, valid records now hold
what the slots have lost. A request for the whole engine that was granted takes effect even where a Firebox has left
service since (log 103). -/
def changeMode (s : State) : State :=
  let m := s.he.mode
  let s1 := { s with he := { s.he with modeCur := m, pending := false }
                     hg := { s.hg with ctxLost := s.hg.ctxValid } }
  let s2 := (List.range 16).foldl (fun t n => modSlot n (zeroSlot m) t) s1
  settleCommit ((List.range 5).foldl (fun t d => modDom d (fun x => { x with holder := none, incoming := none }) t) s2)

/-! ## CH1's sequence (Table 8-3, R191) -/

/-- The domains of every Firebox. -/
def allFbNeeds : List Nat := [dFront, dBasin, dFb 0, dFb 1, dFb 2, dFb 3]

/-- Steps 5 and 6: every saved slot is restored and dispatch resumes. -/
def endSequence (s : State) : State :=
  let s1 := (bitList s.hg.ctxValid.toNat 16).foldl (fun t n => ctxAct 2 n t) s
  { s1 with hg := { s1.hg with hearthHold := false }, ch := { s1.ch with modeSeq := none } }

/-- Steps 3 and 4: every leased slot whose record is not valid is saved, and MODE is written; a request that R57 refuses
ends the sequence. -/
def saveAndWrite (m : Bool) (s : State) : State :=
  let s1 := ((List.range 16).filter fun n => !s.hg.ctxValid.getLsbD n).foldl (fun t n => ctxAct 1 n t) s
  let s2 := writeMode m s1
  if s2.he.mode = m then s2 else endSequence s2

/-- CH1 goes on with Table 8-3 as far as it can: it waits for HEARTH_IDLE, for the Fireboxes to be awake, and for the
change to take effect. -/
def continueMode (s : State) : State :=
  match s.ch.modeSeq with
  | none => s
  | some m =>
    if compRuns s 1 = false ∨ s.he.pending ∨ hearthIdle s = false then s
    else if awake s allFbNeeds = false then ignite allFbNeeds s
    else if s.he.modeCur = m then endSequence s
    else saveAndWrite m s

/-- Step 1: CH1 is asked for an engine mode. One that is in force, or that it is bringing about, asks for nothing. -/
def askMode (m : Bool) (s : State) : State :=
  if s.ch.modeSeq = some m ∨ (s.ch.modeSeq = none ∧ s.he.mode = m) then s
  else continueMode { s with hg := { s.hg with hearthHold := true }, ch := { s.ch with modeSeq := some m } }

/-- MODE_CHANGE (R56). -/
def execModeChange (s : State) : Res := .next (if s.he.pending && stokersIdle s then continueMode (changeMode s) else s)

end Sys2Proof.Machine
end

