-- ==== Sys2Proof/Machine/Slots.lean ====
section
/-!
DEFINITION. Leases and slot transfers (04_ashpan R76, R79 to R92). Commands LEASE, RELEASE, SLOT_READ,
SLOT_WRITE, SLOT_SAVE, SLOT_RESTORE.
-/
namespace Sys2Proof.Machine

/-! ## Opcodes that act in ring order -/

/-- The first operation of a furrow with an opcode that was dispatched and waits. -/
def waitingOp (s : State) (f c : Nat) : Option Op :=
  (getFur s f).queue.find? fun o => o.phase == .waiting && o.opcode == c

/-- An opcode that occupies no domain: the first waiting one that is ready acts; where none is, the one whose turn it is
is checked, and acts or waits (R154, R175). -/
def ordered (f c : Nat) (needs : List Nat) (check : State → Op → Nat) (ready : State → Op → Bool)
    (act : Op → State → State) (s : State) : State :=
  match (getFur s f).queue.find? fun o => o.phase == .waiting && o.opcode == c && ready s o with
  | some o => if (getPlot s (furPlot s f)).state = .live ∧ awake s [dFront] then act o s else s
  | none =>
    match beginDispatch f (fun o => o.opcode == c) needs s with
    | .error s1 => s1
    | .ok (o, s1) =>
      let code := windowStep s1 f o (check s1 o)
      if code ≠ 0 then rejectCode f o code s1
      else
        let s2 := modOp f o.id (fun o => { o with phase := .waiting }) s1
        if ready s2 o then act o s2 else s2

/-! ## Leases (Table 4-5) -/

/-- The end of a lease: the slot is free and its record invalid (R184). -/
def endLease (n : Nat) (s : State) : State := dropRecord n (modSlot n (fun x => { x with lease := none }) s)

def leaseCheck (f : Nat) (s : State) (o : Op) : Nat :=
  let n := leaseSlot o.bytes
  firstCode [((getPlot s (furPlot s f)).slotMask.getLsbD n
    && (match (getSlot s n).lease with | some g => g == f | none => true), rSlotLease)]

/-- LEASE acts (Table 4-5). -/
def leaseAct (f : Nat) (o : Op) (s : State) : State :=
  let n := leaseSlot o.bytes
  let s1 := if (getSlot s n).lease = some f then s
    else modSlot n (fun x => { zeroSlot s.he.modeCur x with lease := some f }) s
  completeOp f o.id 0 false s1

/-- LEASE (R80). -/
def execLease (f : Nat) (s : State) : Res :=
  .next (ordered f 0x04 (hearthNeeds s (match turnOp s f with | some o => leaseSlot o.bytes | none => 0))
    (leaseCheck f) (fun _ _ => true) (leaseAct f) s)

def releaseCheck (f : Nat) (s : State) (o : Op) : Nat :=
  firstCode [((getSlot s (leaseSlot o.bytes)).lease == some f, rSlotLease)]

/-- Every earlier operation of the furrow on the slot has completed (R80). -/
def releaseReady (f : Nat) (s : State) (o : Op) : Bool :=
  ((getFur s f).queue.takeWhile (·.id != o.id)).all fun e =>
    e.phase == .done || !(e.slots.contains (leaseSlot o.bytes) || e.opcode == 0x0B)

/-- RELEASE acts. -/
def releaseAct (f : Nat) (o : Op) (s : State) : State :=
  completeOp f o.id 0 false (endLease (leaseSlot o.bytes) s)

/-- RELEASE (R80). -/
def execRelease (f : Nat) (s : State) : Res :=
  .next (ordered f 0x05 [] (releaseCheck f) (releaseReady f) (releaseAct f) s)

/-! ## Slot read (R82, R83, R76) -/

/-- The slots of a PARTNERS mask, by Firebox. -/
def partnerSlots (d : SlotDesc) : List Nat := (bitList d.partners 4).map fun q => 4 * q + d.slot % 4

/-- Every Ashpan quarter a slot lies in is in service. -/
def quarterOk (s : State) (n : Nat) : Bool :=
  if s.he.modeCur then apIn s (n / 4) else apIn s 0 && apIn s 1 && apIn s 2 && apIn s 3

def sameShape (x y : Slot) : Bool := x.word == y.word && x.lanes == y.lanes && x.quad == y.quad

/-- The code with which a slot read is rejected. -/
def slotReadCheck (s : State) (f : Nat) (o : Op) : Nat :=
  let d := slotDesc o.bytes
  let r := d.out
  let p := furPlot s f
  let win := basinWin s p
  let x := slotView s d.slot
  let ps := partnerSlots d
  firstCode [
    (readFmtOk r, rFormat),
    (readFieldOk r, rFieldRange),
    ((readOutRange r).within win && (readFuseRange r).within win && (readScaleRange r).within win
      && (readStatRange r).within win, rWindow),
    (quarterOk s d.slot && (d.partners == 0 || s.he.modeCur) && ps.all (quarterOk s), rSlotMode),
    (x.lease == some f && ps.all (fun n => (getSlot s n).lease == some f), rSlotLease),
    (decide (r.rows ≤ x.rows) && decide (r.cols ≤ x.cols)
      && ps.all (fun n => sameShape x (slotView s n))
      && (d.partners == 0 || bitAt d.partners (d.slot / 4)), rSlotShape),
    (statsOk s r, rStatsOff),
    (readApart r [readScaleRange r], rOverlap),
    (!meetsRes s p (readOutRange r) && !meetsRes s p (readStatRange r), rOwner)]

/-- One node of the combination tree (R76): the flag is a clamp. -/
def combineNode (k : WordKind) (x y : Option (Acc × Bool)) : Option (Acc × Bool) :=
  match x, y with
  | none, y => y
  | x, none => x
  | some a, some b => let z := accAdd k a.1 b.1; some (z.1, a.2 || b.2 || z.2)

/-- The tree over four operands, by index (R76). -/
def combine4 (k : WordKind) (a b c d : Option (Acc × Bool)) : Option (Acc × Bool) :=
  combineNode k (combineNode k a b) (combineNode k c d)

/-- Entry `i` of slot `n` read out: counted for its quarter, an uncorrectable one as NaN. -/
def takeEntry (f id n i : Nat) (s : State) : State × Acc :=
  let x := getSlot s n
  let s1 := { s with ap := { s.ap with readout := tblAdd s.ap.readout (entryQuarter s.he.modeCur n x i) 1 } }
  (if x.bad.contains i then flagHw f id (entryUncorr n i (furPlot s f) s1) else s1, entryAcc x i)

/-- The partial of Firebox `q` at entry `i`, where the mask has it. -/
def takePartner (f id : Nat) (d : SlotDesc) (i : Nat) (s : State) (q : Nat) : State × Option (Acc × Bool) :=
  if bitAt d.partners q then
    let r := takeEntry f id (4 * q + d.slot % 4) i s
    (r.1, some (r.2, false))
  else (s, none)

/-- The content that a slot read converts at (m, n): the named slot alone, or the combination. -/
def slotContent (f id : Nat) (d : SlotDesc) (m : Nat) (s : State) (n : Nat) : State × Acc :=
  let x := getSlot s d.slot
  let i := m * x.cols + n
  if d.partners = 0 then takeEntry f id d.slot i s
  else
    let a := takePartner f id d i s 0
    let b := takePartner f id d i a.1 1
    let c := takePartner f id d i b.1 2
    let e := takePartner f id d i c.1 3
    let r := (combine4 x.word a.2 b.2 c.2 e.2).getD (.empty, false)
    (modSlot d.slot (fun y => { y with sat := y.sat || r.2 }) e.1, r.1)

/-- Rows of a slot read, until something stops it. -/
def readRows (c : ReadCtx) (get : Nat → State → Nat → State × Acc) (cols : List Nat) : List Nat → State → State × Halt
  | [], s => (s, .go)
  | m :: t, s =>
    let r := readCols c m (get m) cols s
    if r.2 = .go then readRows c get cols t r.1 else r

/-- First accesses to several slots (R185); false where one could not be restored. -/
def serveRecords (p : Nat) : List Nat → State → State × Bool
  | [], s => (s, true)
  | n :: t, s =>
    let r := serveRecord n (some p) s
    let q := serveRecords p t r.1
    (q.1, r.2 && q.2)

/-- A slot-form operation that passed its checks takes the engine. -/
def slotBegin (f : Nat) (o : Op) (ns : List Nat) (s : State) : State × Bool :=
  let r := serveRecords (furPlot s f) ns s
  (modOp f o.id (fun o => { o with phase := .running, quad := s.he.modeCur }) r.1, r.2)

/-- A slot-form operation is over: what it met decides its reason, unless an entry error already does. -/
def slotEnd (f id : Nat) (h : Halt) (s : State) : State :=
  if h = .go then modOp f id (fun o => { o with phase := .ended }) s else endOp f id rHwError s

/-- A slot read runs whole (R83, R85). -/
def slotReadRun (f : Nat) (o : Op) (s : State) : State :=
  let d := slotDesc o.bytes
  let b := slotBegin f o (d.slot :: partnerSlots d).eraseDups s
  if b.2 = false then endOp f o.id rHwError b.1
  else
    let c : ReadCtx := { f := f, id := o.id, slot := d.slot, r := d.out, epi := 0xFF, quad := s.he.modeCur, cols := (getSlot b.1 d.slot).cols, binds := [] }
    let r := readRows c (slotContent f o.id d) (List.range d.out.cols) (List.range d.out.rows)
      (initStats (furPlot s f) d.out b.1)
    slotEnd f o.id r.2 r.1

/-! ## Slot write, save, restore (Table 4-8) -/

def slotWriteRange (d : SlotDesc) : Range :=
  rowRange d.base d.out.rows (d.out.cols * (fmtOr d.fmt).size) d.stride

/-- The checks of a slot write (R88, R380). One of E96 words with LANES above 1 is taken, though Table 4-4 gives float mode
one lane: the model's choice (log 113). -/
def slotWriteCheck (s : State) (f : Nat) (o : Op) : Nat :=
  let d := slotDesc o.bytes
  let shape : Slot := { lanes := bv 2 d.lanes, quad := s.he.modeCur }
  firstCode [
    (outFmtOk d.fmt, rFormat),
    (al64 d.base && al64 d.stride && decide (d.out.rows ≤ shape.rows) && decide (d.out.cols ≤ shape.cols), rFieldRange),
    ((slotWriteRange d).within (basinWin s (furPlot s f)), rWindow),
    (slotModeOk s d.slot, rSlotMode),
    ((getSlot s d.slot).lease == some f, rSlotLease)]

/-- Elements of one row stored in a slot, until a Basin word cannot be read (R88, R123). -/
def writeCols (d : SlotDesc) (p m : Nat) : List Nat → State → State × Halt
  | [], s => (s, .go)
  | n :: t, s =>
    let f := fmtOr d.fmt
    let a := basinAddr s p (d.base + m * d.stride + n * f.size)
    if readBad false s a f.size then (memUncorr false (some p) s, .basin)
    else
      let e := storeElem d.word (El.lin ⟨f, leNat (readMem false s a f.size)⟩)
      writeCols d p m t (putEntry d.slot (m * (getSlot s d.slot).cols + n) e.1 e.2 s)

def writeRows (d : SlotDesc) (p : Nat) : List Nat → State → State × Halt
  | [], s => (s, .go)
  | m :: t, s =>
    let r := writeCols d p m (List.range d.out.cols) s
    if r.2 = .go then writeRows d p t r.1 else r

/-- A slot write runs whole: it acts as a START for the word kind and shape (R88). -/
def slotWriteRun (f : Nat) (o : Op) (s : State) : State :=
  let d := slotDesc o.bytes
  let b := slotBegin f o [d.slot] s
  if b.2 = false then endOp f o.id rHwError b.1
  else
    let s1 := modSlot d.slot (fun x => { x with word := d.word, lanes := bv 2 d.lanes, quad := s.he.modeCur
                                                sat := false, entries := [], bad := [] }) b.1
    let r := writeRows d (furPlot s f) (List.range d.out.rows) s1
    slotEnd f o.id r.2 r.1

def saveCheck (s : State) (f : Nat) (o : Op) : Nat :=
  let d := slotDesc o.bytes
  let r : Range := ⟨d.base, imageSize⟩
  firstCode [
    (al64 d.base, rFieldRange),
    (r.within (basinWin s (furPlot s f)), rWindow),
    ((getSlot s d.slot).lease == some f, rSlotLease),
    (!meetsRes s (furPlot s f) r, rOwner)]

/-- A save writes the full-width image (R89). -/
def saveRun (f : Nat) (o : Op) (s : State) : State :=
  let d := slotDesc o.bytes
  let p := furPlot s f
  let b := slotBegin f o [d.slot] s
  if b.2 = false then endOp f o.id rHwError b.1
  else
    let x := getSlot b.1 d.slot
    let s1 := eccEntries d.slot p b.1
    let s2 := putMem false s1 (basinAddr s p d.base) (slotImage x)
    if x.bad.isEmpty then slotEnd f o.id .go s2 else endOp f o.id rHwError s2

def restoreCheck (s : State) (f : Nat) (o : Op) : Nat :=
  let d := slotDesc o.bytes
  let p := furPlot s f
  let a := basinAddr s p d.base
  firstCode [
    (al64 d.base, rFieldRange),
    ((⟨d.base, imageSize⟩ : Range).within (basinWin s p), rWindow),
    (quarterOk s d.slot, rSlotMode),
    ((getSlot s d.slot).lease == some f, rSlotLease),
    (!readBad false s a 64, rHwError),
    ((imageShape (readMem false s a 64)).isSome, rSlotShape)]

/-- A restore takes entries, kind, shape and flag from an image (R88 to R90). -/
def restoreRun (f : Nat) (o : Op) (s : State) : State :=
  let d := slotDesc o.bytes
  let p := furPlot s f
  let a := basinAddr s p d.base
  match imageShape (readMem false s a 64) with
  | none => s
  | some shape =>
    let b := slotBegin f o [d.slot] s
    if b.2 = false then endOp f o.id rHwError b.1
    else
      let r := restoreImage d.slot a shape (some p) b.1
      if r.2 then slotEnd f o.id .go r.1 else endOp f o.id rHwError r.1

/-- A restore whose header holds an uncorrectable word stops there: the slot is zeroed whole, its lease stands, and the
operation completes with HW_ERROR (R90). -/
def headerUncorr (f : Nat) (o : Op) (s : State) : State :=
  let n := (slotDesc o.bytes).slot
  reject f o rHwError (memUncorr false (some (furPlot s f)) (dropRecord n (modSlot n (zeroSlot s.he.modeCur) s)))

/-- The domains that a slot-form MOVE needs: those of its slot and of its partners (R76, R223). -/
def slotNeeds (s : State) (o : Op) : List Nat := (o.slots.flatMap (hearthNeeds s)).eraseDups

/-- What the slot-form MOVE whose turn it is needs. -/
def slotNeedsNext (s : State) (f : Nat) : List Nat :=
  match turnOp s f with
  | some o => slotNeeds s o
  | none => []

/-- A slot-form MOVE with form code `form`. -/
def slotMove (f form : Nat) (check : State → Nat → Op → Nat) (run : Nat → Op → State → State) (s : State) : State :=
  match beginEngine (nextDomain s f) f (fun o => o.opcode == 0x0A && moveForm o.bytes == form) (slotNeedsNext s f) s with
  | .error s1 => s1
  | .ok (o, s1) =>
    let code := windowStep s1 f o (check s1 f o)
    if code = 0 then run f o s1
    else if code = rHwError then headerUncorr f o s1
    else rejectCode f o code s1

/-- SLOT_WRITE (R88). -/
def execSlotWrite (f : Nat) (s : State) : Res := .next (slotMove f 2 slotWriteCheck slotWriteRun s)

/-- SLOT_SAVE (R88, R89). -/
def execSlotSave (f : Nat) (s : State) : Res := .next (slotMove f 3 saveCheck saveRun s)

/-- SLOT_RESTORE (R88 to R90). -/
def execSlotRestore (f : Nat) (s : State) : Res := .next (slotMove f 4 restoreCheck restoreRun s)

end Sys2Proof.Machine
end

