-- ==== Sys2Proof/Machine/Furrows.lean ====
section
/-!
DEFINITION. Furrows, rings, tickets, events, SPAWN and PARK (07_furrows_and_descriptors), the Scuttle's
lines (06 R140 to R144), the stall gauge (08 R189, R190). Commands DOORBELL, DESCRIPTOR_FETCH, NOP,
FENCE, RECORD, WAIT, SPAWN, PARK, SNAPSHOT_TAKEN, OPERATION_COMPLETE, FAIL_CLEAR, GAUGE_SPAN.
-/
namespace Sys2Proof.Machine

/-! ## The Scuttle -/

/-- Whether a plot's fetches go through the Scuttle (R143, R144, R312). -/
def scuttleUsed (s : State) (p : Nat) : Bool :=
  scuttleIn s && s.hp.cxl && (getPlot s p).quota != 0

/-- The lines one plot holds. -/
def plotLines (s : State) (p : Nat) : Nat := s.sc.lines.countP (·.plot == p)

/-- The cap in force (values above 65,536 act as 65,536). -/
def quotaOf (s : State) (p : Nat) : Nat := min (getPlot s p).quota.toNat 65536

/-- The last element of a list that satisfies `q` removed. -/
def dropLast1 (q : Line → Bool) (xs : List Line) : List Line := (xs.reverse.eraseP q).reverse

/-- The set of a line: 65,536 lines in 16 ways make 4096 sets, by the low bits of the line's number (R140, log 35). -/
def setOf (a : Nat) : Nat := a / 64 % 4096

/-- A line of plot `p` is fetched: a plot at its cap replaces its own least recently used lines (log 35 says how many), and
a full set its least recently used. -/
def fillLine (p a : Nat) (bytes : List Byte) (s : State) : State :=
  let own := plotLines s p
  let r1 := (List.range (own + 1 - quotaOf s p)).foldl (fun xs _ => dropLast1 (·.plot == p) xs) s.sc.lines
  let r2 := if 16 ≤ r1.countP (fun l => setOf l.addr == setOf a) then dropLast1 (fun l => setOf l.addr == setOf a) r1 else r1
  { s with sc := { s.sc with flushed := false, lines := ⟨p, a, padTo 64 bytes⟩ :: r2 } }

/-- What a fetch has come to: the bytes read, the answers to translation requests that are left, the state. -/
structure Fetched where
  bytes : List Byte
  pages : List Nat
  state : State
  deriving DecidableEq, Repr

/-- The host physical address of an I/O virtual address of plot `p`, through the translation cache (R141). -/
def translate (p a : Nat) (pages : List Nat) (s : State) : Nat × List Nat × State :=
  let page := a / 4096 * 4096
  match s.sc.trans.find? fun t => t.plot == p && t.page == page with
  | some t => (t.host + a % 4096, pages, s)
  | none =>
    let h := pages.headD 0 / 4096 * 4096
    let s1 := emit (.atsRequest p (pasidOf s p) page) s
    (h + a % 4096, pages.drop 1, { s1 with sc := { s1.sc with flushed := false, trans := ⟨p, page, h⟩ :: s1.sc.trans } })

/-- One 64-byte line through the Scuttle: held, or fetched whole from the host, which answers `fresh` (R140 to R142). -/
def fetchLine (p a : Nat) (fresh : List Byte) (pages : List Nat) (s : State) : Fetched :=
  let r := translate p a pages s
  match r.2.2.sc.lines.find? (·.addr == r.1) with
  | some l => ⟨l.bytes, r.2.1, { r.2.2 with sc := { r.2.2.sc with lines := l :: r.2.2.sc.lines.filter (·.addr != r.1) } }⟩
  | none => ⟨padTo 64 fresh, r.2.1, fillLine p r.1 fresh (emit (.cacheRead r.1) r.2.2)⟩

/-- Consecutive lines from line address `a` on. -/
def fetchLines (p : Nat) : Nat → Nat → List Byte → List Nat → State → Fetched
  | 0, _, _, pages, s => ⟨[], pages, s⟩
  | n + 1, a, fresh, pages, s =>
    let x := fetchLine p a fresh pages s
    let y := fetchLines p n (a + 64) (fresh.drop 64) x.pages x.state
    ⟨x.bytes ++ y.bytes, y.pages, y.state⟩

/-- `n` bytes at a host address fetched for a plot, the host answering `fresh`: through the Scuttle, or by an uncached read
(R141 to R144). -/
def fetchHost (p a n : Nat) (fresh : List Byte) (pages : List Nat) (s : State) : Fetched :=
  if n = 0 then ⟨[], pages, s⟩
  else if scuttleUsed s p then
    let r := fetchLines p ((a + n - 1) / 64 - a / 64 + 1) (a / 64 * 64) fresh pages s
    ⟨(r.bytes.drop (a % 64)).take n, r.pages, r.state⟩
  else ⟨padTo n fresh, pages, emit (.hostRead p (pasidOf s p) a n) s⟩

/-- What a request of plot `p` to host memory brings: a function without Bus Master Enable gets a host
fault (R325), and so does a request that no link carries. -/
def hostAnswer (s : State) (p : Nat) (r : HostResp) : HostResp := if hostOpen s p then r else .error

/-! ## Arming (R149) -/

/-- Whether arming is refused. -/
def armRefused (s : State) (f : Nat) : Bool :=
  let x := getFur s f
  let n := x.sizeLog2.toNat
  !x.alloc || n < 4 || 16 < n || 2 ^ n ≤ x.head.toNat || x.kind == 3
    || (x.kind == 1 && x.plot != 0)
    || (x.kind == 2 && decide (basinWin s x.plot.toNat < x.base.toNat * 4096 + 128 * 2 ^ n))

/-- A furrow as arming leaves it: of the completion entry FAIL, SAT and HALT_REASON are cleared and the two tickets take
LAST; FAIL_TICKET, FAIL_REASON and SAT_TICKET stand (R149). -/
def armedFurrow (x : Furrow) : Furrow :=
  { x with arm := true, tail := x.head, fail := false, sat := false
           haltReason := 0, doneTicket := x.last, launchTicket := x.last, state := .active, draining := false
           queue := [], parkedOn := none }

/-- A write of 1 to ARM of an unarmed furrow. A furrow that still drains takes no new arming. -/
def armFur (f : Nat) (s : State) : State :=
  if armRefused s f ∨ (getFur s f).draining then modFur f (fun x => { x with armRefused := true }) s
  else modFur f armedFurrow s

/-- The state of a furrow whose PARK ends: ACTIVE (R165); HALTED again where it parked after it had accepted the
last ticket of all, since it fetches no further (R161). -/
def Furrow.unparked (x : Furrow) : FurState :=
  if x.state = .parked then (if x.haltReason = bv 8 hTicketExhausted then .halted else .active) else x.state

/-- The PARK that a furrow waits in ends without completion (07 corners). -/
def endPark (x : Furrow) : Furrow :=
  { x with state := x.unparked, parkedOn := none
           queue := x.queue.filter fun o => !(o.opcode == 0x0D && o.phase == .waiting) }

/-- A write of 0 to ARM: fetching stops at once, what was not dispatched never is (R149). -/
def disarmFur (f : Nat) (s : State) : State :=
  let s1 := modFur f (fun x =>
    let y := endPark x
    { y with arm := false, draining := true
             queue := y.queue.filter fun o => o.phase != .accepted && o.phase != .snapshot }) s
  (List.range 7).foldl (fun t d => yieldSlice d f t) (drainCheck f s1)

/-! ## Doorbells (R151) -/

/-- Whether the host can write the page of plot `p`: its function exists and the tile takes work. -/
def pageOpen (s : State) (p : Nat) : Bool :=
  (p == 0 || p ≤ s.hp.numVfs) && (getPlot s p).state == .live && s.pi.phase == .ready
    && !s.pi.warmDue && decide (levelOf s < 3)

/-- A tail write as the Headgate takes it; R151 makes no exception for an INNER furrow. -/
def storeTail (f : Nat) (tail : BitVec 16) (s : State) : State :=
  let x := getFur s f
  if x.arm ∧ 2 ^ x.sizeLog2.toNat ≤ tail.toNat then setFur s f { x with badTail := true }
  else setFur s f { x with tail := tail }

/-- The domains that a doorbell wakes (R223). -/
def doorbellDomains (s : State) (p : Nat) : List Nat :=
  dFront :: dChimney :: bitList (tblGet ignDef s.pi.ign p).toNat 14

/-- Byte address of PP_DOORBELL of local furrow `i` in the page of plot `p`, as a latched write holds it. -/
def doorbellAddr (p i : Nat) : Nat := 0x5000_0000 + 0x10000 * p + 8 * i

/-- A doorbell of local furrow `i` arrives at the page of plot `p`: while FRONT sleeps, the tail is latched. -/
def ringDoorbell (p i : Nat) (tail : BitVec 16) (s : State) : State :=
  match globalFur s p i with
  | none => s
  | some f =>
    if pageOpen s p = false ∨ s.hp.up = false ∨ s.pi.trip then s
    else
      let x := getFur s f
      let wakes := x.state = .active ∧ x.arm ∧ tail ≠ x.tail ∧ tail.toNat < 2 ^ x.sizeLog2.toNat
      let s1 := if awake s [dFront] then storeTail f tail s
        else { s with pi := { s.pi with latched := s.pi.latched ++
          [{ agent := if p = 0 then .pf else .vf p, addr := doorbellAddr p i, size := 4, v := tail.setWidth 64 }] } }
      if wakes then ignite (doorbellDomains s p) s1 else s1

/-- DOORBELL (R151, R224). -/
def execDoorbell (p i : Nat) (tail : BitVec 16) (s : State) : Res := .next (ringDoorbell p i tail s)

/-! ## Fetch (R152, R160, R161) -/

/-- Whether the Headgate fetches from a furrow now: fetching stops as a warm reset starts (R348). -/
def canFetch (s : State) (f : Nat) : Bool :=
  let x := getFur s f
  canDispatch s f && x.state == .active && !s.pi.warmDue && x.head != x.tail

/-- The entry after `n` more. -/
def Furrow.advance (x : Furrow) (n : Nat) : BitVec 16 := bv 16 ((x.head.toNat + n) % 2 ^ x.sizeLog2.toNat)

/-- What a fetched descriptor comes to. -/
inductive FetchOutcome where
  | wait                 -- the second entry lies at the tail
  | halt (reason : Nat)
  | drop
  | accept
  deriving DecidableEq, Repr

/-- Checks 2 to 7 of Table 7-3 on the bytes at HEAD. -/
def fetchCheck (x : Furrow) (b : List Byte) : FetchOutcome :=
  let c := descOpcode b
  let two := opcodeEntries c = 2 ∧ descExt b = true
  if two ∧ x.advance 1 = x.tail then .wait
  else if descVer b ≠ 1 then .halt hDescVer
  else if !opcodeAssigned c then .halt hBadOpcode
  else if descExt b ≠ (opcodeEntries c == 2) then .halt hExtMismatch
  else if opcodeEntries c = 2 ∧ x.head.toNat + 1 = 2 ^ x.sizeLog2.toNat then .halt hRingWrap
  else if descTicket b ≤ x.last then .drop
  else if opcodeKernelOnly c ∧ x.kind ≠ 1 then .halt hPriv
  else .accept

/-- The descriptor is accepted: HEAD and LAST advance, the operation joins the furrow; the last ticket of
all halts the furrow (R161). -/
def acceptDesc (f : Nat) (b : List Byte) (s : State) : State :=
  let x := getFur s f
  let n := opcodeEntries (descOpcode b)
  let o : Op := { id := s.hg.nextOp, opcode := descOpcode b, ticket := descTicket b, bytes := padTo (128 * n) b }
  let s1 := setFur { s with hg := { s.hg with nextOp := s.hg.nextOp + 1 } } f
    { x with head := x.advance n, last := descTicket b, queue := x.queue ++ [o] }
  let s2 := bumpProgress f s1
  if descTicket b = BitVec.allOnes 48 then haltFurrow f hTicketExhausted s2 else s2

/-- A descriptor whose bytes were read is checked. -/
def checkDesc (f : Nat) (b : List Byte) (s : State) : State :=
  match fetchCheck (getFur s f) b with
  | .wait => s
  | .halt r => haltFurrow f r s
  | .drop => modFur f (fun x => { x with drops := incHold x.drops, head := x.advance (opcodeEntries (descOpcode b)) }) s
  | .accept => acceptDesc f b s

/-- Bytes of the descriptor at HEAD that are fetched, once its first entry is seen: both entries of a two-entry one, but
no entry at the tail (R151) or past the ring's end. -/
def fetchSize (x : Furrow) (first : List Byte) : Nat :=
  if opcodeEntries (descOpcode first) = 2 ∧ descExt first = true ∧ x.advance 1 ≠ x.tail
      ∧ x.head.toNat + 1 < 2 ^ x.sizeLog2.toNat then 256 else 128

/-- The entries of an inner ring at HEAD: Basin bytes of one or two entries. -/
def innerEntry (s : State) (f : Nat) : Nat × Nat :=
  let x := getFur s f
  let a := basinAddr s x.plot.toNat (x.base.toNat * 4096 + 128 * x.head.toNat)
  (a, fetchSize x (readMem false s a 128))

/-- The descriptor at HEAD of a ring in host memory: its first entry, and the second where it has one to fetch. -/
def fetchDesc (x : Furrow) (fresh : List Byte) (pages : List Nat) (s : State) : Fetched :=
  let p := x.plot.toNat
  let a := x.base.toNat * 4096 + 128 * x.head.toNat
  let one := fetchHost p a 128 fresh pages s
  if fetchSize x one.bytes = 128 then one
  else
    let two := fetchHost p (a + 128) 128 (fresh.drop 128) one.pages one.state
    ⟨one.bytes ++ two.bytes, two.pages, two.state⟩

/-- DESCRIPTOR_FETCH (R152). -/
def execDescriptorFetch (f : Nat) (r : HostResp) (s : State) : Res :=
  .next (
    if canFetch s f = false then s
    else
      let x := getFur s f
      let p := x.plot.toNat
      if x.kind = 2 then
        let e := innerEntry s f
        if readBad false s e.1 e.2 then haltFurrow f hFetchFault (memUncorr false (some p) s)
        else checkDesc f (readMem false s e.1 e.2) s
      else match hostAnswer s p r with
        | .data b pages =>
          let d := fetchDesc x b pages s
          checkDesc f d.bytes d.state
        | _ => haltFurrow f hFetchFault s)

/-! ## NOP, FENCE, RECORD, WAIT -/

/-- No earlier operation of the furrow is open. -/
def allEarlierDone (f : Nat) (s : State) (o : Op) : Bool := !earlierOpen (getFur s f).queue o.id

/-- NOP (R154). -/
def execNop (f : Nat) (s : State) : Res :=
  .next (ordered f 0x00 [] (fun _ _ => 0) (fun _ _ => true) (fun o => completeOp f o.id 0 false) s)

/-- FENCE (R154). -/
def execFence (f : Nat) (s : State) : Res :=
  .next (ordered f 0x01 [] (fun _ _ => 0) (allEarlierDone f) (fun o => completeOp f o.id 0 false) s)

/-- An event index below the plot's count (R162). -/
def eventOk (s : State) (f e : Nat) : Bool := decide (e < (getPlot s (furPlot s f)).evtCount.toNat)

/-- Whether an operation waits on event `e` and its value has been reached: WAIT, PARK. -/
def satisfied (s : State) (p e : Nat) (o : Op) : Bool :=
  o.phase == .waiting
    && ((o.opcode == 0x03 && evtOf o.bytes == e) || (o.opcode == 0x0D && parkEvent o.bytes == e))
    && decide (valueOf o.bytes ≤ (getEvent s p e).toNat)

/-- A WAIT or PARK that its event has reached completes; a parked furrow returns to ACTIVE (R162, R165). -/
def finishWait (f : Nat) (o : Op) (s : State) : State :=
  let s1 := if o.opcode = 0x0D then
      modFur f (fun x => { x with state := x.unparked, parkedOn := none }) s
    else s
  completeOp f o.id 0 false s1

/-- Everything of a plot that waits on event `e` and is satisfied goes on. -/
def wakeEvent (p e : Nat) (s : State) : State :=
  (plotFurs s p).foldl (fun t f =>
    match (getFur t f).queue.find? (satisfied t p e) with
    | some o => finishWait f o t
    | none => t) s

/-- RECORD acts: the counter is raised to VALUE (R162). -/
def recordAct (f : Nat) (o : Op) (s : State) : State :=
  let p := furPlot s f
  let e := evtOf o.bytes
  let v := bv 64 (valueOf o.bytes)
  let s1 := if getEvent s p e < v then setEvent s p e v else s
  wakeEvent p e (completeOp f o.id 0 false s1)

/-- RECORD (R162). -/
def execRecord (f : Nat) (s : State) : Res :=
  .next (ordered f 0x02 [] (fun s o => firstCode [(eventOk s f (evtOf o.bytes), rEvent)]) (allEarlierDone f)
    (recordAct f) s)

/-- WAIT (R162). -/
def execWait (f : Nat) (s : State) : Res :=
  .next (ordered f 0x03 [] (fun s o => firstCode [(eventOk s f (evtOf o.bytes), rEvent)])
    (fun s o => satisfied s (furPlot s f) (evtOf o.bytes) { o with phase := .waiting }) (finishWait f) s)

/-! ## Inner furrows -/

/-- The ranges of an inner ring that `n` entries from the tail cover. -/
def ringRanges (x : Furrow) (n : Nat) : List Range :=
  let size := 2 ^ x.sizeLog2.toNat
  let t := x.tail.toNat
  let b := x.base.toNat * 4096
  if t + n ≤ size then [⟨b + 128 * t, 128 * n⟩] else [⟨b + 128 * t, 128 * (size - t)⟩, ⟨b, 128 * (t + n - size)⟩]

/-- Free entries of a ring. -/
def Furrow.room (x : Furrow) : Nat := 2 ^ x.sizeLog2.toNat - 1 - x.outstanding

def spawnCheck (f : Nat) (s : State) (o : Op) : Nat :=
  let b := o.bytes
  let p := furPlot s f
  let n := spawnCount b
  let t := (globalFur s p (targetOf b)).getD 16384
  let x := getFur s t
  firstCode [
    (decide (1 ≤ n) && decide (n ≤ 64) && al64 (spawnBase b), rFieldRange),
    (x.arm && x.state == .active && x.kind == 2 && !x.draining
      && decide (spawnBase b + 128 * n ≤ basinWin s p), rInner),
    (decide (n ≤ x.room), rInnerFull),
    ((ringRanges x n).all fun r => !meetsRes s p r, rOwner)]

/-- Entries written into a ring from its tail on, wrapping. -/
def writeRing (p : Nat) (x : Furrow) (bytes : List Byte) (s : State) : State :=
  match ringRanges x (bytes.length / 128) with
  | [a] => putMem false s (basinAddr s p a.a) bytes
  | a :: b :: _ => putMem false (putMem false s (basinAddr s p a.a) (bytes.take a.n)) (basinAddr s p b.a) (bytes.drop a.n)
  | [] => s

/-- SPAWN acts: COUNT entries are copied and the tail advances, as one step (R163, R164). -/
def spawnAct (f : Nat) (o : Op) (s : State) : State :=
  let b := o.bytes
  let p := furPlot s f
  let n := spawnCount b
  let t := (globalFur s p (targetOf b)).getD 16384
  let x := getFur s t
  let a := basinAddr s p (spawnBase b)
  if readBad false s a (128 * n) then completeOp f o.id rHwError false (memUncorr false (some p) s)
  else
    let s1 := writeRing p x (readMem false s a (128 * n)) s
    let s2 := modFur t (fun x =>
      let y := { x with tail := bv 16 ((x.tail.toNat + n) % 2 ^ x.sizeLog2.toNat) }
      { y with notice := y.notice || decide (y.mark.toNat < y.outstanding) }) s1
    completeOp f o.id 0 false s2

/-- SPAWN (R163). -/
def execSpawn (f : Nat) (s : State) : Res :=
  .next (ordered f 0x0C [dBasin] (spawnCheck f) (fun _ _ => true) (spawnAct f) s)

def parkCheck (f : Nat) (s : State) (o : Op) : Nat :=
  let b := o.bytes
  let t := (globalFur s (furPlot s f) (targetOf b)).getD 16384
  let x := getFur s t
  firstCode [
    (eventOk s f (parkEvent b), rEvent),
    ((getFur s f).kind != 2 && x.arm && x.kind == 2 && (parkerOf s t).isNone, rInner)]

/-- PARK takes effect: the furrow is PARKED on its target, unless its event has come already (R165). -/
def parkAct (f : Nat) (o : Op) (s : State) : State :=
  if satisfied s (furPlot s f) (parkEvent o.bytes) { o with phase := .waiting } then finishWait f o s
  else modFur f (fun x => { x with state := .parked, parkedOn := globalFur s (furPlot s f) (targetOf o.bytes) }) s

/-- PARK (R165). A PARK that is under way ends at its event. -/
def execPark (f : Nat) (s : State) : Res :=
  .next (ordered f 0x0D [] (parkCheck f) (fun _ _ => true) (parkAct f) s)

/-! ## Snapshots, completion -/

/-- SNAPSHOT_TAKEN (R159). -/
def execSnapshotTaken (f : Nat) (r : HostResp) (s : State) : Res :=
  .next (
    match (getFur s f).queue.find? (·.phase == .snapshot) with
    | none => s
    | some o =>
      let p := furPlot s f
      let n := descCbufLen o.bytes
      if (getPlot s p).state ≠ .live then s
      else match hostAnswer s p r with
      | .data b pages =>
        let c := fetchHost p (descCbufAddr o.bytes) n b pages s
        let o1 := { o with phase := .accepted, snapTaken := true, snapshot := c.bytes }
        launched f o1 (modOp f o.id (fun _ => o1) c.state)
      | _ => reject f o rCbufFault s)

/-- OPERATION_COMPLETE (R169): an operation whose work is over completes. -/
def execOperationComplete (f : Nat) (ticket : BitVec 48) (s : State) : Res :=
  .next (
    match (getFur s f).queue.find? fun o => o.phase == .ended && o.ticket == ticket with
    | none => s
    | some o =>
      if awake s [dFront] then continueMode (completeOp f o.id o.reason.toNat (opSat s o || o.sat) s) else s)

/-- The driver of plot `p` writes 1 to FAIL of a completion entry. -/
def failClear (p i : Nat) (s : State) : State :=
  match globalFur s p i with
  | none => s
  | some f =>
    if s.hp.up ∧ (p = 0 ∨ p ≤ s.hp.numVfs) ∧ (getPlot s p).state ≠ .none then
      let s1 := modFur f (fun x => { x with fail := false }) s
      if (getPlot s p).state = .live then retire f s1 else s1
    else s

/-- FAIL_CLEAR (R170). -/
def execFailClear (p i : Nat) (s : State) : Res := .next (failClear p i s)

/-! ## The stall gauge (R189, R190) -/

/-- A furrow is live (R189). One PARKED on a target with no outstanding entries is not (08 corners). -/
def furLive (s : State) (f : Nat) : Bool :=
  let x := getFur s f
  if x.state = .parked then
    (match x.parkedOn with | some t => decide ((getFur s t).outstanding ≠ 0) | none => false)
  else x.tail != x.head || !x.queue.isEmpty

/-- The threshold in force: 0 acts as 1. -/
def stallN (s : State) : Nat := if s.hg.stallN = 0 then 1 else s.hg.stallN.toNat

/-- GAUGE_SPAN (R190): a span of the plot's slice has passed. -/
def execGaugeSpan (f : Nat) (s : State) : Res :=
  .next (
    if s.hg.gaugeEn = false ∨ (getFur s f).alloc = false then s
    else
      let live := furLive s f
      let n := stallN s
      modFur f (fun x =>
        let same := x.gaugeProgress = x.progress
        let idle := if live ∧ same then incHold x.slicesIdle else x.slicesIdle
        { x with slicesIdle := idle, gaugeProgress := x.progress
                 stalled := x.stalled || (decide (x.slicesIdle.toNat < n) && decide (n ≤ idle.toNat)) }) s)

end Sys2Proof.Machine
end

