-- ==== Sys2Proof/Machine/FlueOps.lean ====
section
/-!
DEFINITION. FLUE operations: checks, rows, tables (05_flue R94 to R118). Commands FLUE_ELEMENTWISE,
FLUE_TABLE_FUNCTION, FLUE_GATED, FLUE_NORM, FLUE_SOFTMAX3, FLUE_SOFTMAX2, TABLE_LOAD, TABLE_LOAD_SWAP.
-/
namespace Sys2Proof.Machine

/-! ## Operand rules (Table 5-4) -/

def isL816 (c : Nat) : Bool := outFmtOk c
def isLAny (c : Nat) : Bool := match Fmt.ofCode c with | some x => x.isL | none => false
def isL16 (c : Nat) : Bool := Fmt.ofCode c == some .l16

/-- Whether a B_MODE is legal for a function. -/
def bModeOk (fn m : Nat) : Bool :=
  match flueClass fn with
  | .simple => match SimpleFn.ofCode fn with
    | some x => if x.arity = 1 then m == 0 else m != 0
    | none => false
  | .gated => m == 1
  | .norm => m == 2 || m == 0
  | _ => m == 0

def cModeOk (fn m : Nat) : Bool :=
  match flueClass fn with
  | .simple => match SimpleFn.ofCode fn with
    | some x => if x.arity = 3 then m != 0 else m == 0
    | none => false
  | .norm => m == 2 || m == 0
  | _ => m == 0

/-- A mode that reads a tensor. -/
def modeTensor (m : Nat) : Bool := m == 1 || m == 2

/-- Format rules of Table 5-4, over the formats in use. -/
def flueFmtOk (d : FlueDesc) : Bool :=
  let useB := modeTensor d.bMode && bModeOk d.fn d.bMode
  let useC := modeTensor d.cMode && cModeOk d.fn d.cMode
  match flueClass d.fn with
  | .reserved => true
  | .simple =>
    isLAny d.aFmt && (!useB || isLAny d.bFmt) && (!useC || isLAny d.cFmt)
      && (if 0x10 ≤ d.fn ∧ d.fn ≤ 0x12 then Fmt.ofCode d.outFmt == some .l8 else isLAny d.outFmt)
  | .gated => isL816 d.aFmt && (!useB || isL816 d.bFmt) && isL816 d.outFmt
  | .norm => isL816 d.aFmt && (!useB || isL16 d.bFmt) && (!useC || isL16 d.cFmt) && isL816 d.outFmt
  | _ => isL816 d.aFmt && isL816 d.outFmt

def isSoftmax (fn : Nat) : Bool := fn == 0x41 || fn == 0x42

/-- A bitmap mask is in use (R96). -/
def useMask (d : FlueDesc) : Bool := isSoftmax d.fn && d.maskMode == 1

def rowBytes (d : FlueDesc) (fmt : Nat) : Nat := d.cols * (fmtOr fmt).size

/-- Field rules of one operand (R96). -/
def operandOk (d : FlueDesc) (mode base stride fmt : Nat) : Bool :=
  !modeTensor mode || (al64 base && (mode == 2 || (al64 stride && decide (rowBytes d fmt ≤ stride))))

/-- EPS is finite and not below zero (R111). -/
def epsOk (snap : List Byte) : Bool :=
  match lDecode parL32 (leAt snap 8 4) with
  | .zero _ => true
  | .fin s _ => !s
  | _ => false

def flueFieldOk (d : FlueDesc) (snap : List Byte) : Bool :=
  flueClass d.fn != .reserved && bModeOk d.fn d.bMode && cModeOk d.fn d.cMode
    && operandOk d 1 d.aBase d.aStride d.aFmt
    && operandOk d d.bMode d.bBase d.bStride d.bFmt
    && operandOk d d.cMode d.cBase d.cStride d.cFmt
    && operandOk d 1 d.outBase d.outStride d.outFmt
    && (!isSoftmax d.fn || d.maskMode != 3)
    && (!useMask d || (al64 d.maskBase && al64 d.maskStride && decide ((d.cols + 7) / 8 ≤ d.maskStride)))
    && (d.fn != 0x40 || epsOk snap)

def operandRange (d : FlueDesc) (mode base stride fmt : Nat) : Range :=
  if mode = 1 then rowRange base d.rows (rowBytes d fmt) stride
  else if mode = 2 then ⟨base, rowBytes d fmt⟩ else ⟨0, 0⟩

def aRange (d : FlueDesc) : Range := operandRange d 1 d.aBase d.aStride d.aFmt
def bRange (d : FlueDesc) : Range := operandRange d d.bMode d.bBase d.bStride d.bFmt
def cRange (d : FlueDesc) : Range := operandRange d d.cMode d.cBase d.cStride d.cFmt
def outRange (d : FlueDesc) : Range := operandRange d 1 d.outBase d.outStride d.outFmt
def maskRange (d : FlueDesc) : Range :=
  if useMask d then rowRange d.maskBase d.rows ((d.cols + 7) / 8) d.maskStride else ⟨0, 0⟩

/-- The output coincides exactly with A (R99). -/
def inPlace (d : FlueDesc) : Bool :=
  d.outBase == d.aBase && d.outStride == d.aStride && d.outFmt == d.aFmt

def flueApart (d : FlueDesc) : Bool :=
  let out := outRange d
  (inPlace d || !out.meets (aRange d)) && !out.meets (bRange d) && !out.meets (cRange d) && !out.meets (maskRange d)

/-- The code with which a FLUE operation is rejected (Table 7-10), its tables being those of the bindings it has. -/
def flueCheck (s : State) (p : Nat) (binds : List (Nat × Nat)) (d : FlueDesc) (snap : List Byte) : Nat :=
  let win := basinWin s p
  firstCode [
    (flueFmtOk d, rFormat),
    (flueFieldOk d snap, rFieldRange),
    ((aRange d).within win && (bRange d).within win && (cRange d).within win && (outRange d).within win
      && (maskRange d).within win, rWindow),
    (flueIn s 0 || flueIn s 1, rFlueNone),
    (tableReady s binds d.fn, rTableEmpty),
    (flueApart d, rOverlap),
    (!meetsRes s p (outRange d), rOwner)]

/-! ## Rows -/

/-- The working scale of a simple operation (R100): tensor operands and the output. -/
def flueWork (d : FlueDesc) : LPar :=
  (widest ([fmtOr d.aFmt, fmtOr d.outFmt]
    ++ (if modeTensor d.bMode then [fmtOr d.bFmt] else [])
    ++ (if modeTensor d.cMode then [fmtOr d.cFmt] else []))).par

/-- The format whose parameters are a working scale's. -/
def workFmt (w : LPar) : Fmt := if w.bits = 32 then .l32 else if w.bits = 16 then .l16 else .l8

/-- A scalar of the parameter block, converted into the working scale at launch (R97). -/
def scalarEl (w : LPar) (snap : List Byte) (off : Nat) : El :=
  ⟨workFmt w, (lToL parL32 w (leAt snap off 4)).1⟩

/-- Window offset of element (r, c) of an operand. -/
def elemOff (mode base stride size r c : Nat) : Nat := base + (if mode = 2 then 0 else r * stride) + c * size

/-- The element of an operand in a window of plot `p`. -/
def operandEl (s : State) (p mode base stride fmt r c : Nat) : El :=
  let f := fmtOr fmt
  ⟨f, leNat (readMem false s (basinAddr s p (elemOff mode base stride f.size r c)) f.size)⟩

/-- The element's Basin word cannot be read. -/
def operandBad (s : State) (p mode base stride fmt r c : Nat) : Bool :=
  let f := fmtOr fmt
  modeTensor mode && readBad false s (basinAddr s p (elemOff mode base stride f.size r c)) f.size

/-- The first column of row `r` at which an operand or mask word cannot be read; the row's end when
none. A word of A that cannot be read counts where its elements are masked too: R112 keeps a masked element from
being read as a value, and the row of A is held whole (log 108). -/
def badColumn (s : State) (p : Nat) (d : FlueDesc) (r : Nat) : Nat :=
  ((List.range d.cols).find? fun c =>
    operandBad s p 1 d.aBase d.aStride d.aFmt r c
      || operandBad s p d.bMode d.bBase d.bStride d.bFmt r c
      || operandBad s p d.cMode d.cBase d.cStride d.cFmt r c
      || (useMask d && readBad false s (basinAddr s p (d.maskBase + r * d.maskStride + c / 8)) 1)).getD d.cols

/-- Whether position `c` of row `r` is live (R112). -/
def maskLive (s : State) (p : Nat) (d : FlueDesc) (snap : List Byte) (r c : Nat) : Bool :=
  if d.maskMode = 1 then
    !bitAt (leNat (readMem false s (basinAddr s p (d.maskBase + r * d.maskStride + c / 8)) 1)) (c % 8)
  else if d.maskMode = 2 then decide ((c : Int) ≤ (r : Int) + toSigned 32 (leAt snap 16 4))
  else true

/-- A live soft-maximum element after SM_SCALE (R112). -/
def softEl (d : FlueDesc) (snap : List Byte) (x : El) : Src :=
  if d.scaleEn then
    let m : El := scalarEl parL16 snap 12
    let v := extToWork parL16 (extMul parL16 (x.ext parL16) (m.ext parL16))
    lLinear parL16 (lDecode parL16 v.1)
  else x.lin

/-- The output images of one row. A table bank that cannot be read gives NaN (none for the table). -/
def flueRow (s : State) (p : Nat) (d : FlueDesc) (snap : List Byte) (t : Option Table) (r : Nat) : List Nat :=
  let out := (fmtOr d.outFmt).par
  let a := fun c => operandEl s p 1 d.aBase d.aStride d.aFmt r c
  let w := flueWork d
  let b := fun c => if modeTensor d.bMode then operandEl s p d.bMode d.bBase d.bStride d.bFmt r c else scalarEl w snap 0
  let c3 := fun c => if modeTensor d.cMode then operandEl s p d.cMode d.cBase d.cStride d.cFmt r c else scalarEl w snap 4
  let cols := List.range d.cols
  match flueClass d.fn with
  | .simple => match SimpleFn.ofCode d.fn with
    | some fn => cols.map fun c => simpleElem fn w out (a c) (b c) (c3 c)
    | none => []
  | .table => cols.map fun c => match t with | some t => tableElem t (a c) out | none => out.nan
  | .gated => cols.map fun c => match t with | some t => gatedElem t (a c) (b c) out | none => out.nan
  | .norm =>
    normRow d.rms (cols.map fun c => (a c).acc)
      (if d.bMode = 2 then some (cols.map fun c => (b c).acc) else none)
      (if d.cMode = 2 then some (cols.map fun c => (c3 c).acc) else none)
      (El.acc ⟨.l32, leAt snap 8 4⟩) out
  | .softmax3 => softmaxRow true (cols.map fun c => (softEl d snap (a c), maskLive s p d snap r c)) out
  | .softmax2 => softmaxRow false (cols.map fun c => (softEl d snap (a c), maskLive s p d snap r c)) out
  | .reserved => []

/-- Element-wise functions write elements up to one whose operand cannot be read; row functions write
nothing of such a row (R123). -/
def rowWise (fn : Nat) : Bool := 0x40 ≤ fn

/-- The half that processes row `r` (R95). -/
def flueHalf (s : State) (r : Nat) : Nat :=
  if flueIn s 0 && flueIn s 1 then r % 2 else if flueIn s 0 then 0 else 1

/-- One row is processed and written whole (R96, R183), or the operation stops in it. -/
def runFlueRow (f : Nat) (o : Op) (s : State) : State :=
  let d := flueDesc o.bytes
  let p := furPlot s f
  let r := o.prog.flueRow
  let t := tableFor s o.binds d.fn
  let size := (fmtOr d.outFmt).size
  let k := badColumn s p d r
  let n := if k < d.cols ∧ rowWise d.fn then 0 else k
  let h := flueHalf s r
  let vals := (flueRow s p d o.snapshot t r).take n
  let w := writeMem false s (basinAddr s p (d.outBase + r * d.outStride)) (vals.flatMap (natLe size))
  let s1 := { w.1 with fl := { w.1.fl with halfElems := tblAdd w.1.fl.halfElems h (if w.2 then 0 else n) } }
  let s2 := if t.isNone then flagHw f o.id (tableUncorr p h s1) else s1
  if k < d.cols ∨ w.2 then endOp f o.id rHwError (memUncorr false (some p) s2)
  else
    bumpProgress f (modOp f o.id (fun o =>
      { o with prog := { o.prog with flueRow := r + 1 }
               phase := if r + 1 = d.rows then .ended else o.phase }) s2)

/-- Up to `n` rows of a running FLUE operation. -/
def runFlueRows (f id : Nat) : Nat → State → State
  | 0, s => s
  | n + 1, s =>
    match findOp s f id with
    | some o => if o.phase = .running then runFlueRows f id n (runFlueRow f o s) else s
    | none => s

/-- The domains that FLUE operations need. -/
def flueNeeds (s : State) : List Nat :=
  dFront :: dBasin :: ((if flueIn s 0 then [dFlue 0] else []) ++ (if flueIn s 1 then [dFlue 1] else []))

/-- A FLUE operation that has passed its checks starts (R116). -/
def flueStart (f : Nat) (o : Op) (s : State) : State :=
  modOp f o.id (fun o => { o with phase := .running, binds := bindsFor s (flueDesc o.bytes).fn
                                  basinSize := basinWin s (furPlot s f), prog := {} }) s

/-- A FLUE command on furrow `f`, for function codes that `sel` selects: up to `rows` rows of the
operation that runs, or the dispatch of the one whose turn it is. -/
def flueCommand (f rows : Nat) (sel : Nat → Bool) (s : State) : State :=
  match runningOp s 5 with
  | some (g, o) =>
    if g = f ∧ o.phase = .running ∧ sel (flueDesc o.bytes).fn then runFlueRows f o.id rows s else s
  | none =>
    match beginEngine 5 f (fun o => o.opcode == 0x09 && sel (flueDesc o.bytes).fn) (flueNeeds s) s with
    | .error s1 => s1
    | .ok (o, s1) =>
      let code := windowStep s1 f o (flueCheck s1 (furPlot s1 f) [] (flueDesc o.bytes) o.snapshot)
      if code = 0 then flueStart f o s1 else rejectCode f o code s1

/-- FLUE_ELEMENTWISE (R100): simple functions; a reserved code is dispatched here to be rejected. -/
def execFlueElementwise (f rows : Nat) (s : State) : Res :=
  .next (flueCommand f rows (fun fn => flueClass fn == .simple || flueClass fn == .reserved) s)

/-- FLUE_TABLE_FUNCTION (R105 to R107). -/
def execFlueTableFunction (f rows : Nat) (s : State) : Res :=
  .next (flueCommand f rows (fun fn => flueClass fn == .table) s)

/-- FLUE_GATED (R108). -/
def execFlueGated (f rows : Nat) (s : State) : Res :=
  .next (flueCommand f rows (fun fn => flueClass fn == .gated) s)

/-- FLUE_NORM (R110). -/
def execFlueNorm (f rows : Nat) (s : State) : Res :=
  .next (flueCommand f rows (fun fn => flueClass fn == .norm) s)

/-- FLUE_SOFTMAX3 (R113). -/
def execFlueSoftmax3 (f rows : Nat) (s : State) : Res :=
  .next (flueCommand f rows (fun fn => flueClass fn == .softmax3) s)

/-- FLUE_SOFTMAX2 (R114). -/
def execFlueSoftmax2 (f rows : Nat) (s : State) : Res :=
  .next (flueCommand f rows (fun fn => flueClass fn == .softmax2) s)

/-! ## Loading tables (R117, R118) -/

/-- Some operation in flight holds a binding on a bank, a waiting INVOKE's among them. -/
def bankBound (s : State) (n b : Nat) : Bool :=
  s.hg.furrows.any fun kv => kv.2.queue.any fun o => o.inFlight && o.binds.contains (n, b)

/-- The inactive bank of a slot. -/
def idleBank (s : State) (n : Nat) : Nat := 1 - b2n (getTable s n).active

/-- TABLE_LOADs of a slot that wait or copy, in dispatch order. -/
def pendingLoads (s : State) (n : Nat) : List (Nat × Op) :=
  s.hg.furrows.flatMap fun kv =>
    (kv.2.queue.filter fun o => o.opcode == 0x10 && o.phase == .waiting && tlSlot o.bytes == n).map fun o => (kv.1, o)

/-- The operation dispatched first. -/
def firstOp : List (Nat × Op) → Option (Nat × Op)
  | [] => none
  | x :: t => match firstOp t with
    | none => some x
    | some y => if x.2.prog.row ≤ y.2.prog.row then some x else some y

def tableLoadCheck (f : Nat) (s : State) (o : Op) : Nat :=
  let b := o.bytes
  firstCode [
    (tlClear b || al64 (tlBase b), rFieldRange),
    (tlClear b || (⟨tlBase b, 4096⟩ : Range).within (basinWin s (furPlot s f)), rWindow)]

/-- A bank of a table slot set, with fresh check bits. -/
def TableSlot.put (t : TableSlot) (b : Nat) (v : Option (List Byte)) : TableSlot :=
  let t1 := { t with bad := t.bad.filter (· ≠ b) }
  if b = 1 then { t1 with bank1 := v } else { t1 with bank0 := v }

/-- FL_TSET.LOADED_CRC: over the CRC fields of the 16 active banks (R118). -/
def loadedCrc (s : State) : BitVec 32 :=
  crc32c ((List.range 16).flatMap fun n =>
    match (getTable s n).cur with
    | some b => natLe 4 (leAt b 60 4)
    | none => [0, 0, 0, 0])

/-- An operation that was dispatched waits; its place in dispatch order is the operation counter's value. The windows under
which it is checked are those of now (R199). -/
def stampWait (f : Nat) (o : Op) (s : State) : State :=
  modOp f o.id (fun x => { x with phase := .waiting, prog := { x.prog with row := s.hg.nextOp }
                                  basinSize := basinWin s (furPlot s f), hbmSize := hbmWin s (furPlot s f) })
    { s with hg := { s.hg with nextOp := s.hg.nextOp + 1 } }

/-- TABLE_LOAD (R117): dispatch. It waits for the inactive bank, then its copy ends in TABLE_LOAD_SWAP. -/
def execTableLoad (f : Nat) (s : State) : Res :=
  .next (
    match beginDispatch f (fun o => o.opcode == 0x10) (flueNeeds s) s with
    | .error s1 => s1
    | .ok (o, s1) =>
      let code := windowStep s1 f o (tableLoadCheck f s1 o)
      if code ≠ 0 then rejectCode f o code s1 else stampWait f o s1)

/-- A new bank becomes active. -/
def flipBank (n : Nat) (v : Option (List Byte)) (s : State) : State :=
  let b := idleBank s n
  let t := (getTable s n).put b v
  let s1 := setTable s n { t with active := !t.active }
  let s2 := { s1 with fl := { s1.fl with loadedCrc := loadedCrc s1 } }
  if s2.cn.state = .formed then { s2 with cn := { s2.cn with tsetChanged := true } } else s2

/-- TABLE_LOAD_SWAP (R117): the first waiting load of slot `n`, once its inactive bank carries no
binding, copies, checks and flips. -/
def execTableLoadSwap (n : Nat) (s : State) : Res :=
  .next (
    match firstOp (pendingLoads s n) with
    | none => s
    | some (f, o) =>
      if bankBound s n (idleBank s n) then s
      else if !awake s (flueNeeds s) then ignite (flueNeeds s) s
      else if tlClear o.bytes then completeOp f o.id 0 false (flipBank n none s)
      else
        let p := furPlot s f
        let a := basinAddr s p (tlBase o.bytes)
        if readBad false s a 4096 then completeOp f o.id rHwError false (memUncorr false (some p) s)
        else
          let b := readMem false s a 4096
          if tableImageOk b then completeOp f o.id 0 false (flipBank n (some b) s)
          else completeOp f o.id rTableImage false s)

end Sys2Proof.Machine
end

