-- ==== Sys2Proof/Machine/Sluices.lean ====
section
/-!
DEFINITION. Sluice MOVEs: checks, channels, segments, conversion, gather and scatter, faults
(06_basin_and_sluices R132 to R139). Commands SLUICE_MOVE, SLUICE_SEGMENT.
-/
namespace Sys2Proof.Machine

/-! ## Checks (Table 6-2) -/

/-- A legal conversion (R135). -/
def convLegal (src dst : Nat) : Bool :=
  match Fmt.ofCode src, Fmt.ofCode dst with
  | some a, some b => (a.isEdge && b.isL) || (a.isL && b.isEdge) || (a.isL && b.isL && a != b)
  | _, _ => false

/-- A legal pair of spaces (Table 6-1). -/
def spacesOk (src dst : Nat) : Bool :=
  (src == 0 && dst == 1) || (src == 0 && dst == 2) || (src == 1 && dst == 0) || (src == 2 && dst == 0)
    || (src == 2 && dst == 1) || (src == 1 && dst == 2)

/-- Bytes of one element on each side. -/
def SluiceDesc.srcSize (d : SluiceDesc) : Nat := if d.convert then (fmtOr d.srcFmt).size else 1
def SluiceDesc.dstSize (d : SluiceDesc) : Nat := if d.convert then (fmtOr d.dstFmt).size else 1

/-- Address and stride rules of one side. -/
def sideOk (space addr stride size len : Nat) : Bool :=
  decide (len * size ≤ stride) && (if space = 0 then addr % size == 0 else al64 addr && al64 stride)

/-- The code with which the fields of a Sluice MOVE are rejected, before windows and the owner table. -/
def moveFieldOk (d : SluiceDesc) : Bool :=
  spacesOk d.src d.dst && d.indexMode != 3
    && decide (1 ≤ d.rowLen) && decide (d.rowLen ≤ (if d.convert then 2 ^ 20 else 2 ^ 24))
    && sideOk d.src d.srcAddr d.srcStride d.srcSize d.rowLen
    && sideOk d.dst d.dstAddr d.dstStride d.dstSize d.rowLen
    && (d.indexMode == 0 || al64 d.indexAddr)

/-- The side that an index places: 1 the source, 2 the destination. -/
def SluiceDesc.indexed (d : SluiceDesc) (side : Nat) : Bool := d.indexMode == side

/-- A Basin or HBM range within its window; a host range has none. -/
def spaceWithin (s : State) (p space : Nat) (r : Range) : Bool :=
  if space = 1 then r.within (basinWin s p) else if space = 2 then r.within (hbmWin s p) else true

def SluiceDesc.srcRange (d : SluiceDesc) : Range := rowRange d.srcAddr d.rows (d.rowLen * d.srcSize) d.srcStride
def SluiceDesc.dstRange (d : SluiceDesc) : Range := rowRange d.dstAddr d.rows (d.rowLen * d.dstSize) d.dstStride
/-- The index table (R381). -/
def SluiceDesc.indexRange (d : SluiceDesc) : Range := if d.indexMode = 0 then ⟨0, 0⟩ else ⟨d.indexAddr, 4 * d.rows⟩

/-- Every used range that is known at dispatch lies in its window (R121, R134). -/
def moveWindowOk (s : State) (p : Nat) (d : SluiceDesc) : Bool :=
  (d.indexed 1 || spaceWithin s p d.src d.srcRange) && (d.indexed 2 || spaceWithin s p d.dst d.dstRange)
    && d.indexRange.within (basinWin s p)

/-- Entry `i` of the index table as it stands. -/
def indexAt (s : State) (p : Nat) (d : SluiceDesc) (i : Nat) : Nat :=
  leNat (readMem false s (basinAddr s p (d.indexAddr + 4 * i)) 4)

/-- The owner table grants every destination row that lies in the window (R208). -/
def moveOwnerOk (s : State) (p : Nat) (d : SluiceDesc) : Bool :=
  d.dst != 1
    || (if d.indexed 2 then
          (List.range d.rows).all fun i =>
            let r : Range := ⟨d.dstAddr + indexAt s p d i * d.dstStride, d.rowLen * d.dstSize⟩
            !(r.within (basinWin s p) && meetsRes s p r)
        else !meetsRes s p d.dstRange)

/-- The code with which a Sluice MOVE is rejected (Table 7-10); 0 when it passes. -/
def moveCheck (s : State) (f : Nat) (o : Op) : Nat :=
  let d := sluiceDesc o.bytes
  let p := furPlot s f
  if moveForm o.bytes ≠ 0 then rFieldRange
  else firstCode [
    (!d.convert || convLegal d.srcFmt d.dstFmt, rFormat),
    (moveFieldOk d, rFieldRange),
    (moveWindowOk s p d, rWindow),
    (moveOwnerOk s p d, rOwner)]

/-! ## Dispatch -/

/-- The domains that a MOVE between two spaces needs. -/
def moveNeeds (b : List Byte) : List Nat :=
  let d := sluiceDesc b
  dFront :: ((if d.src = 1 ∨ d.dst = 1 ∨ d.indexMode ≠ 0 then [dBasin] else [])
    ++ (if d.src = 2 ∨ d.dst = 2 then [dHbm] else []))

/-- The bytes of the descriptor whose turn it is. -/
def bytesOfNext (s : State) (f : Nat) : List Byte :=
  match turnOp s f with
  | some o => o.bytes
  | none => []

/-- The MOVE takes channel `c` and captures the windows against which its indices are checked. -/
def moveStart (f : Nat) (o : Op) (c : Nat) (s : State) : State :=
  let p := furPlot s f
  modOp f o.id (fun o => { o with phase := .running, basinSize := basinWin s p, hbmSize := hbmWin s p, prog := {} })
    (setChan s c { busy := true, plot := bv 6 p, furrow := bv 14 f, op := o.id })

/-- A form code above 4 names no domain; it is rejected in ring order (R157). -/
def badForm (o : Op) : Bool := o.opcode == 0x0A && decide (5 ≤ moveForm o.bytes)

/-- SLUICE_MOVE (R132, R134): dispatch to a channel. -/
def sluiceMoveCmd (f : Nat) (s : State) : State :=
  match turnOp s f with
  | none => s
  | some o =>
    if badForm o then
      match beginDispatch f badForm [] s with
      | .error s1 => s1
      | .ok (o, s1) => reject f o rFieldRange s1
    else
      match beginEngine 6 f (fun o => o.opcode == 0x0A && moveForm o.bytes == 0) (moveNeeds (bytesOfNext s f)) s with
      | .error s1 => s1
      | .ok (o, s1) =>
        let code := windowStep s1 f o (moveCheck s1 f o)
        if code ≠ 0 then rejectCode f o code s1
        else match freeChannel s1 with
          | some c => moveStart f o c s1
          | none => s1

def execSluiceMove (f : Nat) (s : State) : Res := .next (sluiceMoveCmd f s)

/-! ## Segments (R136, R137) -/

/-- Bytes from `a` to the next 4 KiB boundary, in whole elements; an element that straddles one stays
whole. -/
def toBoundary (a size : Nat) : Nat := max 1 ((4096 - a % 4096) / size)

/-- Elements of the segment that starts at element `e` of a row whose sides start at `sa` and `da`. -/
def segLen (d : SluiceDesc) (sa da e : Nat) : Nat :=
  min (d.rowLen - e) (min (toBoundary (sa + e * d.srcSize) d.srcSize) (toBoundary (da + e * d.dstSize) d.dstSize))

/-- Offset or IOVA of a row on one side: row `i`, or the row's index `x` where the side is indexed. -/
def rowAt (d : SluiceDesc) (side i x : Nat) : Nat :=
  let k := if d.indexed side then x else i
  if side = 1 then d.srcAddr + k * d.srcStride else d.dstAddr + k * d.dstStride

/-- What one row's start comes to: its index, or the reason that stops the MOVE (R136, R123). -/
def rowStart (s : State) (p : Nat) (o : Op) (d : SluiceDesc) (i : Nat) : Except Nat Nat :=
  if d.indexMode ≠ 0 ∧ readBad false s (basinAddr s p (d.indexAddr + 4 * i)) 4 then .error rHwError
  else
    let x := if d.indexMode = 0 then i else indexAt s p d i
    let ok := fun space side size =>
      let e := rowAt d side i x + d.rowLen * size
      if space = 1 then decide (e ≤ o.basinSize) else if space = 2 then decide (e ≤ o.hbmSize) else true
    if ok d.src 1 d.srcSize && ok d.dst 2 d.dstSize then .ok x else .error rWindow

/-- Physical or host address of an offset in a space. -/
def spaceAddr (s : State) (p space o : Nat) : Nat :=
  if space = 0 then o else if space = 1 then basinAddr s p o else hbmAddr s p o

/-- The MOVE stops with a reason (R136, R139, R123). -/
def moveStop (f : Nat) (o : Op) (reason : Nat) (s : State) : State := endOp f o.id reason s

/-- The images of a run of elements on the destination side. -/
def convertRun (d : SluiceDesc) (bytes : List Byte) : List Byte :=
  if d.convert then
    (List.range (bytes.length / d.srcSize)).flatMap fun i =>
      natLe d.dstSize (convertElem (fmtOr d.srcFmt) (fmtOr d.dstFmt) (leAt bytes (i * d.srcSize) d.srcSize))
  else bytes

/-- What a host side answers, as a MOVE sees it: reads meet every kind of failure; a posted write meets an
error or a refusal only (R139, R322). -/
def hostFails (d : SluiceDesc) (r : HostResp) : Bool :=
  match r with
  | .data _ _ => false
  | .error => d.src == 0 || d.dst == 0
  | .timeout => d.src == 0
  | .poison => d.src == 0

/-- A host access past the 64-bit IOVA space cannot be translated. -/
def hostBeyond (d : SluiceDesc) (sa da ns nd : Nat) : Bool :=
  (d.src == 0 && decide (2 ^ 64 < sa + ns)) || (d.dst == 0 && decide (2 ^ 64 < da + nd))

/-- The elements of a segment of `n` that lie before the first uncorrectable source word. -/
def readable (s : State) (hbm : Bool) (a size n : Nat) : Nat :=
  if readBad hbm s a (n * size) then
    ((List.range n).find? fun i => readBad hbm s (a + i * size) size).getD n
  else n

/-- The next position after a segment of `n` elements. -/
def segAdvance (d : SluiceDesc) (n : Nat) (o : Op) : Op :=
  let e := o.prog.segElem + n
  if e < d.rowLen then { o with prog := { o.prog with segElem := e } }
  else { o with prog := { o.prog with segRow := o.prog.segRow + 1, segElem := 0 }
                phase := if o.prog.segRow + 1 = d.rows then .ended else o.phase }

/-- The bytes of a segment land, and the MOVE goes on or stops. `k` of `n` elements were readable. -/
def segWrite (f : Nat) (o : Op) (d : SluiceDesc) (p da n k : Nat) (bytes : List Byte) (s : State) : State :=
  let out := (convertRun d bytes).take (k * d.dstSize)
  if d.dst = 0 then
    if k < n then moveStop f o rHwError (memUncorr (d.src == 2) (some p) s)
    else bumpProgress f (modOp f o.id (segAdvance d n) (emit (.hostWrite p (pasidOf s p) da out) s))
  else
    let w := writeMem (d.dst == 2) s da out
    if w.2 then moveStop f o rHwError (memUncorr (d.dst == 2) (some p) w.1)
    else if k < n then moveStop f o rHwError (memUncorr (d.src == 2) (some p) w.1)
    else bumpProgress f (modOp f o.id (segAdvance d n) w.1)

/-- One segment from element `e` of the current row, whose index is `x`. -/
def segRun (f : Nat) (o : Op) (d : SluiceDesc) (x : Nat) (r : HostResp) (s : State) : State :=
  let p := furPlot s f
  let i := o.prog.segRow
  let e := o.prog.segElem
  let sa := spaceAddr s p d.src (rowAt d 1 i x)
  let da := spaceAddr s p d.dst (rowAt d 2 i x)
  let n := segLen d sa da e
  let s0 := sa + e * d.srcSize
  let d0 := da + e * d.dstSize
  if hostBeyond d s0 d0 (n * d.srcSize) (n * d.dstSize) then moveStop f o rHostFault s
  else
    let a := if d.src = 0 ∨ d.dst = 0 then hostAnswer s p r else r
    let s := if d.src = 0 ∧ hostOpen s p then emit (.hostRead p (pasidOf s p) s0 (n * d.srcSize)) s else s
    if hostFails d a then moveStop f o rHostFault (if a = .poison then raise 30 (some p) s else s)
    else if d.src = 0 then
      match a with
      | .data b _ => segWrite f o d p d0 n n (padTo (n * d.srcSize) b) s
      | _ => moveStop f o rHostFault s
    else
      segWrite f o d p d0 n (readable s (d.src == 2) s0 d.srcSize n) (readMem (d.src == 2) s s0 (n * d.srcSize)) s

/-- The MOVE that a channel runs. -/
def channelOp (s : State) (c : Nat) : Option (Nat × Op) :=
  let x := getChan s c
  if x.busy then
    match findOp s x.furrow.toNat x.op with
    | some o => if o.phase = .running then some (x.furrow.toNat, o) else none
    | none => none
  else none

/-- The next segment of a running MOVE; a row's index is read as the row is reached (R136). -/
def segStep (f : Nat) (o : Op) (r : HostResp) (s : State) : State :=
  let d := sluiceDesc o.bytes
  let p := furPlot s f
  if o.prog.segElem ≠ 0 then segRun f o d o.prog.row r s
  else match rowStart s p o d o.prog.segRow with
    | .error code => moveStop f o code (if code = rHwError then memUncorr false (some p) s else s)
    | .ok x =>
      let o1 := { o with prog := { o.prog with row := x } }
      segRun f o1 d x r (modOp f o.id (fun _ => o1) s)

/-- One segment of the MOVE on channel `c`. -/
def sluiceSegmentCmd (c : Nat) (r : HostResp) (s : State) : State :=
  match channelOp s c with
  | none => s
  | some (f, o) => if awake s (moveNeeds o.bytes) then segStep f o r s else s

/-- SLUICE_SEGMENT (R137). -/
def execSluiceSegment (c : Nat) (r : HostResp) (s : State) : Res := .next (sluiceSegmentCmd c r s)

end Sys2Proof.Machine
end

