-- ==== Sys2Proof/Machine/Canals.lean ====
section
/-!
DEFINITION. Canal ports and flits: sending, acceptance, acknowledgement, replay, training and routing
(13_canals_and_gangs R286 to R292, R297). What a gang does with a flit stands in Gangs.lean.
-/
namespace Sys2Proof

/-! ## The flit (Table 13-1) -/

/-- Bytes 0 to 251 of a flit. -/
def flitHead (fl : Flit) : List Byte :=
  natLe 1 fl.type.toNat ++ natLe 1 (fl.src.toNat + 8 * fl.dst.toNat + 64 * fl.reserved1.toNat) ++ natLe 2 fl.len.toNat
    ++ natLe 4 fl.arg.toNat ++ padTo 240 fl.payload ++ natLe 2 (fl.seq.toNat + 2 ^ 12 * fl.reserved248.toNat)
    ++ natLe 2 (fl.ack.toNat + 2 ^ 12 * b2n fl.nak + 2 ^ 13 * b2n fl.seqValid + 2 ^ 14 * fl.reserved250.toNat)

/-- The 256 bytes of a flit. -/
def flitBytes (fl : Flit) : List Byte := flitHead fl ++ natLe 4 fl.crc.toNat

/-- The CRC field is CRC-32C over bytes 0 to 251 (R288). -/
def Flit.crcOk (fl : Flit) : Bool := fl.crc == crc32c (flitHead fl)

/-- A flit as it is sent: reserved bits 0, and its CRC. -/
def Flit.sealed (fl : Flit) : Flit :=
  let fl := { fl with reserved1 := 0, reserved248 := 0, reserved250 := 0 }
  { fl with crc := crc32c (flitHead fl) }

end Sys2Proof

namespace Sys2Proof.Machine

/-! ## The ring (R286, R297) -/

/-- This tile's index. -/
def tileIdx (s : State) : Nat := s.pins.strapTile.toNat

/-- The members that take part in routing: the present ones once formed, else those configured. -/
def ring (s : State) : List Nat :=
  bitList (if s.cn.state = .formed ∨ s.cn.state = .broken then s.cn.present.toNat ||| 2 ^ tileIdx s
           else s.cn.members.toNat) 8

/-- The member after tile `t` in the configured ring, and the one before it. -/
def nextMember (ms : List Nat) (t : Nat) : Nat := ((ms.find? (t < ·)).getD (ms.headD t))
def prevMember (ms : List Nat) (t : Nat) : Nat := (((ms.filter (· < t)).getLast?).getD (ms.getLast?.getD t))

/-- Ports of a direction, next-ward or previous-ward. -/
def dirPorts (s : State) (nextward : Bool) : List Nat :=
  let first := if nextward then 0 else 1
  if s.cn.pair2 then [first, first + 2] else [first]

/-- An ACTIVE port. -/
def portUp (s : State) (n : Nat) : Bool := (getPort s n).state == .active

/-- A port that carries flits, now or after its retrain: one that is not DOWN. -/
def portOpen (s : State) (n : Nat) : Bool := portUp s n || (getPort s n).retraining && (getPort s n).state != .down

/-- Hops from this tile to tile `t`, next-ward. -/
def hopsNext (s : State) (t : Nat) : Nat :=
  let ms := ring s
  let pos := fun x => ms.idxOf x
  (pos t + ms.length - pos (tileIdx s)) % ms.length

/-- Of the ports of a list that `ok` admits, the one with the fewest flits to carry, the lowest-numbered on a tie. -/
def lightest (s : State) (ok : Nat → Bool) : List Nat → Option Nat
  | [] => none
  | n :: t =>
    let load := fun k => (getPort s k).txq.length + (getPort s k).buffer.length
    match lightest s ok t with
    | none => if ok n then some n else none
    | some k => if ok n ∧ load n ≤ load k then some n else some k

/-- The port of a direction that the next flit takes: an ACTIVE one (R286), else one that retrains, where it waits. -/
def dirPort (s : State) (nextward : Bool) : Option Nat :=
  match lightest s (portUp s) (dirPorts s nextward) with
  | some n => some n
  | none => lightest s (portOpen s) (dirPorts s nextward)

/-- The port that carries a flit in a direction, or in the other where that one has no path; none when neither has. -/
def portToward (s : State) (nextward : Bool) : Option Nat :=
  match dirPort s nextward with
  | some n => some n
  | none => dirPort s (!nextward)

/-- The port that carries a flit of this tile's own to tile `t`: in the direction with fewer hops, next-ward on a tie (R297). -/
def routePort (s : State) (t : Nat) : Option Nat := portToward s (decide (2 * hopsNext s t ≤ (ring s).length))

/-- The port that carries on a flit for another tile that came in on port `n`: in the direction that it travels, which is
next-ward where the port is a previous-ward one (R297, log 42). -/
def onwardPort (s : State) (n : Nat) : Option Nat := portToward s (n % 2 == 1)

/-- A member is reachable while either direction has a path to it, as far as this tile's own ports show (log 42). -/
def reachable (s : State) (t : Nat) : Bool := (routePort s t).isSome

/-- This tile has an ACTIVE port in some direction (R295). -/
def linked (s : State) : Bool := [true, false].any fun d => (dirPorts s d).any (portUp s)

/-! ## Sending (R290) -/

/-- A flit as the port sends it: with its acknowledgement field and its CRC. -/
def stamp (p : Port) (fl : Flit) : Flit := { fl with ack := p.rxExpect - 1 }.sealed

/-- An IDLE or NAK flit. -/
def idleFlit (s : State) (n : Nat) (nak : Bool) : Flit :=
  stamp (getPort s n)
    { type := 0x01, src := s.pins.strapTile, dst := (getPort s n).peerId, arg := 0, payload := [], seq := 0
      ack := 0, nak := nak, seqValid := false }

/-- The next waiting flit is sent while the replay buffer has room (64 flits). -/
def sendNext (n : Nat) (s : State) : State :=
  let p := getPort s n
  match p.txq with
  | [] => s
  | fl :: rest =>
    if p.state = .active ∧ awake s [dCanal n] ∧ p.buffer.length < 64 then
      let out := stamp p { fl with seq := p.txSeq, seqValid := true, nak := false }
      emit (.flit n out) (setPort s n { p with txq := rest, txSeq := p.txSeq + 1, buffer := p.buffer ++ [out] })
    else s

/-- As many waiting flits as the buffer takes. -/
def pump (n : Nat) (s : State) : State := times 64 (sendNext n) s

/-- A flit leaves by a port, whose domain it wakes, or nowhere when there is none. -/
def routeFlit (port : Option Nat) (fl : Flit) (s : State) : State :=
  match port with
  | none => s
  | some n => pump n (modPort n (fun p => { p with txq := p.txq ++ [fl] }) (ignite [dCanal n] s))

/-- A flit of this tile's own. -/
def sendFlit (type : BitVec 8) (dst : Nat) (arg : BitVec 32) (payload : List Byte) (s : State) : State :=
  routeFlit (routePort s dst)
    { type := type, src := s.pins.strapTile, dst := bv 3 dst, arg := arg, payload := payload, seq := 0
      ack := 0, nak := false, seqValid := true } s

/-- The same flit to each of several tiles. -/
def sendAll (type : BitVec 8) (ds : List Nat) (arg : BitVec 32) (payload : List Byte) (s : State) : State :=
  ds.foldl (fun s d => sendFlit type d arg payload s) s

/-! ## Retraining, replay, loss of a port (R290, R291) -/

/-- A TRAIN flit of this port (Table 13-2). -/
def trainFlit (s : State) (n : Nat) : Flit :=
  let p := getPort s n
  stamp p
    { type := 0x02, src := s.pins.strapTile, dst := p.peerId, arg := 0, seq := 0, ack := 0, nak := false, seqValid := false
      payload := natLe 1 (tileIdx s) ++ natLe 1 n ++ natLe 1 1 ++ natLe 1 (b2n (decide (8 ≤ p.goodTrain)))
        ++ natLe 2 p.rxExpect.toNat ++ natLe 2 0 ++ natLe 4 s.cn.gangKey.toNat }

/-- Training starts (Table 13-3 step 1): the port's domain is woken. -/
def startTraining (n : Nat) (s : State) : State :=
  ignite [dCanal n] (modPort n (fun p =>
    { p with retrain := false, state := .phyTrain, retraining := p.wasActive, goodTrain := 0, peerOk := false
             peerValid := false }) s)

/-- The unacknowledged flits are sent again, in order. -/
def resend (n : Nat) (s : State) : State :=
  (getPort s n).buffer.foldl (fun s fl => emit (.flit n (stamp (getPort s n) fl)) s) s

/-- One replay: counted, raised on source 32 + n; the 16th in a row without an advance retrains (R291). -/
def replay (n : Nat) (s : State) : State :=
  let s1 := resend n (modPort n (fun p => { p with replays := incHold p.replays, stuck := incHold p.stuck }) s)
  let s2 := raise (32 + n) none s1
  if 16 ≤ (getPort s2 n).stuck.toNat then startTraining n (modPort n (fun p => { p with stuck := 0 }) s2) else s2

/-- Acknowledgement up to SEQ `a` (modulo 4096) frees the flits it covers (R290). -/
def acked (n : Nat) (a : BitVec 12) (s : State) : State :=
  let p := getPort s n
  match p.buffer with
  | [] => s
  | fl :: _ =>
    let k := (a - fl.seq + 1).toNat
    if 1 ≤ k ∧ k ≤ p.buffer.length then
      pump n (setPort s n { p with buffer := p.buffer.drop k, stuck := 0 })
    else s

/-! ## Acceptance (R288, R290) -/

/-- What a sequenced flit that arrives comes to. -/
inductive Arrival where
  | accept     -- accepted here, for this tile
  | forward    -- accepted, for another tile
  | ignore     -- discarded
  deriving DecidableEq, Repr

/-- A flit with a bad CRC is discarded and counted; an ACTIVE port sends one NAK until the expected flit comes (R290), and
in training the run of good TRAIN flits ends. -/
def crcError (n : Nat) (s : State) : State :=
  let p := getPort s n
  if n < 4 ∧ p.state = .active then
    let s1 := setPort s n { p with crcErr := incHold p.crcErr, nakSent := true }
    if p.nakSent then s1 else emit (.flit n (idleFlit s1 n true)) s1
  else if n < 4 ∧ p.state = .canalTrain then setPort s n { p with crcErr := incHold p.crcErr, goodTrain := 0 }
  else s

/-- The acknowledgement and the NAK bit that an accepted flit carries (R290). -/
def takeAck (n : Nat) (fl : Flit) (s : State) : State :=
  let s1 := acked n fl.ack s
  if fl.nak then replay n s1 else s1

/-- Arrival of a sequenced flit on port `n`: the state after acceptance and acknowledgement, or after its discard with
the NAK that a bad CRC or a gap brings. -/
def arrive (n : Nat) (fl : Flit) (s : State) : State × Arrival :=
  let p := getPort s n
  if n ≥ 4 ∨ p.state ≠ .active then (s, .ignore)
  else if awake s [dCanal n] = false then (ignite [dCanal n] s, .ignore)
  else if fl.crcOk = false then (crcError n s, .ignore)
  else if fl.seqValid = false then (s, .ignore)
  else if fl.seq = p.rxExpect then
    let s1 := takeAck n fl (setPort s n { p with rxExpect := p.rxExpect + 1, nakSent := false })
    let s2 := emit (.flit n (idleFlit s1 n false)) s1
    (s2, if fl.dst.toNat = tileIdx s then .accept else .forward)
  else if (fl.seq - p.rxExpect).toNat < 2048 ∧ p.nakSent = false then
    let s1 := setPort s n { p with nakSent := true }
    (emit (.flit n (idleFlit s1 n true)) s1, .ignore)
  else (s, .ignore)

/-- A typed flit: accepted and acted on, forwarded, or discarded. -/
def onFlit (type : Nat) (n : Nat) (fl : Flit) (act : State → State) (s : State) : State :=
  if fl.type.toNat ≠ type then s
  else
    let r := arrive n fl s
    match r.2 with
    | .accept => act r.1
    | .forward => routeFlit (onwardPort r.1 n) fl r.1
    | .ignore => r.1

/-- Flit types that carry SEQ_VALID = 1 and that Table 13-2 assigns. -/
def typeAssigned (t : Nat) : Bool := decide (1 ≤ t ∧ t ≤ 8) || decide (0x10 ≤ t ∧ t ≤ 0x14) || t == 0x20

/-! ## Link commands -/

/-- IDLE (R290): its acknowledgement frees replay-buffer entries, and its NAK bit brings a replay. -/
def execIdle (n : Nat) (fl : Flit) (s : State) : Res :=
  .next (if n < 4 ∧ fl.type = 0x01 ∧ (getPort s n).state = .active then
    (if fl.crcOk then takeAck n fl s else crcError n s) else s)

/-- NAK (R290), in a flit that carries nothing else: every flit from ACK + 1 is sent again. -/
def execNak (n : Nat) (fl : Flit) (s : State) : Res :=
  .next (if n < 4 ∧ fl.nak ∧ (getPort s n).state = .active then
    (if fl.crcOk then takeAck n fl s else crcError n s) else s)

/-- REPLAY_TIMEOUT (R290): 1024 flit times with flits outstanding and no advance. -/
def execReplayTimeout (n : Nat) (s : State) : Res :=
  .next (if n < 4 ∧ (getPort s n).state = .active ∧ (getPort s n).buffer ≠ [] then replay n s else s)

/-- FLIT_CRC_ERROR (R290). -/
def execFlitCrcError (n : Nat) (s : State) : Res := .next (crcError n s)

/-- RESERVED_FLIT_TYPE (R289): accepted and discarded. -/
def execReservedFlitType (n : Nat) (fl : Flit) (s : State) : Res :=
  .next (if typeAssigned fl.type.toNat then s else (arrive n fl s).1)

/-- FLIT_FORWARD (R297). -/
def execFlitForward (n : Nat) (fl : Flit) (s : State) : Res :=
  .next (if fl.dst.toNat = tileIdx s ∨ typeAssigned fl.type.toNat = false then s
    else
      let r := arrive n fl s
      if r.2 = .forward then routeFlit (onwardPort r.1 n) fl r.1 else r.1)

/-- CANAL_PHY_TRAINING_END (R292, Table 13-3 step 3). -/
def execCanalPhyTrainingEnd (n : Nat) (width8 : Bool) (s : State) : Res :=
  .next (
    if n < 4 ∧ (getPort s n).state = .phyTrain ∧ awake s [dCanal n] then
      let s1 := modPort n (fun p => { p with state := .canalTrain, width8 := width8, goodTrain := 0, peerOk := false }) s
      emit (.flit n (trainFlit s1 n)) s1
    else s)

end Sys2Proof.Machine
end

