-- ==== Sys2Proof/Machine/Crypto.lean ====
section
/-!
DEFINITION. The algorithms that verify a firmware image (11_chimney_firmware R240): SHA-384 and ECDSA on the curve
P-384. Keys and signatures are byte strings in the order of FIPS 186-5, the most significant byte first (R239).
-/
namespace Sys2Proof

/-! ## SHA-384 -/

/-- The number that bytes spell, the most significant first. -/
def beNat (bs : List Byte) : Nat := bs.foldl (fun v b => 256 * v + b.toNat) 0

/-- The `n` bytes of a number, the most significant first. -/
def natBe (n v : Nat) : List Byte := (natLe n v).reverse

/-- The round constants. -/
def shaK : List Nat :=
  [0x428A2F98D728AE22, 0x7137449123EF65CD, 0xB5C0FBCFEC4D3B2F, 0xE9B5DBA58189DBBC,
    0x3956C25BF348B538, 0x59F111F1B605D019, 0x923F82A4AF194F9B, 0xAB1C5ED5DA6D8118,
    0xD807AA98A3030242, 0x12835B0145706FBE, 0x243185BE4EE4B28C, 0x550C7DC3D5FFB4E2,
    0x72BE5D74F27B896F, 0x80DEB1FE3B1696B1, 0x9BDC06A725C71235, 0xC19BF174CF692694,
    0xE49B69C19EF14AD2, 0xEFBE4786384F25E3, 0x0FC19DC68B8CD5B5, 0x240CA1CC77AC9C65]
  ++ [0x2DE92C6F592B0275, 0x4A7484AA6EA6E483, 0x5CB0A9DCBD41FBD4, 0x76F988DA831153B5,
    0x983E5152EE66DFAB, 0xA831C66D2DB43210, 0xB00327C898FB213F, 0xBF597FC7BEEF0EE4,
    0xC6E00BF33DA88FC2, 0xD5A79147930AA725, 0x06CA6351E003826F, 0x142929670A0E6E70,
    0x27B70A8546D22FFC, 0x2E1B21385C26C926, 0x4D2C6DFC5AC42AED, 0x53380D139D95B3DF,
    0x650A73548BAF63DE, 0x766A0ABB3C77B2A8, 0x81C2C92E47EDAEE6, 0x92722C851482353B]
  ++ [0xA2BFE8A14CF10364, 0xA81A664BBC423001, 0xC24B8B70D0F89791, 0xC76C51A30654BE30,
    0xD192E819D6EF5218, 0xD69906245565A910, 0xF40E35855771202A, 0x106AA07032BBD1B8,
    0x19A4C116B8D2D0C8, 0x1E376C085141AB53, 0x2748774CDF8EEB99, 0x34B0BCB5E19B48A8,
    0x391C0CB3C5C95A63, 0x4ED8AA4AE3418ACB, 0x5B9CCA4F7763E373, 0x682E6FF3D6B2B8A3,
    0x748F82EE5DEFB2FC, 0x78A5636F43172F60, 0x84C87814A1F0AB72, 0x8CC702081A6439EC]
  ++ [0x90BEFFFA23631E28, 0xA4506CEBDE82BDE9, 0xBEF9A3F7B2C67915, 0xC67178F2E372532B,
    0xCA273ECEEA26619C, 0xD186B8C721C0C207, 0xEADA7DD6CDE0EB1E, 0xF57D4F7FEE6ED178,
    0x06F067AA72176FBA, 0x0A637DC5A2C898A6, 0x113F9804BEF90DAE, 0x1B710B35131C471B,
    0x28DB77F523047D84, 0x32CAAB7B40C72493, 0x3C9EBE0A15C9BEBC, 0x431D67C49C100D4C,
    0x4CC5D4BECB3E42B6, 0x597F299CFC657E2A, 0x5FCB6FAB3AD6FAEC, 0x6C44198C4A475817]

/-- The initial hash value. -/
def shaInit : List Nat :=
  [0xCBBB9D5DC1059ED8, 0x629A292A367CD507, 0x9159015A3070DD17, 0x152FECD8F70E5939,
   0x67332667FFC00B31, 0x8EB44A8768581511, 0xDB0C2E0D64F98FA7, 0x47B5481DBEFA4FA4]

/-- A 64-bit word rotated to the right. -/
def rotr64 (n x : Nat) : Nat := (x >>> n) ||| (x <<< (64 - n)) % 2 ^ 64

/-- The message schedule, last word first, from the 16 words of a block. -/
def shaSchedule : Nat → List Nat → List Nat
  | 0, w => w
  | n + 1, w =>
    let a := w.getD 14 0
    let b := w.getD 1 0
    let s0 := rotr64 1 a ^^^ rotr64 8 a ^^^ (a >>> 7)
    let s1 := rotr64 19 b ^^^ rotr64 61 b ^^^ (b >>> 6)
    shaSchedule n ((w.getD 15 0 + s0 + w.getD 6 0 + s1) % 2 ^ 64 :: w)

/-- The working variables. -/
structure ShaVars where
  a : Nat
  b : Nat
  c : Nat
  d : Nat
  e : Nat
  f : Nat
  g : Nat
  h : Nat
  deriving DecidableEq, Repr

/-- One round, with the sum of its constant and its schedule word. -/
def shaRound (v : ShaVars) (kw : Nat) : ShaVars :=
  let s1 := rotr64 14 v.e ^^^ rotr64 18 v.e ^^^ rotr64 41 v.e
  let ch := (v.e &&& v.f) ^^^ ((v.e ^^^ (2 ^ 64 - 1)) &&& v.g)
  let t1 := v.h + s1 + ch + kw
  let s0 := rotr64 28 v.a ^^^ rotr64 34 v.a ^^^ rotr64 39 v.a
  let maj := (v.a &&& v.b) ^^^ (v.a &&& v.c) ^^^ (v.b &&& v.c)
  { a := (t1 + s0 + maj) % 2 ^ 64, b := v.a, c := v.b, d := v.c, e := (v.d + t1) % 2 ^ 64, f := v.e, g := v.f, h := v.g }

/-- One block taken into the hash value. -/
def shaBlock (hs : List Nat) (block : List Byte) : List Nat :=
  let words := (List.range 16).map fun i => beNat ((block.drop (8 * i)).take 8)
  let sched := (shaSchedule 64 words.reverse).reverse
  let at_ := fun i => hs.getD i 0
  let v := (shaK.zip sched).foldl (fun v kw => shaRound v (kw.1 + kw.2)) ⟨at_ 0, at_ 1, at_ 2, at_ 3, at_ 4, at_ 5, at_ 6, at_ 7⟩
  (hs.zip [v.a, v.b, v.c, v.d, v.e, v.f, v.g, v.h]).map fun x => (x.1 + x.2) % 2 ^ 64

/-- The padded message: a 1 bit, zeros, and the length in bits, 16 bytes. -/
def shaPad (m : List Byte) : List Byte :=
  m ++ [0x80] ++ List.replicate ((239 - m.length % 128) % 128) 0 ++ natBe 16 (8 * m.length)

/-- The blocks of 128 bytes, taken one after the other. -/
def shaBlocks : Nat → List Byte → List Nat → List Nat
  | 0, _, hs => hs
  | n + 1, m, hs => shaBlocks n (m.drop 128) (shaBlock hs (m.take 128))

/-- SHA-384 of a byte string. -/
def sha384 (m : List Byte) : List Byte :=
  let p := shaPad m
  ((shaBlocks (p.length / 128) p shaInit).flatMap (natBe 8)).take 48

/-! ## ECDSA on P-384 -/

/-- The field of the curve, the order of its base point, its second coefficient (the first is -3). -/
def p384 : Nat := 2 ^ 384 - 2 ^ 128 - 2 ^ 96 + 2 ^ 32 - 1
def order384 : Nat :=
  0xFFFFFFFFFFFFFFFFFFFFFFFFFFFFFFFFFFFFFFFFFFFFFFFFC7634D81F4372DDF581A0DB248B0A77AECEC196ACCC52973
def coeff384 : Nat :=
  0xB3312FA7E23EE7E4988E056BE3F82D19181D9C6EFE8141120314088F5013875AC656398D8A2ED19D2A85C8EDD3EC2AEF

/-- A point of the curve; none is the point at infinity. -/
abbrev CurvePoint := Option (Nat × Nat)

/-- The base point. -/
def base384 : CurvePoint := some (
  0xAA87CA22BE8B05378EB1C71EF320AD746E1D3B628BA79B9859F741E082542A385502F25DBF55296C3A545E3872760AB7,
  0x3617DE4A96262C6F5D9E98BF9292DC29F8F41DBD289A147CE9DA3113B5F0B8C00A60B1CE1D7E819D7A431D7C90EA0E5F)

/-- A power modulo `m`, of an exponent of `k` bits. -/
def modPow (m : Nat) : Nat → Nat → Nat → Nat
  | 0, _, _ => 1 % m
  | k + 1, b, e =>
    let h := modPow m k (b * b % m) (e / 2)
    if e % 2 = 1 then b * h % m else h

/-- The inverse modulo a prime of 384 bits. -/
def modInv (m x : Nat) : Nat := modPow m 384 (x % m) (m - 2)

/-- The sum of two points. -/
def pointAdd : CurvePoint → CurvePoint → CurvePoint
  | none, q => q
  | some p, none => some p
  | some (x1, y1), some (x2, y2) =>
    if x1 = x2 ∧ (y1 + y2) % p384 = 0 then none
    else
      let slope :=
        if x1 = x2 then (3 * x1 * x1 + p384 - 3) * modInv p384 (2 * y1) % p384
        else (y2 + p384 - y1) * modInv p384 (x2 + p384 - x1) % p384
      let x := (slope * slope + 2 * p384 - x1 - x2) % p384
      some (x, (slope * (x1 + p384 - x) + p384 - y1) % p384)

/-- A multiple of a point, by a factor of `k` bits. -/
def pointMul : Nat → Nat → CurvePoint → CurvePoint
  | 0, _, _ => none
  | k + 1, e, q =>
    let h := pointMul k (e / 2) (pointAdd q q)
    if e % 2 = 1 then pointAdd q h else h

/-- A public key as an uncompressed point of 97 bytes. -/
def publicPoint (key : List Byte) : CurvePoint :=
  let x := beNat ((key.drop 1).take 48)
  let y := beNat ((key.drop 49).take 48)
  if key.length = 97 ∧ beNat (key.take 1) = 4 ∧ x < p384 ∧ y < p384 ∧ y * y % p384 = (x * x * x + (p384 - 3) * x + coeff384) % p384
  then some (x, y) else none

/-- Whether an ECDSA P-384 signature, `r` then `s`, verifies over SHA-384 of a byte string. -/
def ecdsaVerify (key sign m : List Byte) : Bool :=
  let r := beNat (sign.take 48)
  let s := beNat ((sign.drop 48).take 48)
  match publicPoint key with
  | none => false
  | some q =>
    if sign.length = 96 ∧ 0 < r ∧ r < order384 ∧ 0 < s ∧ s < order384 then
      let w := modInv order384 s
      let u := beNat (sha384 m) * w % order384
      match pointAdd (pointMul 384 u base384) (pointMul 384 (r * w % order384) (some q)) with
      | some (x, _) => x % order384 == r
      | none => false
    else false

end Sys2Proof
end

