-- ==== Sys2Proof/Machine/Gangs.lean ====
section
/-!
DEFINITION. Gangs: training to ACTIVE, formation, time skew, collectives, loss of members
(13_canals_and_gangs R292 to R304). Also SLOT_READ (04_ashpan R82, R83), which a gang makes a collective.
-/
namespace Sys2Proof.Machine

/-! ## Collectives: the record (R300) -/

/-- Entry `i` of the record of a slot. -/
def recordEntry (s : State) (slot i : Nat) : BitVec 96 :=
  bv 96 (leNat (readMem false s (recordAddr s slot + 64 + 12 * i) 12))

/-- Entries written into the record from index `i` on, merging into the words they share (R123), and whether one of those
cannot be read. -/
def putRecord (slot i : Nat) (es : List (BitVec 96)) (s : State) : State × Bool :=
  writeMem false s (recordAddr s slot + 64 + 12 * i) (es.flatMap fun e => natLe 12 e.toNat)

/-- The word kind that the record's header names. -/
def recordKind (s : State) (slot : Nat) : WordKind :=
  match imageShape (readMem false s (recordAddr s slot) 64) with
  | some x => x.word
  | none => .a96

/-- The members that take part in a collective beside this tile. -/
def others (s : State) : List Nat := (bitList s.cn.present.toNat 8).filter (· ≠ tileIdx s)

/-- The lead of the gang (R293). -/
def leadOf (s : State) : Nat := (bitList s.cn.members.toNat 8).headD 0
def isLead (s : State) : Bool := leadOf s == tileIdx s

/-- The collective this tile exchanges now: the first that has not reached phase C. -/
def curColl (s : State) : Option Coll := s.cn.colls.find? fun c => !c.phaseC

/-- A change to the collective of an operation. -/
def modColl (op : Nat) (g : Coll → Coll) (s : State) : State :=
  { s with cn := { s.cn with colls := s.cn.colls.map fun c => if c.op = op then g c else c } }

/-- Flits of a collective that still wait to be sent are withdrawn. -/
def dropCollFlits (s : State) : State :=
  [0, 1, 2, 3].foldl (fun s n =>
    modPort n (fun p => { p with txq := p.txq.filter fun fl => !(fl.type == 0x11 && fl.src == s.pins.strapTile) }) s) s

/-- A collective is over before phase C (R302, R303): it completes with a reason, its record invalid, its
slot as it was. -/
def abortColl (c : Coll) (reason : Nat) (s : State) : State :=
  let s1 := if curColl s = some c then dropCollFlits s else s
  let s2 := dropRecord c.slot { s1 with cn := { s1.cn with colls := s1.cn.colls.filter (· ≠ c) } }
  modOp c.furrow c.op (fun o => { o with phase := .ended, reason := bv 8 reason, coll := 0 }) s2

/-- The lead forgets what each member has sent of a collective that is complete. -/
def dropRemotes (s : State) : State :=
  (List.range 8).foldl (fun s m => { s with cn := { s.cn with remotes := s.cn.remotes.eraseP (·.src == m) } }) s

/-- The lead forgets the reports that `gone` selects, of collectives that were aborted, and takes no entries of their
senders until these begin another. -/
def forgetRemotes (gone : Remote → Bool) (s : State) : State :=
  let ms := (s.cn.remotes.filter gone).map (·.src)
  { s with cn := { s.cn with remotes := s.cn.remotes.filter fun r => !gone r
                             early := s.cn.early.filter fun e => !ms.contains e.1
                             deaf := (s.cn.deaf ++ ms).eraseDups } }

/-- Every collective in phase A or B aborts with ABORT_MEMBER (R303). -/
def abortAll (s : State) : State :=
  let cs := s.cn.colls.filter fun c => !c.phaseC
  let s1 := cs.foldl (fun s c => abortColl c rAbortMember s) s
  forgetRemotes (fun _ => true) s1

/-- Members lost (R303). -/
def loseMembers (ms : List Nat) (s : State) : State :=
  let gone := ms.filter fun m => s.cn.present.getLsbD m
  if (s.cn.state = .formed ∨ s.cn.state = .broken) ∧ gone ≠ [] then
    let s1 := abortAll s
    { s1 with cn := { s1.cn with state := .broken, lostSeen := true
                                 present := gone.foldl (fun v m => setBit v m false) s1.cn.present } }
  else s

/-- Members that no direction reaches any more are lost. -/
def checkLoss (s : State) : State :=
  if s.cn.state = .formed ∨ s.cn.state = .broken then
    loseMembers ((others s).filter fun m => !reachable s m) s
  else s

/-- A port loses its link (R291): DOWN, DOWN_SEEN, source 36 + n, its buffer discarded. What that held unacknowledged, and
what waited, takes the other direction, so that collectives in progress complete (13 corners). -/
def portDown (n : Nat) (s : State) : State :=
  let p := getPort s n
  let waiting := p.buffer ++ p.txq
  let s1 := setPort s n { p with state := .down, downSeen := true, retraining := false, buffer := [], txq := []
                                 goodTrain := 0, peerValid := false }
  checkLoss (waiting.foldl (fun s fl => routeFlit (portToward s (n % 2 == 0)) fl s) (raise (36 + n) none s1))

/-- A port whose power goes: one that has been ACTIVE goes DOWN; one that has not raises no source and trains from the
start when power is back (R292). -/
def portLost (n : Nat) (s : State) : State :=
  let p := getPort s n
  if p.state = .off ∨ p.state = .down then s
  else if p.wasActive then portDown n s
  else setPort s n { p with state := .phyTrain, goodTrain := 0, peerOk := false }

/-- RETRAIN_TIMEOUT (R291). -/
def execRetrainTimeout (n : Nat) (s : State) : Res :=
  .next (
    let p := getPort s n
    if n < 4 ∧ p.retraining ∧ (p.state = .phyTrain ∨ p.state = .canalTrain) then portDown n s else s)

/-! ## Exchange of a collective (Table 13-6) -/

/-- Entries as COLL payloads: up to 20 to a flit, with the index of the first. -/
def entryFlits (type : BitVec 8) (ds : List Nat) (i : Nat) (es : List (BitVec 96)) (s : State) : State :=
  (List.range ((es.length + 19) / 20)).foldl (fun s k =>
    sendAll type ds (bv 32 (i + 20 * k)) (((es.drop (20 * k)).take 20).flatMap fun e => natLe 12 e.toNat) s) s

/-- The entries that a COLL payload carries, up to LEN. -/
def flitEntries (fl : Flit) : List (BitVec 96) :=
  (List.range (min fl.len.toNat 240 / 12)).map fun i => bv 96 (leAt fl.payload (12 * i) 12)

def partDef : Nat → Option (BitVec 96) := fun _ => none

/-- The tile partials of entry `i` by tile index: this tile's from its record, the members' from what
they sent. -/
def partialAt (s : State) (c : Coll) (k : WordKind) (i t : Nat) : Option (Acc × Bool) :=
  if t = tileIdx s then some (decodeWord k (recordEntry s c.slot i).toNat, false)
  else if s.cn.present.getLsbD t then
    match s.cn.remotes.find? (·.src == t) with
    | some r => some (decodeWord k ((tblGet partDef r.entries i).getD (emptyWord k)).toNat, false)
    | none => none
  else none

/-- The cross-tile tree (R301). -/
def combine8 (k : WordKind) (g : Nat → Option (Acc × Bool)) : Option (Acc × Bool) :=
  combineNode k (combine4 k (g 0) (g 1) (g 2) (g 3)) (combine4 k (g 4) (g 5) (g 6) (g 7))

/-- The first reports of the members about the lead's current collective. -/
def firstRemotes (s : State) : List Remote :=
  (others s).filterMap fun m => s.cn.remotes.find? (·.src == m)

/-- A tile's collective enters phase C (Table 13-6 step 5): the slot's flag takes a clamp. -/
def enterPhaseC (c : Coll) (sat : Bool) (s : State) : State :=
  let s1 := if sat || c.sat then modSlot c.slot (fun x => { x with sat := true }) s else s
  modOp c.furrow c.op (fun o => { o with coll := 2 })
    (modColl c.op (fun c => { c with phaseC := true }) s1)

/-- A tile's exchange meets an uncorrectable word of its record (R123): its operation stops with HW_ERROR, and the other
members are told that it has left the collective (log 43). -/
def stopColl (c : Coll) (s : State) : State :=
  forgetRemotes (fun r => r.seq == c.seq)
    (abortColl c rHwError (memUncorr false (some (furPlot s c.furrow))
      (sendAll 0x14 (others s) c.seq [bv 8 rAbortMember] s)))

/-- Entries by index, cut into runs of at most 20 with consecutive indexes. -/
def entryRuns : List (Nat × BitVec 96) → List (Nat × List (BitVec 96))
  | [] => []
  | (i, e) :: t =>
    match entryRuns t with
    | (j, es) :: r => if j = i + 1 ∧ es.length < 20 then (i, e :: es) :: r else (i, [e]) :: (j, es) :: r
    | [] => [(i, [e])]

/-- Runs written into a record; false where a word that one merges into cannot be read. -/
def storeRuns (slot : Nat) : List (Nat × List (BitVec 96)) → State → State × Bool
  | [], s => (s, true)
  | x :: t, s =>
    let w := putRecord slot x.1 x.2 s
    if w.2 then (w.1, false) else storeRuns slot t w.1

/-- The entries whose partials have all arrived and that are not combined yet. -/
def readyEntries (s : State) (c : Coll) : List Nat :=
  match firstRemotes s with
  | [] => if c.done = 0 then List.range slotEntries else []
  | r :: rest => (r.entries.map (·.1)).filter fun i => rest.all fun q => (tblGet partDef q.entries i).isSome

/-- Entries that the lead has combined leave the reports. -/
def useParts (is : List Nat) (s : State) : State :=
  { s with cn := { s.cn with remotes := s.cn.remotes.map fun r =>
      if (firstRemotes s).contains r then { r with entries := r.entries.filter fun kv => !is.contains kv.1 } else r } }

/-- The lead combines the entries `is`, sends them, and ends the exchange after the last (R301). -/
def combineEntries (c : Coll) (is : List Nat) (s : State) : State :=
  let k := recordKind s c.slot
  if is.any fun i => readBad false s (recordAddr s c.slot + 64 + 12 * i) 12 then stopColl c s
  else
    let rs := is.map fun i => (combine8 k (partialAt s c k i)).getD (.empty, false)
    let sat := c.sat || rs.any (·.2)
    let c1 := { c with done := c.done + is.length, sat := sat }
    let runs := entryRuns (is.zip (rs.map fun r => bv 96 (encodeWord k r.1)))
    let w := storeRuns c.slot runs (useParts is (modColl c.op (fun _ => c1) s))
    if w.2 = false then stopColl c1 w.1
    else
      let s1 := runs.foldl (fun t x => entryFlits 0x12 (others s) x.1 x.2 t) w.1
      if c1.done = slotEntries then
        dropRemotes (enterPhaseC c1 sat (sendAll 0x13 (others s1) c.seq [bv 8 (b2n sat)] s1))
      else s1

/-- What the lead's current collective can do with what has arrived: compare once every member has begun
(step 1), then combine entries that are complete (step 3). A mismatch aborts it on every member, each by the SEQ that it
began with (R302). -/
def driveLead (s : State) : State :=
  match curColl s with
  | none => s
  | some c =>
    let rs := firstRemotes s
    if rs.length ≠ (others s).length then s
    else if !c.compared ∧ rs.any (fun r => r.seq != c.seq || r.begin != c.begin) then
      forgetRemotes (fun r => rs.contains r)
        (abortColl c rAbortEpoch (rs.foldl (fun t r => sendFlit 0x14 r.src r.seq [bv 8 rAbortEpoch] t) s))
    else
      let c1 := { c with compared := true }
      let s1 := modColl c.op (fun _ => c1) s
      let is := readyEntries s1 c1
      if is = [] then s1 else combineEntries c1 is s1

/-- The exchange as the lead takes it up, once for each collective that may be waiting. -/
def drive (s : State) : State := if isLead s ∧ s.cn.state = .formed then times (s.cn.colls.length + 1) driveLead s else s

/-- Entries go to the first report of a member that has not taken their index yet; none where there is no such report. -/
def addEntries (src i : Nat) (es : List (BitVec 96)) : List Remote → Option (List Remote)
  | [] => none
  | r :: t =>
    if r.src = src ∧ r.got.contains i = false then
      some ({ r with got := i :: r.got
                     entries := ((es.take (slotEntries - i)).zipIdx i).foldl (fun m x => tblSet partDef m x.2 (some x.1)) r.entries } :: t)
    else (addEntries src i es t).map (r :: ·)

/-- Entries of a member reach the lead: kept for a COLL_BEGIN that another port brings later, unless they are what is left of
an aborted collective. -/
def noteData (src i : Nat) (es : List (BitVec 96)) (s : State) : State :=
  match addEntries src i es s.cn.remotes with
  | some rs => { s with cn := { s.cn with remotes := rs } }
  | none => if s.cn.deaf.contains src then s else { s with cn := { s.cn with early := s.cn.early ++ [(src, i, es)] } }

/-- A member's collective begins, as the lead notes it, with the entries that came before. -/
def noteBegin (src : Nat) (fl : Flit) (s : State) : State :=
  let s1 := { s with cn := { s.cn with remotes := s.cn.remotes ++ [{ src := src, seq := fl.arg, begin := padTo 12 fl.payload, got := [], entries := [] }]
                                       early := s.cn.early.filter (·.1 != src), deaf := s.cn.deaf.filter (· != src) } }
  (s.cn.early.filter (·.1 == src)).foldl (fun t e => noteData src e.2.1 e.2.2 t) s1

/-- COLL_BEGIN (R300): the lead notes that a member has begun. -/
def execCollBegin (n : Nat) (fl : Flit) (s : State) : Res :=
  .next (onFlit 0x10 n fl (fun s =>
    if isLead s ∧ s.cn.state = .formed then drive (noteBegin fl.src.toNat fl s) else s) s)

/-- COLL_DATA (R301): partial entries reach the lead, in whatever order the ports bring them. -/
def execCollData (n : Nat) (fl : Flit) (s : State) : Res :=
  .next (onFlit 0x11 n fl (fun s =>
    if isLead s ∧ s.cn.state = .formed then drive (noteData fl.src.toNat fl.arg.toNat (flitEntries fl) s) else s) s)

/-- The collective that combined entries from index `i` on belong to: the first that is not in phase C and has not taken
them. -/
def resultColl (s : State) (i : Nat) : Option Coll := s.cn.colls.find? fun c => !c.phaseC && !c.got.contains i

/-- A member that has stored every result and has been told the end enters phase C. -/
def settleColl (op : Nat) (s : State) : State :=
  match s.cn.colls.find? fun c => c.op == op && !c.phaseC with
  | some c => (match c.endSat with
    | some sat => if slotEntries ≤ c.done then enterPhaseC c sat s else s
    | none => s)
  | none => s

/-- COLL_RESULT (Table 13-6 step 5): combined entries reach a member's record. -/
def execCollResult (n : Nat) (fl : Flit) (s : State) : Res :=
  .next (onFlit 0x12 n fl (fun s =>
    match resultColl s fl.arg.toNat with
    | some c =>
      let es := (flitEntries fl).take (slotEntries - fl.arg.toNat)
      let c1 := { c with done := c.done + es.length, got := fl.arg.toNat :: c.got }
      let w := putRecord c.slot fl.arg.toNat es (modColl c.op (fun _ => c1) s)
      if w.2 then stopColl c1 w.1 else settleColl c.op w.1
    | none => s) s)

/-- COLL_END (Table 13-6 step 5): phase C follows once every result is stored. -/
def execCollEnd (n : Nat) (fl : Flit) (s : State) : Res :=
  .next (onFlit 0x13 n fl (fun s =>
    match curColl s with
    | some c =>
      if c.seq = fl.arg then
        settleColl c.op (modColl c.op (fun c => { c with endSat := some (bitAt (leAt fl.payload 0 1) 0) }) s)
      else s
    | none => s) s)

/-- COLL_ABORT (R302): this tile's collective of that epoch aborts, at once or at its dispatch. The lead forgets what members
sent of it. -/
def execCollAbort (n : Nat) (fl : Flit) (s : State) : Res :=
  .next (onFlit 0x14 n fl (fun s =>
    let reason := bv 8 (leAt fl.payload 0 1)
    let forget := forgetRemotes fun r => r.seq == fl.arg
    match s.cn.colls.find? (fun c => c.seq == fl.arg && leAt c.begin 0 2 == s.cn.gen.toNat) with
    | some c => if c.phaseC then s else drive (forget (abortColl c reason.toNat s))
    | none =>
      if s.cn.collSeq < fl.arg then forget { s with cn := { s.cn with aborted := s.cn.aborted ++ [(fl.arg, reason)] } } else s) s)

/-- A plot reset drops the gang plot's collectives in phase A or B (R302). -/
def dropPlotColls (p : Nat) (s : State) : State :=
  let mine := s.cn.colls.filter fun c => furPlot s c.furrow == p
  mine.foldl (fun s c =>
    let s1 := if c.phaseC then s
      else sendAll 0x14 (others s) c.seq [bv 8 rAbortMember] (if curColl s = some c then dropCollFlits s else s)
    let s2 := { s1 with cn := { s1.cn with colls := s1.cn.colls.filter (· ≠ c) } }
    if c.phaseC then s2 else drive (forgetRemotes (fun r => r.seq == c.seq) s2)) s

/-! ## SLOT_READ -/

/-- A SLOT_READ of this furrow is a collective (R298). -/
def isCollective (s : State) (f : Nat) : Bool := s.cn.form && furPlot s f == s.cn.gangPlot.toNat

/-- The partial of entry `i`, read for phase A: an uncorrectable entry is NaN and ends in HW_ERROR (R92). -/
def partialEntry (f id : Nat) (d : SlotDesc) (i : Nat) (s : State) : State × (Acc × Bool) :=
  let read := fun (s : State) (n : Nat) =>
    let x := getSlot s n
    (if x.bad.contains i then flagHw f id (entryUncorr n i (furPlot s f) s) else s, entryAcc x i)
  if d.partners = 0 then
    let r := read s d.slot
    (r.1, (r.2, false))
  else
    let step := fun (a : State × List (Option (Acc × Bool))) (q : Nat) =>
      if bitAt d.partners q then
        let r := read a.1 (4 * q + d.slot % 4)
        (r.1, a.2 ++ [some (r.2, false)])
      else (a.1, a.2 ++ [none])
    let r := [0, 1, 2, 3].foldl step (s, [])
    let g := fun q => (r.2.getD q none)
    (r.1, (combine4 (getSlot s d.slot).word (g 0) (g 1) (g 2) (g 3)).getD (.empty, false))

/-- Phase A (R300): the tile partial in the slot's record, then COLL_BEGIN, then its entries. -/
def phaseA (f : Nat) (o : Op) (seq : BitVec 32) (s : State) : State :=
  let d := slotDesc o.bytes
  let b := slotBegin f o (d.slot :: partnerSlots d).eraseDups s
  if b.2 = false then endOp f o.id rHwError b.1
  else
    let x := getSlot b.1 d.slot
    let r := (List.range slotEntries).foldl (fun (a : State × List (BitVec 96) × Bool) i =>
      let e := partialEntry f o.id d i a.1
      (e.1, bv 96 (encodeWord x.word e.2.1) :: a.2.1, a.2.2 || e.2.2)) (b.1, [], false)
    let es := r.2.1.reverse
    let s1 := (putRecord d.slot 0 es (putMem false r.1 (recordAddr r.1 d.slot) (imageHeader x))).1
    let s2 := { s1 with hg := { s1.hg with ctxValid := setBit s1.hg.ctxValid d.slot true
                                           ctxLost := setBit s1.hg.ctxLost d.slot false } }
    let begin := natLe 2 s.cn.gen.toNat ++ natLe 1 (wordCode x.word) ++ natLe 1 (2 ^ x.lanes.toNat)
      ++ natLe 2 x.rows ++ natLe 2 0 ++ natLe 4 x.cols
    let c : Coll := { furrow := f, op := o.id, slot := d.slot, seq := seq, begin := begin, done := 0, got := [], endSat := none
                      sat := r.2.2, compared := false, phaseC := false }
    let s3 := modOp f o.id (fun o => { o with phase := .preempted, coll := 1 })
      { s2 with cn := { s2.cn with colls := s2.cn.colls ++ [c] } }
    let s4 := yieldSlice ((opDomain s o).getD 0) f s3
    if isLead s4 then drive s4
    else entryFlits 0x11 [leadOf s4] 0 es (sendFlit 0x10 (leadOf s4) seq begin s4)

/-- A collective is dispatched (R299): it takes the next SEQ. -/
def collectiveRun (f : Nat) (o : Op) (s : State) : State :=
  let seq := s.cn.collSeq + 1
  let s1 := { s with cn := { s.cn with collSeq := seq } }
  if s.cn.state ≠ .formed then endOp f o.id rAbortMember s1
  else match s.cn.aborted.find? (·.1 == seq) with
    | some a => endOp f o.id a.2.toNat { s1 with cn := { s1.cn with aborted := s1.cn.aborted.filter (·.1 != seq) } }
    | none => phaseA f o seq s1

/-- SLOT_READ (R82, R83; R298 in a gang). -/
def execSlotRead (f : Nat) (s : State) : Res :=
  .next (slotMove f 1 slotReadCheck (fun f o s => if isCollective s f then collectiveRun f o s else slotReadRun f o s) s)

/-- The read-out of entry `i` counts for the quarters of the slot, or of its partners, as a slot read counts it (R383,
R298). -/
def countEntry (d : SlotDesc) (x : Slot) (i : Nat) (s : State) : State :=
  let ns := if d.partners = 0 then [d.slot] else partnerSlots d
  { s with ap := { s.ap with readout := ns.foldl (fun t n => tblAdd t (entryQuarter s.he.modeCur n x i) 1) s.ap.readout } }

/-- The content that phase C converts at (m, n), from the record (R300). -/
def recordContent (d : SlotDesc) (x : Slot) (m : Nat) (s : State) (n : Nat) : State × Acc :=
  (countEntry d x (m * x.cols + n) s, decodeWord x.word (recordEntry s d.slot (m * x.cols + n)).toNat)

/-- Phase C runs whole; the record is then invalid (R300). -/
def phaseCRun (c : Coll) (o : Op) (s : State) : State :=
  let d := slotDesc o.bytes
  let a := recordAddr s c.slot
  let s0 := { s with cn := { s.cn with colls := s.cn.colls.filter (· ≠ c) } }
  let close := dropRecord c.slot
  if readBad false s a imageSize then
    close (endOp c.furrow o.id rHwError (memUncorr false (some (furPlot s c.furrow)) s0))
  else
    let x := (imageShape (readMem false s a 64)).getD {}
    let ctx : ReadCtx := { f := c.furrow, id := o.id, slot := d.slot, r := d.out, epi := 0xFF, quad := s.he.modeCur, cols := x.cols, binds := [] }
    let s1 := modOp c.furrow o.id (fun o => { o with phase := .running, coll := 0 }) s0
    let r := readRows ctx (recordContent d x) (List.range d.out.cols) (List.range d.out.rows)
      (initStats (furPlot s c.furrow) d.out s1)
    close (slotEnd c.furrow o.id r.2 r.1)

/-- COLLECTIVE_PHASE_C (R300): the furrow's turn in its domain has come again. -/
def execCollectivePhaseC (f : Nat) (s : State) : Res :=
  .next (
    match s.cn.colls.find? (fun c => c.furrow == f && c.phaseC) with
    | none => s
    | some c =>
      match findOp s f c.op with
      | none => s
      | some o =>
        let d := slotDomain s c.slot
        if readyOp s d f = some o ∧ awake s (hearthNeeds s c.slot) then
          match takeTurn d f s with
          | some s1 => phaseCRun c o s1
          | none => s
        else ignite (hearthNeeds s c.slot) s)

/-! ## Formation (R293 to R296) -/

/-- The gang record, and CONFIG_HASH over it (R293). -/
def gangRecord (s : State) : List Byte :=
  natLe 1 s.cn.members.toNat ++ natLe 1 s.cn.gangPlot.toNat ++ natLe 1 (b2n s.cn.pair2) ++ natLe 1 0
    ++ natLe 4 s.cn.gangKey.toNat ++ List.replicate 24 0
def configHash (s : State) : BitVec 32 := crc32c (gangRecord s)

/-- Identity of the fixed conversion tables and of the built-in set (HE_CAP, FL_TSET). -/
def ctabId : Nat := 1
def builtinSet : Nat := 1

/-- The formation values and GEN as a FORM payload (R294). The manual prints no layout for them; log 40. -/
def formPayload (s : State) : List Byte :=
  natLe 4 (configHash s).toNat ++ natLe 4 (leAt s.ch.image 8 4) ++ natLe 2 s.ch.mbVer.toNat ++ natLe 1 builtinSet
    ++ natLe 1 ctabId ++ natLe 4 s.fl.loadedCrc.toNat ++ natLe 1 (tileIdx s) ++ natLe 1 0 ++ natLe 2 s.cn.gen.toNat

/-- The mismatch mask of this tile against the lead's FORM (Table 13-4). -/
def formMask (s : State) (fl : Flit) : Nat :=
  let mine := formPayload s
  let same := fun off n => leAt mine off n == leAt fl.payload off n
  let idOk := s.cn.members.getLsbD (tileIdx s) && fl.dst.toNat == tileIdx s && leAt fl.payload 16 1 != tileIdx s
  b2n (!same 0 4) + 2 * b2n (!(same 4 4 && same 8 2)) + 4 * b2n (!(same 10 1 && same 11 1 && same 12 4))
    + 8 * b2n (!idOk)

/-- The members beside this tile. -/
def peers (s : State) : List Nat := (bitList s.cn.members.toNat 8).filter (· ≠ tileIdx s)

/-- A skew as it is stored (R296): SKEW_FLAG and source 41 above 2 µs in magnitude. -/
def noteSkew (m : Nat) (off : Int) (s : State) : State :=
  let s1 := { s with cn := { s.cn with skew := tblSet count64Def s.cn.skew m (bv 64 (ofSigned 64 off)) } }
  if 2000 < off.natAbs then raise 41 none { s1 with cn := { s1.cn with skewFlag := true } } else s1

/-- The gang is FORMED (Table 13-5 step 5). -/
def becomeFormed (gen : BitVec 16) (s : State) : State :=
  { s with cn := { s.cn with state := .formed, gen := gen, collSeq := 0, present := s.cn.members, mismatch := 0, aborted := []
                             remotes := [], early := [], deaf := [] } }

/-- Step 3 is done, so MEASURE clears (R296). -/
def measured (s : State) : State := { s with cn := { s.cn with measure := false } }

/-- The gang is refused on this tile (Table 13-5 step 5). -/
def becomeAlone (mask : Nat) (s : State) : State :=
  raise 40 none { s with cn := { s.cn with state := .alone, refused := true, mismatch := bv 8 mask, exchange := none } }

/-- GEN of the new gang: one more than the largest among the members. -/
def newGen (s : State) : BitVec 16 :=
  bv 16 (1 + s.cn.replies.foldl (fun g r => max g r.2.2) s.cn.gen.toNat)

/-- The lead's time exchanges are over: the gang forms, or MEASURE is done. -/
def exchangesDone (s : State) : State :=
  let skews := (List.range 8).flatMap fun m => natLe 8 (tblGet count64Def s.cn.skew m).toNat
  let s1 := { s with cn := { s.cn with exchange := none, measure := false } }
  if s.cn.state = .formed then sendAll 0x05 (others s) (s.cn.gen.setWidth 32) skews s1
  else
    let g := newGen s
    becomeFormed g (sendAll 0x05 (peers s) (g.setWidth 32) skews s1)

/-- One TIME_REQ to a member. -/
def timeReqTo (m : Nat) (rest : List Nat) (count : Nat) (best : Option (Nat × Int)) (s : State) : State :=
  let s1 := { s with cn := { s.cn with exchange := some { member := m, rest := rest, count := count, sentAt := s.pi.time, best := best } } }
  sendFlit 0x07 m (bv 32 count) (natLe 8 s.pi.time.toNat) s1

/-- Step 3 of Table 13-5 with members one after another. -/
def startExchanges (ms : List Nat) (s : State) : State :=
  match ms with
  | [] => exchangesDone s
  | m :: rest => timeReqTo m rest 0 none s

/-- Formation starts on the lead once its FORM is 1 and every member is reachable over ACTIVE ports (R295), of which this
tile sees its own (log 42). -/
def tryForm (s : State) : State :=
  if s.cn.form ∧ isLead s ∧ s.cn.state = .idle ∧ s.cn.members.getLsbD (tileIdx s) ∧ (peers s = [] ∨ linked s) then
    let s1 := { s with cn := { s.cn with state := .forming, replies := [], exchange := none } }
    if peers s = [] then exchangesDone s1 else sendAll 0x03 (peers s) 0 (formPayload s1) s1
  else s

/-- A member answers the lead's FORM (Table 13-5 step 2). -/
def answerForm (n : Nat) (fl : Flit) (s : State) : State :=
  let mask := formMask s fl
  let s1 := { s with cn := { s.cn with state := .forming, heldForm := none, heldPort := n, mismatch := bv 8 mask } }
  sendFlit 0x04 fl.src.toNat (bv 32 mask) (formPayload s1) s1

/-- FORM (R295): answered, or held until this tile's own FORM is written. -/
def execForm (n : Nat) (fl : Flit) (s : State) : Res :=
  .next (onFlit 0x03 n fl (fun s =>
    if s.cn.form ∧ (s.cn.state = .idle ∨ s.cn.state = .forming) then answerForm n fl s
    else { s with cn := { s.cn with heldForm := some fl, heldPort := n } }) s)

/-- FORM_REPLY (R295): after the last reply the lead measures time, or refuses. -/
def execFormReply (n : Nat) (fl : Flit) (s : State) : Res :=
  .next (onFlit 0x04 n fl (fun s =>
    if isLead s ∧ s.cn.state = .forming ∧ s.cn.exchange = none ∧ (peers s).contains fl.src.toNat then
      let rs := s.cn.replies.filter (fun r => r.1 != fl.src.toNat) ++ [(fl.src.toNat, fl.arg.toNat % 256, leAt fl.payload 18 2)]
      let s1 := { s with cn := { s.cn with replies := rs } }
      if rs.length < (peers s).length then s1
      else if rs.all (fun r => r.2.1 == 0) then startExchanges (peers s) s1
      else
        let masks := (List.range 8).flatMap fun m => natLe 1 (((rs.find? (·.1 == m)).map (·.2.1)).getD 0)
        becomeAlone 0 (sendAll 0x06 (peers s) 0 masks s1)
    else s) s)

/-- FORM_DONE (R295, R296): the member is FORMED; in a formed gang it brings new skews. -/
def execFormDone (n : Nat) (fl : Flit) (s : State) : Res :=
  .next (onFlit 0x05 n fl (fun s =>
    let off := toSigned 64 (leAt fl.payload (8 * tileIdx s) 8)
    let gen : BitVec 16 := fl.arg.setWidth 16
    if isLead s then s
    else if s.cn.state = .forming then noteSkew (tileIdx s) off (measured (becomeFormed gen s))
    else if s.cn.state = .formed ∧ s.cn.gen = gen then noteSkew (tileIdx s) off (measured s)
    else s) s)

/-- FORM_REFUSE (R295). -/
def execFormRefuse (n : Nat) (fl : Flit) (s : State) : Res :=
  .next (onFlit 0x06 n fl (fun s =>
    if isLead s ∨ s.cn.state ≠ .forming then s else becomeAlone (leAt fl.payload (tileIdx s) 1) s) s)

/-- TIME_REQ (R296): answered with this tile's time. -/
def execTimeReq (n : Nat) (fl : Flit) (s : State) : Res :=
  .next (onFlit 0x07 n fl (fun s => sendFlit 0x08 fl.src.toNat fl.arg (natLe 8 s.pi.time.toNat) s) s)

/-- TIME_RESP (R296): the offset of the exchange with the smallest round trip of 16 is kept. -/
def execTimeResp (n : Nat) (fl : Flit) (s : State) : Res :=
  .next (onFlit 0x08 n fl (fun s =>
    match s.cn.exchange with
    | none => s
    | some x =>
      if x.member ≠ fl.src.toNat ∨ x.count ≠ fl.arg.toNat then s
      else
        let rtt := (s.pi.time - x.sentAt).toNat
        let off : Int := toSigned 64 (leAt fl.payload 0 8 + 2 ^ 64 - (x.sentAt.toNat + rtt / 2) % 2 ^ 64)
        let best := match x.best with
          | some b => if rtt < b.1 then (rtt, off) else b
          | none => (rtt, off)
        if x.count < 15 then timeReqTo x.member x.rest (x.count + 1) (some best) s
        else startExchanges x.rest (noteSkew x.member best.2 s)) s)

/-! ## Training (R292) -/

/-- A TRAIN flit that keeps the rules of R292 on port `n`. -/
def trainOk (s : State) (n : Nat) (fl : Flit) : Bool :=
  let ms := bitList s.cn.members.toNat 8
  let want := if n % 2 = 0 then nextMember ms (tileIdx s) else prevMember ms (tileIdx s)
  leAt fl.payload 2 1 == 1 && leAt fl.payload 8 4 == s.cn.gangKey.toNat && leAt fl.payload 0 1 == want
    && !ms.isEmpty

/-- What a replay buffer keeps at the end of a retrain, when the peer expects SEQ `e` next: the flits that it does not
have, numbered on from `e` (R291). -/
def keptFlits (e : BitVec 12) (buffer : List Flit) : List Flit :=
  let gone := match buffer with
    | [] => 0
    | b :: _ => (e - b.seq).toNat
  (if gone ≤ buffer.length then buffer.drop gone else buffer).mapIdx fun i fl => { fl with seq := e + bv 12 i }

/-- The port becomes ACTIVE: sequence numbers start from the peer's RX_EXPECT, and flits that it does not have yet are
sent again (R291, Table 13-3). -/
def portActive (n : Nat) (fl : Flit) (s : State) : State :=
  let e : BitVec 12 := bv 12 (leAt fl.payload 4 2)
  let s1 := modPort n (fun p =>
    let keep := keptFlits e p.buffer
    { p with state := .active, wasActive := true, retraining := false, stuck := 0, nakSent := false
             peerId := bv 3 (leAt fl.payload 0 1), peerValid := true, buffer := keep, txSeq := e + bv 12 keep.length }) s
  tryForm (pump n (resend n s1))

/-- TRAIN (R292). -/
def execTrain (n : Nat) (fl : Flit) (s : State) : Res :=
  .next (
    if n ≥ 4 ∨ fl.type ≠ 0x02 ∨ (getPort s n).state ≠ .canalTrain ∨ awake s [dCanal n] = false then s
    else if fl.crcOk = false then crcError n s
    else if trainOk s n fl = false then modPort n (fun p => { p with wrongPeer := true, goodTrain := 0 }) s
    else
      let s1 := modPort n (fun p => { p with goodTrain := p.goodTrain + 1, peerOk := p.peerOk || leAt fl.payload 3 1 == 1 }) s
      let s2 := emit (.flit n (trainFlit s1 n)) s1
      if 8 ≤ (getPort s2 n).goodTrain ∧ (getPort s2 n).peerOk then portActive n fl s2 else s2)

/-! ## Leaving (R303) -/

/-- LEAVE goes to every other member that takes part. -/
def sendLeave (s : State) : State :=
  sendAll 0x20 (if s.cn.state = .forming then peers s else others s) 0 [] s

/-- FORM becomes 0 (R295, R303): a formation is cancelled, or the gang is left. -/
def clearForm (s : State) : State :=
  let s1 := { s with cn := { s.cn with form := false, exchange := none, measure := false } }
  if s.cn.state = .forming then
    let s2 := sendLeave s1
    { s2 with cn := { s2.cn with state := .idle, replies := [] } }
  else if s.cn.state = .formed ∨ s.cn.state = .broken then loseMembers [tileIdx s] (sendLeave s1)
  else s1

/-- FORM becomes 1 (R295, R304). -/
def setForm (s : State) : State :=
  let s1 := { s with cn := { s.cn with form := true, state := .idle, lead := bv 3 (leadOf s), replies := [] } }
  match s.cn.heldForm with
  | some fl => if isLead s1 then tryForm s1 else answerForm s.cn.heldPort fl s1
  | none => tryForm s1

/-- A write of CN_GANG_CTL.FORM. -/
def writeForm (v : Bool) (s : State) : State :=
  if v = s.cn.form then s else if v then setForm s else clearForm s

/-- A write of 1 to MEASURE (R296): the bit is set until step 3 of a formation is done; on the lead of a FORMED gang that
step starts. -/
def writeMeasure (s : State) : State :=
  let s1 := { s with cn := { s.cn with measure := true } }
  if isLead s ∧ s.cn.state = .formed ∧ s.cn.exchange = none then startExchanges (others s) s1 else s1

/-- LEAVE (R303): the sender is lost; from the lead of a formation it cancels that formation (R295). -/
def execLeave (n : Nat) (fl : Flit) (s : State) : Res :=
  .next (onFlit 0x20 n fl (fun s =>
    let m := fl.src.toNat
    let s1 := if (s.cn.heldForm.map (·.src.toNat)) = some m then { s with cn := { s.cn with heldForm := none } } else s
    if s.cn.state = .forming then
      if isLead s then { s1 with cn := { s1.cn with replies := s1.cn.replies.filter (·.1 != m) } }
      else if m = leadOf s then { s1 with cn := { s1.cn with state := .idle } } else s1
    else loseMembers [m] s1) s)

/-! ## Port control (R292, R291, R208) -/

/-- A write of 1 to CN_PORT_CTL.EN. Port 3 owns the pins of the trace port (R208). -/
def enablePort (n : Nat) (s : State) : State :=
  if canalIn s n = false then s
  else
    let p := getPort s n
    let s1 := setPort s n { p with en := true }
    let s2 := if n = 3 ∧ s1.pins.traceEn then conflict 0 { s1 with pins := { s1.pins with traceEn := false } } else s1
    if p.en = false ∨ p.state = .down then startTraining n s2 else s2

/-- A write of 0 to CN_PORT_CTL.EN. -/
def disablePort (n : Nat) (s : State) : State :=
  let p := getPort s n
  checkLoss (setPort s n { p with en := false, state := .off, width8 := false, peerValid := false, txq := [], buffer := []
                                  txSeq := 0, rxExpect := 0, nakSent := false, stuck := 0, goodTrain := 0, peerOk := false
                                  wasActive := false, retraining := false, retrain := false })

def writeEn (n : Nat) (v : Bool) (s : State) : State := if v then enablePort n s else if (getPort s n).en then disablePort n s else s

/-- A write of 1 to RETRAIN (R291): the bit is set until training starts, which on an enabled port is at once. -/
def writeRetrain (n : Nat) (s : State) : State :=
  if (getPort s n).en then startTraining n s else modPort n (fun p => { p with retrain := true }) s

/-- TRACE_PORT_ENABLE (R208, R209): the JTAG controller's enable of the debug trace port. -/
def execTracePortEnable (v : Bool) (s : State) : Res :=
  .next (if s.pi.pwrok = false then s else if v ∧ (getPort s 3).en then conflict 0 s else { s with pins := { s.pins with traceEn := v } })

end Sys2Proof.Machine
end

