-- ==== Sys2Proof/Machine/Plots.lean ====
section
/-!
DEFINITION. Notices (11_chimney_firmware R252), and plots: creation, assignment, windows, reset,
quarantine, teardown (09_plots R193 to R207). Commands PLOT_CREATE, PLOT_ASSIGN, PLOT_RESET,
PLOT_QUARANTINE, PLOT_TEARDOWN, WINDOW_MAP, STALL_SCAN.
-/
namespace Sys2Proof.Machine

/-! ## Notices (R252) -/

/-- The 64 bytes of a notice: the header of Table 11-7 and its body. -/
def noticeBytes (s : State) (type : Nat) (seq : BitVec 16) (body : List Byte) : List Byte :=
  padTo 64 (natLe 2 type ++ natLe 2 s.ch.mbVer.toNat ++ natLe 2 body.length ++ natLe 2 seq.toNat
    ++ List.replicate 8 0 ++ body)

def ringDef : Nat → List Byte := fun _ => []

/-- A notice is written into a plot's ring, or counted LOST when the ring is full. -/
def postNow (p type : Nat) (body : List Byte) (s : State) : State :=
  let m := (getPlot s p).mail
  if m.ntcTail - m.ntcHead = 32 then modMail p (fun m => { m with ntcLost := incHold m.ntcLost }) s
  else
    msix p (mailVector p 1) (modMail p (fun m =>
      { m with ntcRing := tblSet ringDef m.ntcRing (m.ntcTail.toNat % 32) (noticeBytes s type m.ntcTail body)
               ntcTail := m.ntcTail + 1 }) s)

/-- Component `c` posts a notice, now or once it runs again (R246). -/
def postNotice (c p type : Nat) (body : List Byte) (s : State) : State :=
  if compRuns s c then postNow p type body s
  else { s with ch := { s.ch with noticeDue := s.ch.noticeDue ++ [⟨c, p, type, body⟩] } }

/-! ## Plot reset (Table 9-5) -/

/-- An operation that an engine runs, or that has started on one: a GEMM, a FLUE, a MOVE. -/
def engineOp (o : Op) : Bool :=
  (o.opcode == 0x08 || o.opcode == 0x09 || o.opcode == 0x0A) && o.inFlight

/-- Steps 1 to 3: the Scuttle drops the plot's lines; operations on engines are dropped, neither completing
nor retiring, and free their engines, channels and slices. -/
def stopPlot (p : Nat) (s : State) : State :=
  let s0 := dropPlotColls p { s with sc := { s.sc with lines := s.sc.lines.filter (·.plot ≠ p) } }
  let fs := plotFurs s0 p
  let mine := fun (h : Option Nat) => match h with | some f => fs.contains f | none => false
  let s1 := (List.range 5).foldl (fun t d =>
    match runningOp s0 d with
    | some (f, o) => if fs.contains f then idleFbs (slotFbs s0 (o.slot?.getD 0)) t else t
    | none => t) s0
  let s2 := (List.range 7).foldl (fun t d => modDom d (fun x =>
    let y := if mine x.incoming then { x with incoming := none } else x
    if mine y.holder then { y with holder := y.incoming, incoming := none } else y) t) s1
  let s3 := { s2 with sl := { s2.sl with channels := s2.sl.channels.filter fun kv => !(kv.2.busy && kv.2.plot.toNat == p) } }
  fs.foldl (fun t f => drainCheck f (modFur f (fun x => { x with queue := x.queue.filter fun o => !engineOp o }) t)) s3

/-- The record of a slot, zeroed and invalid. -/
def zeroRecord (n : Nat) (s : State) : State := dropRecord n (zeroMem false s (recordAddr s n) (2 ^ 21))

/-- Step 4: the plot's slots are as after LEASE, without a holder; their records are zeroed and invalid. -/
def resetSlots (p : Nat) (s : State) : State :=
  (bitList (getPlot s p).slotMask.toNat 16).foldl (fun t n =>
    zeroRecord n (modSlot n (fun x => { zeroSlot s.he.modeCur x with lease := none }) t)) s

/-- A furrow as step 5 leaves it: HEAD, LAST and the ring configuration stay (R172 gives the tickets). -/
def resetFurrow (x : Furrow) : Furrow :=
  { x with state := .unarmed, arm := false, draining := false, haltReason := 0, parkedOn := none, queue := []
           epoch := x.epoch + 1, doneTicket := BitVec.allOnes 48, launchTicket := BitVec.allOnes 48
           drops := 0, fail := false, failTicket := 0, failReason := 0, sat := false, satTicket := 0 }

/-- Every furrow of a plot changed. -/
def modPlotFurs (p : Nat) (g : Furrow → Furrow) (s : State) : State :=
  let x := getPlot s p
  (List.range x.furCount.toNat).foldl (fun t i => modFur (x.furFirst.toNat + i) g t) s

/-- A plot's events from index `e` on back at 0. -/
def clearEvents (p e : Nat) (s : State) : State :=
  { s with hg := { s.hg with events := tblClear (1024 * p + e) (1024 * p + 1024) s.hg.events } }

/-- Step 6: the mailbox is emptied, lists and state pages go, residency is released. -/
def clearServices (p : Nat) (s : State) : State :=
  let s1 := modPlot p (fun x => { x with mail := {}, resLevel := 0, resNotice := false }) s
  { s1 with ch := { s1.ch with
      lists := s1.ch.lists.filter fun kv => match kv.2 with | some l => l.plot ≠ p | none => false
      pages := s1.ch.pages.filter fun kv => match kv.2 with | some g => g.plot ≠ p | none => false
      noticeDue := s1.ch.noticeDue.filter (·.plot ≠ p) } }

/-- Steps 1 to 6 of Table 9-5, as one change. -/
def clearPlot (p : Nat) (s : State) : State :=
  let s1 := modPlotFurs p resetFurrow (resetSlots p (stopPlot p s))
  clearServices p (modPlot p (fun x => { x with epoch := x.epoch + 1 }) (clearEvents p 0 s1))

/-- A Function Level Reset that was held completes. -/
def releaseFlr (p : Nat) (s : State) : State :=
  if (getPlot s p).flrHeld then emit (.flrDone p) (modPlot p (fun x => { x with flrHeld := false }) s) else s

/-- A whole plot reset (R203, R204). HEARTH_IDLE may come with it, for an engine-mode change under way (09 corners). While
a warm reset runs, which tears every plot down, it joins that (R334). -/
def resetPlot (p : Nat) (s : State) : State :=
  if s.pi.warmDue then s
  else continueMode (releaseFlr p (modPlot p (fun x => { x with state := .live, resets := incHold x.resets }) (clearPlot p s)))

/-- QUARANTINE (R206). -/
def quarantine (p : Nat) (hw : Bool) (s : State) : State :=
  continueMode (modPlot p (fun x => { x with state := .quarantined, quarHw := x.quarHw || hw }) (stopPlot p s))

/-! ## Furrows joining and leaving (R196) -/

/-- A furrow that joins plot `p` as its local furrow `i`: its configuration 0 and a zero completion entry at
the plot's present epoch. -/
def joinFurrow (p i : Nat) (epoch : BitVec 16) (x : Furrow) : Furrow :=
  { x with base := 0, sizeLog2 := 0, kind := 0, arm := false, plot := bv 6 p, localIdx := bv 10 i, alloc := true
           head := 0, tail := 0, last := 0, state := .unarmed, draining := false, haltReason := 0
           doneTicket := 0, launchTicket := 0, epoch := epoch, drops := 0, failTicket := 0, failReason := 0
           fail := false, satTicket := 0, sat := false, queue := [], parkedOn := none }

/-- A furrow that leaves its plot. -/
def leaveFurrow (x : Furrow) : Furrow := { x with alloc := false, plot := 0, localIdx := 0 }

/-- The leases that furrows `lo` to `hi - 1`, by global index, hold end, as at a furrow's teardown (R80). -/
def endLeases (lo hi : Nat) (s : State) : State :=
  (List.range 16).foldl (fun t n =>
    match (getSlot t n).lease with
    | some g => if lo ≤ g ∧ g < hi then endLease n t else t
    | none => t) s

/-- Local furrows `lo` to `hi - 1` of a plot's range leave it. -/
def leaveRange (p lo hi : Nat) (s : State) : State :=
  let a := (getPlot s p).furFirst.toNat
  (List.range (hi - lo)).foldl (fun t i => modFur (a + lo + i) leaveFurrow t) (endLeases (a + lo) (a + hi) s)

/-- Local furrows `lo` to `hi - 1` of a plot's range join it. -/
def joinRange (p lo hi : Nat) (s : State) : State :=
  let x := getPlot s p
  (List.range (hi - lo)).foldl (fun t i => modFur (x.furFirst.toNat + lo + i) (joinFurrow p (lo + i) x.epoch) t) s

/-- TEARDOWN of a LIVE or QUARANTINED plot (R207). Its range, event count and channel limit read 0 as before a CREATE
(log 100). -/
def teardown (p : Nat) (s : State) : State :=
  let s1 := clearPlot p s
  let s2 := leaveRange p 0 (getPlot s1 p).furCount.toNat s1
  continueMode (releaseFlr p (modPlot p (fun x =>
    { x with slotMask := 0, furFirst := 0, furCount := 0, evtCount := 0, sluiceMax := 0, state := .none
             basinSize := 0, resSize := 0, hbmSize := 0 }) s2))

/-! ## PLOT_CTL (R195) -/

/-- A PLOT_CTL with operation `op`; one whose OP is none of the five is rejected by whichever command meets
it. -/
def plotCommand (f op : Nat) (check : State → PlotCtl → Bool) (act : PlotCtl → State → State) (s : State) : State :=
  let known := fun (c : PlotCtl) => decide (1 ≤ c.op) && decide (c.op ≤ 5)
  match beginDispatch f (fun o => o.opcode == 0x11 && ((plotCtl o.bytes).op == op || !known (plotCtl o.bytes)))
      [dFront] s with
  | .error s1 => s1
  | .ok (o, s1) =>
    let c := plotCtl o.bytes
    if known c && check s1 c then completeOp f o.id 0 false (act c s1) else reject f o rFieldRange s1

/-- The furrow range of a PLOT_CTL shares a furrow with another plot's. -/
def rangeTaken (s : State) (c : PlotCtl) : Bool :=
  s.hg.plots.any fun kv => kv.1 != c.plot
    && overlaps kv.2.furFirst.toNat kv.2.furCount.toNat c.furFirst c.furCount

/-- The slots named belong to no other plot and to no Firebox or quarter out of service (R196, R345). -/
def slotsFree (s : State) (c : PlotCtl) : Bool :=
  (s.hg.plots.all fun kv => kv.1 == c.plot || kv.2.slotMask &&& c.slotMask == 0)
    && (bitList c.slotMask.toNat 16).all fun n => fbIn s (n / 4)

/-- The range rules of R196. -/
def rangesOk (s : State) (c : PlotCtl) : Bool :=
  decide (c.furFirst ≤ 16383) && decide (c.furCount ≤ 1024) && decide (c.furFirst + c.furCount ≤ 16384)
    && decide (c.evtCount ≤ 1024) && c.evtCount % 64 == 0
    && decide (1 ≤ c.sluiceMax) && decide (c.sluiceMax ≤ 32)
    && !rangeTaken s c && slotsFree s c

/-- The plot's configuration takes the body's values. -/
def setConfig (c : PlotCtl) (x : Plot) : Plot :=
  { x with slotMask := c.slotMask, furFirst := bv 14 c.furFirst, furCount := bv 11 c.furCount
           evtCount := bv 11 c.evtCount, sluiceMax := bv 6 c.sluiceMax }

/-- Slots newly allocated start as after LEASE, without a holder. -/
def freshSlots (mask : BitVec 16) (s : State) : State :=
  (bitList mask.toNat 16).foldl (fun t n => modSlot n (fun x => { zeroSlot s.he.modeCur x with lease := none }) t) s

/-- CREATE acts (R196). -/
def createAct (c : PlotCtl) (s : State) : State :=
  let s1 := modPlot c.plot (fun x => { setConfig c x with epoch := 0, mail := {}, state := .live }) s
  freshSlots c.slotMask (joinRange c.plot 0 c.furCount (clearEvents c.plot 0 s1))

/-- PLOT_CREATE (R196). -/
def execPlotCreate (f : Nat) (s : State) : Res :=
  .next (plotCommand f 1 (fun s c => c.plot != 0 && (getPlot s c.plot).state == .none && rangesOk s c) createAct s)

/-- Furrows of a plot that are not UNARMED, by local index. -/
def armedLocals (s : State) (p : Nat) : List Nat :=
  (List.range (getPlot s p).furCount.toNat).filter fun i => (getFur s ((getPlot s p).furFirst.toNat + i)).state != .unarmed

/-- The rules of R196 for a plot that exists; one in NONE takes no ASSIGN (log 45). -/
def assignCheck (s : State) (c : PlotCtl) : Bool :=
  let x := getPlot s c.plot
  let armed := armedLocals s c.plot
  let moved := c.furFirst != x.furFirst.toNat
  x.state != .none && rangesOk s c
    && armed.all (fun i => decide (i < c.furCount))
    && (bitList (x.slotMask &&& ~~~c.slotMask).toNat 16).all (fun n => (getSlot s n).lease.isNone)
    && (!(moved || c.evtCount != x.evtCount.toNat) || armed.isEmpty)

/-- ASSIGN acts (R196): a changed FUR_FIRST lets the whole old range leave and the new one join. -/
def assignAct (c : PlotCtl) (s : State) : State :=
  let x := getPlot s c.plot
  let old := x.furCount.toNat
  let keep := if c.furFirst = x.furFirst.toNat then min old c.furCount else 0
  let s1 := clearEvents c.plot c.evtCount (leaveRange c.plot keep old s)
  let s2 := modPlot c.plot (setConfig c) s1
  freshSlots (c.slotMask &&& ~~~x.slotMask) (joinRange c.plot keep c.furCount s2)

/-- PLOT_ASSIGN (R196). -/
def execPlotAssign (f : Nat) (s : State) : Res := .next (plotCommand f 4 assignCheck assignAct s)

/-- PLOT_RESET (R203). A plot in NONE has nothing to reset. -/
def execPlotReset (f : Nat) (s : State) : Res :=
  .next (plotCommand f 2 (fun _ c => c.plot != 0)
    (fun c s => if (getPlot s c.plot).state = .none then s else resetPlot c.plot s) s)

/-- PLOT_QUARANTINE (R206). -/
def execPlotQuarantine (f : Nat) (s : State) : Res :=
  .next (plotCommand f 5 (fun _ c => c.plot != 0)
    (fun c s => if (getPlot s c.plot).state = .live then quarantine c.plot false s else s) s)

/-- PLOT_TEARDOWN (R207). -/
def execPlotTeardown (f : Nat) (s : State) : Res :=
  .next (plotCommand f 3 (fun _ c => c.plot != 0)
    (fun c s => if (getPlot s c.plot).state = .none then s else teardown c.plot s) s)

/-! ## WINDOW_MAP (R198 to R200) -/

/-- A window would move its base or shrink. -/
def windowMoves (ob os nb ns : Nat) : Bool := (os != 0 && ob != nb) || decide (ns < os)

/-- The conditions of R199. -/
def windowCheck (s : State) (w : WindowMapDesc) : Bool :=
  let x := getPlot s w.plot
  [w.basinBase, w.basinSize, w.resBase, w.resSize, w.hbmBase, w.hbmSize].all (fun v => decide (v ≤ 1023))
    && (w.basinSize == 0 || decide ((w.basinBase + w.basinSize) * 2 ^ 20 ≤ ctxBase s))
    && (w.hbmSize == 0 || decide ((w.hbmBase + w.hbmSize) * 2 ^ 28 ≤ hbmCap s))
    && (s.hg.plots.all fun kv => kv.1 == w.plot
        || (!overlaps kv.2.basinBase.toNat kv.2.basinSize.toNat w.basinBase w.basinSize
            && !overlaps kv.2.hbmBase.toNat kv.2.hbmSize.toNat w.hbmBase w.hbmSize))
    && (w.resSize == 0 || decide (w.resBase + w.resSize ≤ w.basinSize))
    && decide (x.resLevel.toNat ≤ 16 * w.resSize)
    && (x.resLevel == 0 || (w.basinBase == x.basinBase.toNat && w.resBase == x.resBase.toNat))
    && ((armedLocals s w.plot).isEmpty
        || (!windowMoves x.basinBase.toNat x.basinSize.toNat w.basinBase w.basinSize
            && !windowMoves x.hbmBase.toNat x.hbmSize.toNat w.hbmBase w.hbmSize))

/-- Zeros over what a new window holds and the old one did not (R200). -/
def zeroEntered (hbm : Bool) (unit ob os nb ns : Nat) (s : State) : State :=
  let z := fun lo hi (t : State) => if lo < hi then zeroMem hbm t (lo * unit) ((hi - lo) * unit) else t
  if os = 0 then z nb (nb + ns) s
  else z (max nb (ob + os)) (nb + ns) (z nb (min (nb + ns) ob) s)

/-- WINDOW_MAP acts. -/
def windowAct (w : WindowMapDesc) (s : State) : State :=
  let x := getPlot s w.plot
  let s1 := zeroEntered false (2 ^ 20) x.basinBase.toNat x.basinSize.toNat w.basinBase w.basinSize s
  let s2 := zeroEntered true (2 ^ 28) x.hbmBase.toNat x.hbmSize.toNat w.hbmBase w.hbmSize s1
  modPlot w.plot (fun x =>
    { x with basinBase := bv 10 w.basinBase, basinSize := bv 10 w.basinSize, resBase := bv 10 w.resBase
             resSize := bv 10 w.resSize, hbmBase := bv 10 w.hbmBase, hbmSize := bv 10 w.hbmSize }) s2

/-- WINDOW_MAP (R199, R200): zeroing needs Basin, and HBM for an HBM window. -/
def execWindowMap (f : Nat) (s : State) : Res :=
  .next (
    let needs := dFront :: dBasin :: (if (windowMapDesc (bytesOfNext s f)).hbmSize = 0 then [] else [dHbm])
    match beginDispatch f (fun o => o.opcode == 0x12) needs s with
    | .error s1 => s1
    | .ok (o, s1) =>
      let w := windowMapDesc o.bytes
      if windowCheck s1 w then completeOp f o.id 0 false (windowAct w s1) else reject f o rFieldRange s1)

/-! ## Stall scan (R190) -/

/-- One furrow of a scan. -/
def scanFurrow (n : Nat) (s : State) (f : Nat) : State :=
  let x := getFur s f
  if x.alloc = false then s
  else if x.slicesIdle.toNat < n then setFur s f { x with reported := false }
  else if x.reported then s
  else
    postNotice 1 x.plot.toNat 0x8001
      (natLe 2 x.localIdx.toNat ++ natLe 1 x.slicesIdle.toNat ++ [0] ++ natLe 4 x.progress.toNat)
      (setFur s f { x with reported := true })

/-- What CH1 posts when it has restarted: a notice for every gauge at or above STALL_N, reported before or not (R191). -/
def stallNotices (s : State) : State :=
  if s.hg.gaugeEn then
    (s.hg.furrows.map (·.1)).foldl (fun t f => scanFurrow (stallN s) (modFur f (fun x => { x with reported := false }) t) f) s
  else s

/-- STALL_SCAN (R190): CH1's scan, paced by Pilot timer 3. -/
def execStallScan (s : State) : Res :=
  .next (if s.hg.gaugeEn ∧ compRuns s 1 then (s.hg.furrows.map (·.1)).foldl (scanFurrow (stallN s)) s else s)

end Sys2Proof.Machine
end

