-- ==== Sys2Proof/Machine/Slices.lean ====
section
/-!
DEFINITION. Slices, preemption and resume (08_headgate_and_stokers R176 to R186). Commands SLICE_EXPIRE,
ROUND_BOUNDARY, RESUME.
-/
namespace Sys2Proof.Machine

/-! ## Preemption -/

/-- An operation that a slice's end takes off its engine: a GEMM with passes left to issue (one that only
drains completes instead, 08 corners), a FLUE operation. -/
def preemptible (o : Op) : Bool :=
  o.phase == .running
    && (o.opcode == 0x09 || (o.opcode == 0x08 && decide (o.prog.pass < passCount (geoOf o.quad (gemmDesc o.bytes)))))

/-- The image of the slot goes to its record; uncorrectable entries leave as NaN and mark the operation
(R92, R182). -/
def saveForPreempt (f : Nat) (o : Op) (n : Nat) (s : State) : State :=
  let s1 := saveRecord n (eccEntries n (furPlot s f) s)
  if (getSlot s n).bad.isEmpty then s1 else flagHw f o.id s1

/-- PREEMPT (R182), FLUE_PREEMPT (R183). The chains are discarded, so a resume reloads the weight block; the Stokers
show the save as the last thing they did. -/
def preempt (f : Nat) (o : Op) (s : State) : State :=
  let s1 := modOp f o.id (fun o =>
    { o with phase := .preempted, prog := { o.prog with loaded := false, reload := true } }) s
  if o.opcode = 0x09 then s1
  else
    let n := (gemmDesc o.bytes).slot
    let s2 := saveForPreempt f o n s1
    modFbs (slotFbs s n) (fun x => { x with busy := false, runState := 4, preempts := x.preempts + 1 }) s2

/-- The slice passes on once the holder's operation, which only drains, has completed (08 corners). -/
def passOn (d : Nat) (g : Grant) (s : State) : State := modDom d (fun x => { x with incoming := some g.fur }) (useCredit d g s)

/-- SLICE_EXPIRE (R178): the slice that is granted next, chosen now, goes to another furrow or to the holder
again. A MOVE of the SLUICE domain runs on. -/
def execSliceExpire (d : Nat) (s : State) : Res :=
  .next (
    if 7 ≤ d ∨ awake s [dFront] = false then s
    else
      match (getDom s d).holder with
      | none => s
      | some f =>
        if (getDom s d).incoming.isSome then s
        else match grantOf s d with
        | none => modDom d (fun x => { x with holder := none }) s
        | some g =>
          if g.fur = f then giveSlice d g s
          else
            match runningOp s d with
            | none => giveSlice d g s
            | some (_, o) => if preemptible o then giveSlice d g (preempt f o s) else passOn d g s)

/-- ROUND_BOUNDARY (R176): no plot with ready work holds a credit. -/
def execRoundBoundary (d : Nat) (s : State) : Res :=
  .next (
    if awake s [dFront] = false ∨ (domainsNow s).contains d = false then s
    else if (roundGrant s d false).isSome then s else roundStart d s)

/-! ## Resume (R185) -/

/-- The Fireboxes show an operation that resumes: its slot restored where that was needed, its weight block to be loaded
again. -/
def showResume (s0 : State) (f n : Nat) (o : Op) (s : State) : State :=
  let st := if s0.hg.ctxValid.getLsbD n && s0.hg.ctxLost.getLsbD n then 5 else 1
  modFbs (slotFbs s0 n) (fun x =>
    { x with busy := true, plot := bv 6 (furPlot s0 f), slot := bv 4 n, runState := st, furrow := bv 14 f
             ctxPass := bv 32 o.prog.pass, ctxRow := bv 16 o.prog.row }) s

/-- A preempted operation goes back to its engine. -/
def resumeOp (d f : Nat) (o : Op) (s : State) : State :=
  let run := modOp f o.id (fun o => { o with phase := .running })
  if d = 5 then run s
  else
    let n := (gemmDesc o.bytes).slot
    if slotModeOk s n = false then endOp f o.id rHwError s
    else
      let r := serveRecord n (some (furPlot s f)) s
      if r.2 then showResume s f n o (run r.1) else endOp f o.id rHwError r.1

/-- The furrow whose slice it is, or would be. -/
def sliceFur (s : State) (d : Nat) : Option Nat :=
  match (getDom s d).holder with
  | some f => some f
  | none => (grantOf s d).map (·.fur)

/-- RESUME (R182, R183, R185). -/
def execResume (d : Nat) (s : State) : Res :=
  .next (
    if 6 ≤ d ∨ awake s [dFront] = false then s
    else
      match sliceFur s d with
      | none => s
      | some f =>
        match preemptedOp s d f with
        | none => s
        | some o =>
          let needs := if d = 5 then flueNeeds s else gemmNeeds s o
          if o.coll ≠ 0 then s
          else if awake s needs = false then ignite needs s
          else
            match takeTurn d f s with
            | none => s
            | some s1 => resumeOp d f o s1)

end Sys2Proof.Machine
end

