-- ==== Sys2Proof/Machine/Smokebox.lean ====
section
/-!
DEFINITION. Episodes, acknowledgement, escalation actions, snapshots, the heartbeat, and units that fail
(12_smokebox R267 to R280, 15_reset_and_bringup R343). Commands SMOKEBOX_EVENT, UNIT_FAILS_IN_SERVICE,
COUNT_WINDOW_CLOSE, GRACE_EXPIRY, SMOKE_TOGGLE; what writes of SB_ACK, SB_FORCE and SB_STATUS do.
-/
namespace Sys2Proof.Machine

/-! ## The close of an episode (R277, R278) -/

/-- The snapshot of Table 12-2 but for its CRC. -/
def snapshotBody (s : State) (actions : BitVec 4) (closedBy : Nat) (snaps : BitVec 16) : List Byte :=
  let b := s.sb
  padTo 4092 (natLe 4 0x534E4150 ++ natLe 2 1 ++ natLe 1 b.epSev.toNat ++ natLe 1 actions.toNat
    ++ natLe 8 b.epTime.toNat ++ natLe 8 s.pi.time.toNat ++ natLe 8 b.status.toNat ++ natLe 8 (sbLive s).toNat
    ++ natLe 8 b.epPlots.toNat ++ natLe 1 closedBy ++ natLe 1 b.epId.toNat ++ natLe 1 b.epMerges.toNat ++ [0]
    ++ natLe 4 snaps.toNat
    ++ (List.range 64).flatMap (fun n => natLe 1 (getSrc s n).effSev.toNat)
    ++ (List.range 64).flatMap fun n => natLe 2 (getSrc s n).events.toNat)

/-- The snapshot with its CRC. -/
def snapshotBytes (body : List Byte) : List Byte := body ++ natLe 4 (crc32c body).toNat

/-- The Pilot writes a snapshot, unless source 63 is set (R278, R280). -/
def writeSnapshot (actions : BitVec 4) (closedBy : Nat) (s : State) : State :=
  if s.sb.status.getLsbD 63 then s
  else
    let n := s.sb.snaps + 1
    { s with sb := { s.sb with snaps := n
                               recMem := memCells memDefault 0 (snapshotBytes (snapshotBody s actions closedBy n)) }
             ch := { s.ch with recordWant := true } }

/-- Plots that PLOT_FAULT notices go to (R277). -/
def faultPlots (s : State) : List Nat :=
  (bitList s.sb.epPlots.toNat 64).filter fun p => (getPlot s p).state == .live || (getPlot s p).state == .quarantined

/-- PLOT_FAULT notices: one to each plot for each source set. -/
def faultNotices (s : State) : State :=
  (faultPlots s).foldl (fun t p =>
    (bitList s.sb.status.toNat 64).foldl (fun t n =>
      postNotice 3 p 0x8004 (natLe 1 n ++ natLe 1 (getSrc s n).effSev.toNat) t) t) s

/-- An open episode closes: a snapshot, and notices when its SEV is DEGRADED or above. CLOSED_BY is 0 for
CH3, 1 for the host, 2 for expiry, 3 for a reset. -/
def closeEpisode (actions : BitVec 4) (closedBy : Nat) (s : State) : State :=
  let s1 := writeSnapshot actions closedBy { s with sb := { s.sb with epOpen := false } }
  if 2 ≤ s.sb.epSev then faultNotices s1 else s1

/-! ## Actions (R272) -/

/-- The actions that SB_ACTION gives for a severity. -/
def actionsFor (b : Smokebox) (sev : BitVec 3) : BitVec 4 :=
  if sev = 2 then b.actDegraded else if sev = 3 then b.actPlot else if sev = 4 then b.actTile else 0

/-- QUAR: every LIVE plot named, plot 0 excepted. -/
def actQuar (s : State) : State :=
  let ps := (bitList s.sb.epPlots.toNat 64).filter fun p => p != 0 && (getPlot s p).state == .live
  ps.foldl (fun t p => quarantine p true t) { s with sb := { s.sb with escQuar := true } }

/-- SMOKE: both outputs low. -/
def actSmoke (s : State) : State := { s with sb := { s.sb with escSmoke := true } }

def takeActions (a : BitVec 4) (s : State) : State :=
  let s1 := if a.getLsbD 0 then actQuar s else s
  let s2 := if a.getLsbD 1 then hgStop s1 else s1
  let s3 := if a.getLsbD 2 then { s2 with sb := { s2.sb with escAlarm := true } } else s2
  if a.getLsbD 3 then actSmoke s3 else s3

/-- GRACE_EXPIRY (R271). -/
def execGraceExpiry (s : State) : Res :=
  .next (
    if s.sb.epOpen then
      let a := actionsFor s.sb s.sb.epSev
      let s1 := collectorIrq { s with sb := { s.sb with escalations := incHold s.sb.escalations } }
      closeEpisode a 2 (takeActions a s1)
    else s)

/-- A write of SB_ACK (R270). -/
def ackEpisode (a : Agent) (id merges : BitVec 8) (s : State) : State :=
  if s.sb.epOpen ∧ id = s.sb.epId ∧ merges = s.sb.epMerges then
    closeEpisode 0 (match a with | .core _ => 0 | _ => 1) s
  else { s with sb := { s.sb with ackStale := true } }

/-- A write of 1 to SB_FORCE.SMOKE. -/
def forceSmoke (s : State) : State := actSmoke { s with sb := { s.sb with forceSmoke := true } }

/-- A write of 1 to SB_FORCE.HG_STOP. -/
def forceHgStop (s : State) : State := hgStop { s with sb := { s.sb with forceHgStop := true } }

/-- A write of SB_STATUS (R273, R280): bits whose SB_LIVE bit reads 1 stay. -/
def clearStatus (bits : BitVec 64) (s : State) : State :=
  let gone := s.sb.status &&& bits &&& ~~~sbLive s
  let s1 := (bitList gone.toNat 64).foldl
    (fun t n => setSrc t n { getSrc t n with effSev := 0, escalated := false })
    { s with sb := { s.sb with status := s.sb.status &&& ~~~gone } }
  if gone.getLsbD 63 then { s1 with sb := { s1.sb with recMem := [] } } else s1

/-- COUNT_WINDOW_CLOSE (R267). -/
def execCountWindowClose (n : Nat) (s : State) : Res :=
  .next (
    let x := getSrc s n
    if n < 64 ∧ x.windowOpen then setSrc s n { x with windowOpen := false, count := 0 } else s)

/-- SMOKE_TOGGLE (R275): the heartbeat runs while the outputs are driven and SMOKE is not taken. -/
def execSmokeToggle (s : State) : Res :=
  .next (if s.pi.pwrok ∧ s.pi.hrstLow = false ∧ s.pins.outputsOn ∧ s.sb.escSmoke = false
    then { s with pins := { s.pins with smokeP := !s.pins.smokeP } } else s)

/-! ## Events of the blocks -/

/-- Sources whose events name a plot (Table 12-1). -/
def plotNamed (n : Nat) : Bool :=
  decide (n ≤ 6) || (decide (8 ≤ n) && decide (n ≤ 11)) || [14, 18, 21, 25, 30, 55].contains n

/-- The Hearth operation that Firebox or Stoker `q` runs stops (R59, R181). -/
def stopOn (q : Nat) (s : State) : State := stopDomain (if s.he.modeCur then 1 + q else 0) s

/-- What the block that detects an event of source `n` does beside raising it: its counters, and the
operation that met it. -/
def blockEffect (n unit : Nat) (s : State) : State :=
  if n ≤ 3 then stopOn n s
  else if n ≤ 6 then modFb (n - 3) (fun x => { x with lockErr := incHold x.lockErr }) (stopOn (n - 3) s)
  else if 8 ≤ n ∧ n ≤ 11 then { s with ap := { s.ap with eccUncorr := s.ap.eccUncorr + 1 } }
  else if n = 12 then { s with ap := { s.ap with eccCorr := s.ap.eccCorr + 1 } }
  else if n = 14 then { s with fl := { s.fl with tableUncorr := incHold s.fl.tableUncorr } }
  else if n = 15 then { s with fl := { s.fl with tableCorr := incHold s.fl.tableCorr } }
  else if n = 18 then { s with ba := { s.ba with basinUncorr := incHold s.ba.basinUncorr } }
  else if n = 19 then { s with ba := { s.ba with basinCorr := incHold s.ba.basinCorr } }
  else if n = 20 then { s with ba := { s.ba with bankFail := setBit s.ba.bankFail (unit % 24) true } }
  else if n = 21 then { s with ba := { s.ba with hbmUncorr := incHold s.ba.hbmUncorr } }
  else if n = 22 then { s with ba := { s.ba with hbmCorr := incHold s.ba.hbmCorr } }
  else if n = 23 then { s with ba := { s.ba with stackFail := setBit s.ba.stackFail (unit % 8) true } }
  else if n = 24 then { s with sc := { s.sc with lines := s.sc.lines.eraseIdx unit } }
  else if n = 25 then
    (match channelOp s (unit % 32) with
     | some (f, o) => endOp f o.id rHwError s
     | none => s)
  else if n = 28 then { s with hp := { s.hp with corr := incHold s.hp.corr, aerCorr := true } }
  else if n = 29 then { s with hp := { s.hp with uncorr := incHold s.hp.uncorr, aerUncorr := true, rasUncorr := true } }
  else s

/-- The operation that an event of source `n` stops: the one its Firebox or Stoker runs, or its channel's MOVE. -/
def eventOp (n unit : Nat) (s : State) : Option (Nat × Op) :=
  if n ≤ 3 then runningOp s (if s.he.modeCur then 1 + n else 0)
  else if n ≤ 6 then runningOp s (if s.he.modeCur then 1 + (n - 3) else 0)
  else if n = 25 then channelOp s (unit % 32)
  else none

/-- The plot that an event names (Table 12-1): the one whose operation it stops, else the one that the block reports. -/
def eventPlot (n : Nat) (plot : Option Nat) (unit : Nat) (s : State) : Option Nat :=
  if plotNamed n then
    (match eventOp n unit s with
     | some (f, _) => some (furPlot s f)
     | none => plot)
  else none

/-- SMOKEBOX_EVENT (R268): an event of source `n`, of plot `plot` where the source names one and stops no operation, met
by unit `unit` where the source has one line for several. -/
def execSmokeboxEvent (n : Nat) (plot : Option Nat) (unit : Nat) (s : State) : Res :=
  .next (
    if sourceReserved n ∨ s.pi.pwrok = false ∨ s.pi.hrstLow then s
    else if 36 ≤ n ∧ n ≤ 39 then (if (getPort s (n - 36)).state = .down then s else portDown (n - 36) s)
    else raiseUnit n (eventPlot n plot unit s) unit (blockEffect n unit s))

/-- UNIT_FAILS_IN_SERVICE (R125, R343; R92, R123, R126 and 05 corners for stored words, which are met when
they are read). -/
def execUnitFailsInService (u : FailUnit) (s : State) : Res :=
  .next (
    if s.pi.pwrok = false ∨ s.pi.hrstLow then s else
    match u with
    | .bank b =>
      if s.ba.bankIn.getLsbD b && !s.ba.bankFail.getLsbD b
        then raiseUnit 20 none b { s with ba := { s.ba with bankFail := setBit s.ba.bankFail b true } } else s
    | .stack k =>
      if s.ba.stackIn.getLsbD k && !s.ba.stackFail.getLsbD k
        then raiseUnit 23 none k { s with ba := { s.ba with stackFail := setBit s.ba.stackFail k true } } else s
    | .flueHalf h => if h < 2 ∧ flueIn s h then raiseUnit (16 + h) none h s else s
    | .stats => if statsIn s then raiseUnit 13 none 0 s else s
    | .basinWord w =>
      if 8 * w < basinCap s ∧ s.ba.basinBad.contains w = false
        then { s with ba := { s.ba with basinBad := w :: s.ba.basinBad } } else s
    | .hbmWord w =>
      if 8 * w < hbmCap s ∧ s.ba.hbmBad.contains w = false
        then { s with ba := { s.ba with hbmBad := w :: s.ba.hbmBad } } else s
    | .slotEntry n i =>
      if n < 16 ∧ i < slotEntries ∧ (getSlot s n).bad.contains i = false
        then modSlot n (fun x => { x with bad := i :: x.bad }) s else s
    | .tableBank n b =>
      let t := getTable s n
      if n < 16 ∧ b < 2 ∧ t.bad.contains b = false ∧ (if b = 1 then t.bank1 else t.bank0).isSome
        then setTable s n { t with bad := b :: t.bad } else s)

end Sys2Proof.Machine
end

