-- ==== Sys2Proof/Machine/Flags.lean ====
section
/-!
DEFINITION. Values that the tile computes from its state: capability words and status words, the levels of
the output pins (17_pins_and_electrical R361, R362), and one Pilot clock.
-/
namespace Sys2Proof.Machine

/-! ## Capability words -/

/-- One bit per index below `n`. -/
def maskOf (n : Nat) (f : Nat → Bool) : Nat := (List.range n).foldl (fun v i => v + b2n (f i) * 2 ^ i) 0

/-- HE_CAP: Fireboxes in service, WHOLE_OK, CTAB_ID 1. -/
def heCap (s : State) : Nat := maskOf 4 (fbIn s) + 16 * b2n (wholeOk s) + 0x100
/-- AP_CAP. -/
def apCap (s : State) : Nat := maskOf 4 (apIn s) + 16 * b2n (statsIn s)
/-- FL_CAP: halves in service, table set 1, 16 user slots. -/
def flCap (s : State) : Nat := maskOf 2 (flueIn s) + 0x100 + 0x100000
/-- SC_CAP. -/
def scCap (s : State) : Nat := b2n (scuttleIn s)
/-- BA_CAP. -/
def baCap (s : State) : Nat := s.ba.bankIn.toNat + 2 ^ 24 * s.ba.stackIn.toNat
/-- BA_SIZE: MiB of Basin, GiB of HBM. -/
def baSize (s : State) : Nat := basinCap s / 2 ^ 20 + 2 ^ 32 * (hbmCap s / 2 ^ 30)
/-- FL_TSET (R118). -/
def flTset (s : State) : Nat := 1 + 2 ^ 32 * s.fl.loadedCrc.toNat

def powerCode : Power → Nat
  | .stoked => 0 | .banked => 1 | .ember => 2 | .dark => 3

/-- PI_DOM_STATE. -/
def domWord (s : State) : Nat := (List.range 14).foldl (fun v d => v + powerCode (getPower s d) * 4 ^ d) 0

/-! ## Pins -/

/-- The level of an output. -/
inductive Level where
  | z | low | high
  deriving DecidableEq, Repr

/-- Outputs are driven (R337 step 2, R339). -/
def driven (s : State) : Bool := s.pi.pwrok && s.pins.outputsOn

/-- An open-drain output that is low while `b`. -/
def openDrain (s : State) (b : Bool) : Level := if driven s && b then .low else .z

/-- ALARM_L (R274). -/
def alarmL (s : State) : Level :=
  openDrain s (s.sb.escAlarm || (bitList s.sb.status.toNat 64).any fun n => decide (s.sb.alarmSev ≤ (getSrc s n).effSev))

/-- THERM_L (R234). -/
def thermL (s : State) : Level := openDrain s s.pi.alert
/-- TTRIP_L (R235). -/
def ttripL (s : State) : Level := openDrain s s.pins.ttripLatch
/-- TILE_READY (R340): driven high, or left. -/
def tileReadyPin (s : State) : Level := if driven s && s.pins.tileReady then .high else .z

/-- WAKE_L (R362). -/
def wakeL (s : State) : Level :=
  openDrain s (decide (levelOf s < 2) && decide (s.pins.strapHost.toNat < 2) && !s.hp.up)

/-- SMOKE_P and SMOKE_N (R275). -/
def smokePin (n : Bool) (s : State) : Level :=
  if !driven s then .z
  else if s.sb.escSmoke then .low
  else if s.pins.smokeP != n then .high else .low

/-! ## One Pilot clock -/

/-- Pilot clocks of a step pattern: 50,000,000 within 20 ppm (R213). -/
def patternClocks (seed : Nat) : Nat := 49999000 + Config.refClocks seed % 2001

/-- Nanoseconds by which tile time advances: 20 before the first lock, else 19, 20 or 21, a choice of the Pilot's
that lets the pattern come out at 1,000,000,000 over its 32,768 reference periods (R228; log 110). -/
def timeStep (s : State) : Nat :=
  if s.pi.everLocked then
    let after := patternClocks s.pi.stepSeed - s.pi.stepPos - 1
    let want := 19 + Config.timeStep s.pi.stepSeed s.pi.stepPos % 3
    max 19 (min 21 (max (s.pi.stepLeft - 21 * after) (min (s.pi.stepLeft - 19 * after) want)))
  else 20

/-- The step pattern from its first Pilot clock. -/
def startPattern (seed : Nat) (x : Pilot) : Pilot := { x with stepSeed := seed, stepPos := 0, stepLeft := 1000000000 }

/-- A Pilot clock of the step pattern passes. At its end a new pattern follows while the reference is locked, and the
same one again while it is not (R228). -/
def stepPattern (s : State) : Pilot :=
  if s.pi.everLocked = false then s.pi
  else if s.pi.stepPos + 1 < patternClocks s.pi.stepSeed then
    { s.pi with stepPos := s.pi.stepPos + 1, stepLeft := s.pi.stepLeft - timeStep s }
  else startPattern (if s.pi.refLocked then s.free else s.pi.stepSeed) s.pi

/-- A Pilot clock passes: tile time advances, pulses of SB_LIVE end, Stokers that were saving a context are idle
(R228, R264, R192; log 1). -/
def pilotClock (s : State) : State :=
  if s.pi.pwrok then
    modFbs [0, 1, 2, 3] (fun x => if x.runState = 4 then { x with runState := 0 } else x)
    { s with pi := { stepPattern s with time := s.pi.time + bv 64 (timeStep s) }
             sb := { s.sb with live := 0 }
             free := s.free + 1 }
  else s

end Sys2Proof.Machine
end

