-- ==== Sys2Proof/Machine/Image.lean ====
section
/-!
DEFINITION. Firmware images in flash (11_chimney_firmware R239, R240, R243; 14_host_port_and_management R330, R331):
the ROM's checks, and what CH0 does with an update.
-/
namespace Sys2Proof.Machine

/-- Bytes of flash. -/
def readFlash (s : State) (a n : Nat) : List Byte := memRead flashDefault s.flash a n

/-! ## Image checks (R239, R240) -/

/-- A slot of flash (Table 14-9). -/
def slotBase (b : Bool) : Nat := 0x00100000 + 0x01000000 * b2n b

/-- Bytes `lo` to `hi - 1` are zero. -/
def zeroBytes (h : List Byte) (lo hi : Nat) : Bool := ((h.drop lo).take (hi - lo)).all (· == 0)

def bodySize (h : List Byte) : Nat := leAt h 24 4
def bootSeq (h : List Byte) : Nat := leAt h 608 4

/-- BOOT_SEQ_INV is the complement of BOOT_SEQ. -/
def seqOk (h : List Byte) : Bool := leAt h 612 4 + bootSeq h == 2 ^ 32 - 1

/-- Check 1, HEADER. -/
def headerOk (h : List Byte) : Bool :=
  leAt h 0 4 == 0x50484F41 && leAt h 4 2 == 1
    && zeroBytes h 6 8 && zeroBytes h 18 24 && zeroBytes h 28 32 && zeroBytes h 385 512 && zeroBytes h 616 4096
    && ([0, 1, 2, 3] : List Nat).all (fun k => zeroBytes h (44 + 16 * k) (48 + 16 * k)
        && decide (leAt h (36 + 16 * k) 4 + leAt h (40 + 16 * k) 4 ≤ bodySize h))
    && bodySize h % 4096 == 0 && decide (4096 ≤ bodySize h) && decide (bodySize h ≤ 2 ^ 20) && seqOk h

/-- Check 2, KEY: a KEY_HASH of all zeros fails every image. -/
def keyOk (h : List Byte) : Bool :=
  sha384 ((h.drop 288).take 97) == Config.keyHash && !(Config.keyHash.all (· == 0))

/-- Check 4, SIGNATURE. -/
def signOk (h body : List Byte) : Bool :=
  ecdsaVerify ((h.drop 288).take 97) ((h.drop 512).take 96) (h.take 512 ++ body)

/-- Check 5, COMPARTMENT. -/
def compOk (h body : List Byte) : Bool :=
  ([0, 1, 2, 3] : List Nat).all fun k =>
    sha384 ((body.drop (leAt h (36 + 16 * k) 4)).take (leAt h (40 + 16 * k) 4)) == (h.drop (96 + 48 * k)).take 48

/-- The first check that an image fails, by its code in CH_BOOT_STATUS; 0 for none. -/
def imageFail (h body : List Byte) (minSvn : BitVec 32) : Nat :=
  if !headerOk h then 1
  else if !keyOk h then 2
  else if leAt h 12 4 < minSvn.toNat then 3
  else if !signOk h body then 4
  else if !compOk h body then 5
  else 0

/-- The header and the body of a slot. -/
def slotHeader (s : State) (b : Bool) : List Byte := readFlash s (slotBase b) 4096
def slotBody (s : State) (b : Bool) : List Byte :=
  readFlash s (slotBase b + 4096) (if bodySize (slotHeader s b) ≤ 2 ^ 20 then bodySize (slotHeader s b) else 0)

/-- The size that SFDP reports is one that the tile takes (R330). -/
def flashSizeOk (s : State) : Bool := decide (64 ≤ s.pins.flashMiB) && decide (s.pins.flashMiB ≤ 256)

/-- The code with which a slot fails; 6 is a flash read error (R241, R330, R369). -/
def slotFail (s : State) (b : Bool) : Nat :=
  if s.pins.vflash = false ∨ flashSizeOk s = false then 6 else imageFail (slotHeader s b) (slotBody s b) s.ch.minSvn

/-! ## Update (R243) -/

/-- The component that PLDM for Firmware Update names: the Phoanar image (Table 14-7). -/
def imageComponent : BitVec 16 := 1

/-- The slot that CH0 may write: the one that did not boot; after a management boot an invalid one, else the one
with the smaller BOOT_SEQ. -/
def updateSlot (s : State) : Bool :=
  if s.ch.bootSrc = false then !s.ch.bootSlot
  else
    let a := slotHeader s false
    let b := slotHeader s true
    if !seqOk a then false else if !seqOk b then true else decide (bootSeq b < bootSeq a)

/-- CH0 takes an update: the slot is erased, written, read back and checked; one that fails is left with its header page
erased. CH0 reports the outcome: 0, the check that failed, or 7 for a component that the tile does not have. -/
def updateAct (comp : BitVec 16) (image : List Byte) (s : State) : State :=
  if comp ≠ imageComponent then emit (.mgmt [7]) s
  else if s.pins.vflash = false then emit (.mgmt [6]) s
  else
    let b := updateSlot s
    let base := slotBase b
    let s1 := { s with flash := memWrite flashDefault (tblClear base (base + 0x01000000) s.flash) base (image.take 0x01000000) }
    let code := slotFail s1 b
    let s2 := emit (.mgmt (natLe 1 code)) s1
    if code = 0 then { s2 with ch := { s2.ch with updSlot := some b } }
    else { s2 with flash := tblClear base (base + 4096) s2.flash, ch := { s2.ch with updSlot := none } }

/-- The larger valid BOOT_SEQ of the two slots. -/
def largestSeq (s : State) : Nat :=
  let v := fun (b : Bool) => if seqOk (slotHeader s b) then bootSeq (slotHeader s b) else 0
  max (v false) (v true)

/-- BOOT_SEQ of the checked slot becomes the larger of the two plus one, with its complement; without a checked slot
activation is refused. -/
def activateAct (s : State) : State :=
  match s.ch.updSlot with
  | none => emit (.mgmt [1]) s
  | some b =>
    if s.pins.vflash = false then emit (.mgmt [1]) s
    else
      let q := bv 32 (largestSeq s + 1)
      emit (.mgmt [0]) { s with flash := memWrite flashDefault s.flash (slotBase b + 608) (natLe 4 q.toNat ++ natLe 4 (~~~q).toNat)
                                ch := { s.ch with updSlot := none } }

end Sys2Proof.Machine
end

