-- ==== Sys2Proof/Machine/Mgmt.lean ====
section
/-!
DEFINITION. The management path (14_host_port_and_management R326 to R329): the I3C address, MCTP control,
PLDM and SPDM. Commands ENTDAA, SETDASA, RSTDAA, MCTP_CONTROL, SET_ENDPOINT_ID, PLDM_BASE_DISCOVERY,
PLDM_MONITORING, PLDM_FIRMWARE_UPDATE, FIRMWARE_ACTIVATE, SPDM_NEGOTIATION, SPDM_GET_CERTIFICATE, SPDM_CHALLENGE,
SPDM_GET_MEASUREMENTS. A response leaves as `Out.mgmt`, or as `Out.doe` where SPDM was asked through the PF's DOE, in the
layouts of log 50. What the host asks through the PF's DOE arrives by its mailbox registers (CfgSpace.lean).
-/
namespace Sys2Proof.Machine

/-! ## The agents -/

/-- The management port is driven. -/
def portLive (s : State) : Bool := s.pi.pwrok && !s.pi.hrstLow && s.pins.outputsOn

/-- The ROM's recovery agent waits for an image (R242). -/
def recoveryAgent (s : State) : Bool := portLive s && s.pi.phase == .recovery

/-- The image's agent exists: CH0's component, running or restarting, in a powered Chimney. -/
def imageAgent (s : State) : Bool :=
  portLive s && (s.pi.phase == .bringUp || s.pi.phase == .ready) && coreIn s 0
    && ((getCore s 0).state == .running || (getCore s 0).state == .restarting)
    && getPower s dChimney != .dark

/-- The image's agent can act now. -/
def agentRuns (s : State) : Bool := imageAgent s && compRuns s 0 && awake s [dChimney]

/-! ## Answers -/

/-- A control response: type, command, completion code, data. -/
def controlReply (cmd : BitVec 8) (code : Nat) (data : List Byte) : List Byte :=
  [0] ++ natLe 1 cmd.toNat ++ natLe 1 code ++ data

/-- MCTP control commands answered: Get Endpoint ID, Get MCTP Version Support, Get Message Type Support; any
other is reported unsupported. -/
def controlAnswer (s : State) (cmd : BitVec 8) : List Byte :=
  if cmd = 2 then controlReply cmd 0 (natLe 1 s.hp.eid.toNat ++ [0, 0])
  else if cmd = 4 then controlReply cmd 0 Config.mctpVersions
  else if cmd = 5 then controlReply cmd 0 [3, 0, 1, 5]
  else controlReply cmd 5 []

/-- The PLDM types offered, each with its version, major then minor (Table 14-7). -/
def pldmTypes : List Byte := [0, 1, 1, 2, 1, 2, 5, 1, 1]

/-- The service-level sensor: NOT_READY reads as MGMT_ONLY (R347). -/
def levelSensor (s : State) : Nat := if levelOf s = 3 then 2 else levelOf s

/-- The Smokebox sensor: 0 no episode, 1 open episode, 2 escalated. -/
def smokeboxSensor (s : State) : Nat :=
  if s.sb.escQuar || s.sb.escHgStop || s.sb.escAlarm || s.sb.escSmoke then 2 else if s.sb.epOpen then 1 else 0

/-- A sensor's value: 0 TEMP_MAX, 1 hottest HBM stack, 2 POWER_W, 3 HCLK level, 4 service level, 5 Smokebox
(Table 14-7). -/
def sensorValue (s : State) (n : Nat) : Option Nat :=
  match n with
  | 0 => some s.pi.tempMax.toNat
  | 1 => some (Config.hbmTemperature s.free).toNat
  | 2 => some s.pi.powerW.toNat
  | 3 => some s.pi.hclkLevel.toNat
  | 4 => some (levelSensor s)
  | 5 => some (smokeboxSensor s)
  | _ => none

/-- SPDM version 1.2; CERT, CHAL, MEAS with signature; ECDSA P-384; SHA-384. -/
def spdmOffer : List Byte := [0x12] ++ natLe 4 0x16 ++ natLe 4 0x80 ++ natLe 4 0x02

/-- Certificate chain slot 0: it lies in the flash header region, the first 1 MiB (Table 14-9). -/
def certChain (s : State) : List Byte :=
  let a := min Config.certOffset 0x100000
  readFlash s a (min Config.certLength (0x100000 - a))

/-- A measurement block (Table 14-8). -/
def measurement (s : State) (i : Nat) : List Byte :=
  match i with
  | 1 => sha384 (s.ch.image.take 512)
  | 2 => (s.ch.image.drop 96).take 192
  | 3 => natLe 4 s.ch.svn.toNat ++ natLe 4 s.ch.minSvn.toNat
  | 4 => natLe 8 (flTset s)
  | 5 => Config.keyHash
  | _ => []

/-- The blocks that an index asks for: 0 their number, 255 all of them. -/
def measurements (s : State) (i : Nat) : Option (List Byte) :=
  if i = 0 then some [5]
  else if i = 255 then some (([1, 2, 3, 4, 5] : List Nat).flatMap (measurement s))
  else if i ≤ 5 then some (measurement s i)
  else none

/-- An SPDM error response. -/
def spdmError : List Byte := [0x7F, 0x01]

/-- An SPDM response leaves by the way the request came: MCTP, or the PF's DOE while the host link is up. -/
def spdmReply (doe : Bool) (bytes : List Byte) (s : State) : State :=
  if doe then (if s.hp.up then emit (.doe bytes) s else s) else emit (.mgmt bytes) s

/-- A signed response: the data, a fresh nonce, and the device key's signature over data, the requester's
nonce and that nonce. -/
def signedReply (doe : Bool) (data nonce : List Byte) (s : State) : State :=
  let r := takeFree s
  let mine := padTo 32 (Config.spdmNonce r.1)
  spdmReply doe (data ++ mine ++ Config.deviceSign (data ++ nonce ++ mine)) r.2

/-- CH0 answers a message. -/
def answer (m : MgmtMsg) (s : State) : State :=
  match m with
  | .control cmd => emit (.mgmt (controlAnswer s cmd)) s
  | .unknownType => raise 31 none s
  | .setEid eid => emit (.mgmt (controlReply 1 0 (natLe 1 eid.toNat))) { s with hp := { s.hp with eid := eid } }
  | .pldmDiscovery => emit (.mgmt ([0] ++ pldmTypes)) s
  | .sensor n =>
    if s.pi.phase ≠ .ready then s
    else
      match sensorValue s n with
      | some v => emit (.mgmt ([0] ++ natLe 4 v)) (if n = 1 then (takeFree s).2 else s)
      | none => emit (.mgmt [0x80]) s
  | .spdmNegotiation doe => spdmReply doe spdmOffer s
  | .certificate doe slot off len =>
    let c := certChain s
    if slot ≠ 0 ∨ s.pins.vflash = false ∨ c.length ≤ off then spdmReply doe spdmError s
    else spdmReply doe ((c.drop off).take len) s
  | .challenge doe nonce =>
    if s.pins.vflash then signedReply doe (sha384 (certChain s)) nonce s else spdmReply doe spdmError s
  | .measurements doe i nonce =>
    (match measurements s i with
     | some b => signedReply doe b nonce s
     | none => spdmReply doe spdmError s)
  | .spdmOther doe => spdmReply doe spdmError s
  | .update comp image => updateAct comp image s
  | .activate => activateAct s

/-- Held messages are answered, first come first, once CH0's component acts (R246). -/
def answerHeld (s : State) : State :=
  if agentRuns s then s.pi.mctpHeld.foldl (fun t m => answer m t) { s with pi := { s.pi with mctpHeld := [] } } else s

/-- Messages that the Pilot's buffer has room for: 8 KiB in packets of 64 bytes (log 51). -/
def heldRoom : Nat := 128

/-- What the recovery agent answers (R242). -/
def recoveryAnswers : MgmtMsg → Bool
  | .control _ => true
  | .unknownType => true
  | .setEid _ => true
  | _ => false

/-- A message arrives: answered, held while CH0 restarts or CHIMNEY sleeps, or dropped. -/
def receive (m : MgmtMsg) (s : State) : State :=
  if recoveryAgent s then (if recoveryAnswers m then answer m s else s)
  else if imageAgent s = false then s
  else if agentRuns s then answer m s
  else
    ignite [dChimney] (if s.pi.mctpHeld.length < heldRoom
      then { s with pi := { s.pi with mctpHeld := s.pi.mctpHeld ++ [m] } } else s)

/-! ## Commands -/

/-- MCTP_CONTROL (R327): a message of type 0 is a control message; PLDM and SPDM messages are their own
commands; any other type is dropped with source 31. -/
def execMctpControl (cmd : BitVec 8) (mtype : BitVec 8) (s : State) : Res :=
  .next (
    if mtype = 0 then receive (.control cmd) s
    else if mtype = 1 ∨ mtype = 5 then s
    else receive .unknownType s)

/-- SET_ENDPOINT_ID (R327). -/
def execSetEndpointId (eid : BitVec 8) (s : State) : Res := .next (receive (.setEid eid) s)

/-- PLDM_BASE_DISCOVERY (R328). -/
def execPldmBaseDiscovery (s : State) : Res := .next (receive .pldmDiscovery s)

/-- PLDM_MONITORING (R328, R347): it answers once start-up has ended (R337). -/
def execPldmMonitoring (sensor : Nat) (s : State) : Res := .next (receive (.sensor sensor) s)

/-- PLDM_FIRMWARE_UPDATE (R243): a component's image is transferred. -/
def execPldmFirmwareUpdate (pkg : Package) (s : State) : Res := .next (receive (.update pkg.comp pkg.image) s)

/-- FIRMWARE_ACTIVATE (R243). -/
def execFirmwareActivate (s : State) : Res := .next (receive .activate s)

/-- SPDM_NEGOTIATION (R329). -/
def execSpdmNegotiation (s : State) : Res := .next (receive (.spdmNegotiation false) s)

/-- SPDM_GET_CERTIFICATE (R329). -/
def execSpdmGetCertificate (slot off len : Nat) (s : State) : Res := .next (receive (.certificate false slot off len) s)

/-- SPDM_CHALLENGE (R329). -/
def execSpdmChallenge (nonce : List Byte) (s : State) : Res := .next (receive (.challenge false nonce) s)

/-- SPDM_GET_MEASUREMENTS (R329). -/
def execSpdmGetMeasurements (index : Nat) (nonce : List Byte) (s : State) : Res :=
  .next (receive (.measurements false index nonce) s)

/-- A dynamic address is given to a target that holds none; the port itself answers, from power-up. -/
def giveAddress (addr : BitVec 7) (s : State) : State :=
  if portLive s && !s.hp.i3c then { s with hp := { s.hp with i3c := true, dynAddr := addr } } else s

/-- ENTDAA (R326). -/
def execEntdaa (addr : BitVec 7) (s : State) : Res := .next (giveAddress addr s)

/-- SETDASA (R326). -/
def execSetdasa (addr : BitVec 7) (s : State) : Res := .next (giveAddress addr s)

/-- RSTDAA (R326): back to I2C at the static address. -/
def execRstdaa (s : State) : Res :=
  .next (if portLive s then { s with hp := { s.hp with i3c := false, dynAddr := 0 } } else s)

end Sys2Proof.Machine
end

