-- ==== Sys2Proof/Machine/Mailbox.lean ====
section
/-!
DEFINITION. The mailbox and single-core restart (11_chimney_firmware R245 to R252), and the persistent
record (R259, R260). Commands MB_REQ_DB, HELLO, QUERY_CAPS, ARM_FURROW, DISARM_FURROW, CORE_RESTART,
SVN_COMMIT, SCHED_SET, BAD_TYPE_REQUEST, WDOG_EXPIRY, UNHANDLED_TRAP, PERSISTENT_RECORD_WRITE.
-/
namespace Sys2Proof.Machine

/-! ## Requests (R249) -/

/-- Bytes of a mailbox buffer. -/
def bufSize : Nat := 2048

/-- The Pilot takes a doorbell of the mailbox: ignored, overrun, or the request is copied and held. -/
def takeRequest (p : Nat) (seq : BitVec 16) (s : State) : State :=
  let m := (getPlot s p).mail
  if seq = m.lastSeq then s
  else if m.pending ∧ msgType m.reqBuf ≠ 1 then modMail p (fun m => { m with overrun := true }) s
  else
    ignite [dChimney] (modMail p (fun m =>
      { m with held := padTo (min bufSize (16 + msgLen m.reqBuf)) m.reqBuf, pending := true, begun := false
               lastSeq := seq }) s)

/-- MB_REQ_DB (R249): a plot that is not LIVE, or a tile that is not ready, discards it. -/
def execMbReqDb (p : Nat) (seq : BitVec 16) (s : State) : Res := .next (if s.hp.up && pageOpen s p then takeRequest p seq s else s)

/-! ## Service -/

/-- A request of plot `p` of a type that `sel` selects is held and firmware can serve it. -/
def requestReady (p : Nat) (sel : Nat → Bool) (s : State) : Bool :=
  let m := (getPlot s p).mail
  pageOpen s p && m.pending && sel (msgType m.held) && compRuns s 0 && awake s [dChimney]

/-- A held request that R250 leaves undefined in its response and in its effect on the sending plot, which are free: it may
act as a request of the tile's own format does, and it may be answered, by a status and a body that nothing fixes; else
it is dropped (log 92). -/
def undefinedRequest (p : Nat) (act : State → State) (s : State) : State :=
  let r := takeFree s
  let s1 := if Config.undefinedActs r.1 then act r.2 else r.2
  if Config.undefinedAnswers r.1 then respond p (Config.undefinedStatus r.1) ((Config.undefinedBody r.1).take 2032) s1
  else modMail p (fun m => { m with pending := false, begun := false }) s1

/-- A held request of one of the types of Table 11-8 but HELLO: refused, undefined after a VERSION response
or under another format (R250; one that only plot 0 may send reaches other plots, so it never acts there), or served by
`act`, which waits while one of its components does not run or one of its domains sleeps. -/
def serve (p : Nat) (sel : Nat → Bool) (plot0 : Bool) (len : Nat) (comps needs : List Nat)
    (act : List Byte → State → State) (s : State) : Res :=
  let m := (getPlot s p).mail
  if requestReady p sel s = false then .next s
  else if m.helloDone = false then .next (respond p stNoHello [] s)
  else if m.versionSent ∨ msgVer m.held ≠ s.ch.mbVer.toNat then
    .next (undefinedRequest p (fun t => if !plot0 && comps.all (compRuns s) && awake s needs then act (m.held.drop 16) t else t) s)
  else if plot0 ∧ p ≠ 0 then .next (respond p stDenied [] s)
  else if m.held.length ≠ 16 + len then .next (respond p stBadArg [] s)
  else if comps.all (compRuns s) = false then .next s
  else if awake s needs = false then .next (ignite needs s)
  else .next (act (m.held.drop 16) s)

/-- HELLO (R250): accepted whatever its format version. -/
def execHello (p : Nat) (s : State) : Res :=
  .next (
    if requestReady p (· == 1) s then
      let b := (getPlot s p).mail.held.drop 16
      let v := s.ch.mbVer.toNat
      let ok := decide (leAt b 0 2 ≤ v) && decide (v ≤ leAt b 2 2)
      respond p (if ok then stOk else stVersion)
        (natLe 2 v ++ natLe 1 p ++ [0] ++ natLe 4 s.ch.imageVer.toNat)
        (modMail p (fun m => { m with helloDone := true, versionSent := !ok }) s)
    else s)

/-- QUERY_CAPS (R251). -/
def execQueryCaps (p : Nat) (s : State) : Res :=
  serve p (· == 0x0002) false 0 [] []
    (fun _ s => respond p stOk (natLe 4 (heCap s) ++ natLe 4 (apCap s) ++ natLe 4 (flCap s) ++ natLe 4 (scCap s)
      ++ natLe 8 (baCap s) ++ natLe 8 (baSize s) ++ natLe 4 s.pi.service.toNat) s) s

/-- Types of Table 11-8. -/
def typeKnown (t : Nat) : Bool :=
  [0x0001, 0x0002, 0x0010, 0x0011, 0x0020, 0x0021, 0x0022, 0x0030, 0x0031, 0x0040, 0x0041, 0x0042].contains t

/-- BAD_TYPE_REQUEST (R251). -/
def execBadTypeRequest (p : Nat) (s : State) : Res :=
  let m := (getPlot s p).mail
  if requestReady p (fun t => !typeKnown t) s = false then .next s
  else if m.helloDone = false then .next (respond p stNoHello [] s)
  else if m.versionSent ∨ msgVer m.held ≠ s.ch.mbVer.toNat then .next (undefinedRequest p id s)
  else .next (respond p stBadType [] s)

/-! ## Furrows -/

/-- The kind with which ARM_FURROW arms a furrow (R338). -/
def armKind (p i kind : Nat) : Nat := if p = 0 ∧ i < 8 then 1 else kind

/-- ARM_FURROW acts: the RWL fields are written, then ARM. -/
def armRequest (p : Nat) (b : List Byte) (s : State) : State :=
  let i := leAt b 0 2
  let kind := leAt b 2 1
  let size := leAt b 3 1
  let base := leAt b 8 8
  let last := leAt b 16 8
  let ok := (kind == 0 || kind == 2 || armKind p i kind == 1) && decide (size < 32) && base % 4096 == 0 && decide (last < 2 ^ 48)
  match globalFur s p i with
  | none => respond p stBadArg [] s
  | some f =>
    if !ok then respond p stBadArg [] s
    else if (getFur s f).arm then respond p stDenied [] s
    else
      let s1 := armFur f (modFur f (fun x =>
        { x with base := bv 52 (base / 4096), sizeLog2 := bv 5 size, kind := bv 2 (armKind p i kind)
                 head := bv 16 (leAt b 4 2), last := bv 48 last }) s)
      respond p (if (getFur s1 f).arm then stOk else stDenied) [] s1

/-- ARM_FURROW (R251). -/
def execArmFurrow (p : Nat) (s : State) : Res := serve p (· == 0x0010) false 24 [1] [dFront] (armRequest p) s

/-- DISARM_FURROW (R251). -/
def execDisarmFurrow (p : Nat) (s : State) : Res :=
  serve p (· == 0x0011) false 2 [1] [dFront]
    (fun b s =>
      match globalFur s p (leAt b 0 2) with
      | none => respond p stBadArg [] s
      | some f => respond p stOk [] (if (getFur s f).arm then disarmFur f s else s)) s

/-- SCHED_SET acts: CH1 writes the pending share and slice, then COMMIT; the response waits for COMMIT to
clear. -/
def schedSetAct (b : List Byte) (s : State) : State :=
  let p := leAt b 0 1
  let us := leAt b 4 2
  if (getPlot s 0).mail.begun then answerSchedSet s
  else if 63 < p then respond 0 stBadArg [] s
  else
    let slice := if us < 4 then 4 else if 8000 < us then 8000 else us
    let s1 := captureTable (modPlot p (fun x => { x with sharePend := bv 8 (leAt b 2 1), slicePend := bv 13 slice }) s)
    modMail 0 (fun m => { m with begun := true }) s1

/-- SCHED_SET (R251). -/
def execSchedSet (p : Nat) (s : State) : Res :=
  serve p (· == 0x0042) true 6 [1] [dFront] (fun b s => if (getPlot s 0).mail.begun && s.hg.commit then s else schedSetAct b s) s

/-! ## Restart of one core (R245, R246) -/

/-- A running core stops and begins its restart (Table 11-4 step 1). While a warm reset runs, which restarts every core, a
restart joins it (R334). -/
def startRestart (c : Nat) (cause : BitVec 3) (s : State) : State :=
  if (getCore s c).state = .running ∧ s.pi.warmDue = false then
    modCore c (fun x => { x with state := .restarting, lastCause := cause, wdogArmed := false }) s
  else s

/-- A restart that is a fault of the core: watchdog expiry, an unhandled trap (source 47). -/
def faultRestart (c : Nat) (cause : BitVec 3) (s : State) : State :=
  if (getCore s c).state = .running ∧ s.pi.warmDue = false then raise 47 none (startRestart c cause s) else s

/-- WDOG_EXPIRY (R245). -/
def execWdogExpiry (c : Nat) (s : State) : Res :=
  .next (if (getCore s c).wdogArmed ∧ (getCore s c).wdogMs ≠ 0 then faultRestart c 1 s else s)

/-- UNHANDLED_TRAP (R245). -/
def execUnhandledTrap (c : Nat) (s : State) : Res := .next (faultRestart c 4 s)

/-- Components that a core runs (R346). -/
def compsOf (s : State) (c : Nat) : List Nat := [0, 1, 2, 3].filter fun k => compCore s k == some c

/-- A component's data region (Table 11-1): first byte and size. -/
def dataRegion (k : Nat) : Nat × Nat := if k = 3 then (0x1C0000, 0x20000) else (0x100000 + 0x40000 * k, 0x40000)

/-- The compartment's code hashes to the CODE_HASH held since boot. -/
def codeOk (s : State) (k : Nat) : Bool :=
  sha384 (memRead memDefault s.ch.sram (leAt s.ch.image (36 + 16 * k) 4) (leAt s.ch.image (40 + 16 * k) 4))
    == (s.ch.image.drop (96 + 48 * k)).take 48

/-- A component's scratch area is zeroed. -/
def zeroScratch (k : Nat) (s : State) : State :=
  let r := dataRegion k
  { s with ch := { s.ch with sram := tblClear (r.1 + r.2 / 2) (r.1 + r.2) s.ch.sram } }

/-- Notices, marks and local vectors that waited for their component go out (R246, R265, R342). -/
def flushDue (s : State) : State :=
  let now := s.ch.noticeDue.filter fun d => compRuns s d.comp
  let s1 := now.foldl (fun t d => postNow d.plot d.type d.body t)
    { s with ch := { s.ch with noticeDue := s.ch.noticeDue.filter fun d => !compRuns s d.comp } }
  if compRuns s 3 then
    let s2 := (bitList s.ch.localPend.toNat 64).foldl (fun t n => emit (.ch3Local n) t)
      { s1 with ch := { s1.ch with localPend := 0, markDue := [] } }
    s.ch.markDue.foldl (fun t b => markOut b t) s2
  else s1

/-- Plots that are LIVE. -/
def livePlots (s : State) : List Nat := (s.hg.plots.filter fun kv => kv.2.state == .live).map (·.1)

/-- CORE_RESTARTED notices. -/
def restartNotices (c : Nat) (s : State) : State :=
  let b := natLe 1 c ++ natLe 1 (getCore s c).lastCause.toNat
  (livePlots s).foldl (fun t p => postNotice 0 p 0x8005 b t) s

/-- The CORE_RESTART message (R251). -/
def execCoreRestart (p : Nat) (s : State) : Res :=
  serve p (· == 0x0040) true 1 [] []
    (fun b s =>
      let c := leAt b 0 1
      if 1 ≤ c ∧ c ≤ 3 then respond 0 stOk [] (startRestart c 2 s) else respond 0 stBadArg [] s) s

/-- SVN_COMMIT (R244). -/
def execSvnCommit (p : Nat) (s : State) : Res :=
  serve p (· == 0x0041) true 0 [] []
    (fun _ s =>
      let m := if s.ch.minSvn < s.ch.svn then s.ch.svn else s.ch.minSvn
      respond 0 stOk (natLe 4 m.toNat) { s with ch := { s.ch with minSvn := m } }) s

/-! ## The persistent record (R259, R260) -/

/-- First byte of record bank `b` in flash (Table 14-9). -/
def bankBase (b : Bool) : Nat := 0x02100000 + 0x10000 * b2n b

/-- The bank that holds the newest valid record. -/
def newestBank (s : State) : Option Bool := if s.ch.validA || s.ch.validB then some s.ch.newest else none

/-- The bank that a record write goes to. -/
def targetBank (s : State) : Bool := match newestBank s with | some b => !b | none => false

/-- SEQ of the snapshot that the record memory holds and that was not copied yet, where it holds one (R279). -/
def newSnap (s : State) : Option (BitVec 16) :=
  let m := memRead memDefault s.sb.recMem 0 56
  let q := bv 16 (leAt m 52 4)
  if s.sb.status.getLsbD 63 = false ∧ leAt m 0 4 = 0x534E4150 ∧ q ≠ s.ch.lastSnapCopied then some q else none

/-- The four snapshots of the next record: the present ones, behind a new one where there is one (R279). -/
def nextSnapshots (s : State) : List Byte :=
  let old := match newestBank s with
    | some b => readFlash s (bankBase b + 1024) 16384
    | none => List.replicate 16384 0
  if (newSnap s).isSome then memRead memDefault s.sb.recMem 0 4096 ++ old.take 12288 else old

/-- The calibration values in force: those changed since boot, else the newest record's, else the factory's (R261). -/
def calibration (s : State) : List Byte :=
  match s.ch.calib, newestBank s with
  | some c, _ => padTo 8192 c
  | none, some b => readFlash s (bankBase b + 17408) 8192
  | none, none => (List.range 8192).map Config.factoryCalibration

/-- Bytes 16 to 65,535 of the next record. -/
def recordTail (s : State) : List Byte :=
  padTo 1008 (natLe 2 1 ++ [0, 0] ++ natLe 12 (s.pi.health.toNat / 2 ^ 32)) ++ nextSnapshots s ++ calibration s
    ++ List.replicate (65536 - 25600) 0

/-- A whole record with its SEQ. -/
def recordBytes (s : State) (seq : Nat) : List Byte :=
  let head := natLe 4 0x52454344 ++ natLe 2 1 ++ [0, 0] ++ natLe 4 seq
  let tail := recordTail s
  head ++ natLe 4 (crc32c (head ++ tail)).toNat ++ tail

/-- A bank is erased. -/
def eraseBank (b : Bool) (s : State) : State :=
  { s with flash := tblClear (bankBase b) (bankBase b + 0x10000) s.flash
           ch := if b then { s.ch with validB := false } else { s.ch with validA := false } }

/-- The record is written to its bank, which becomes the newest valid one. -/
def storeRecord (s : State) : State :=
  let b := targetBank s
  let seq := match newestBank s with | some _ => s.ch.recSeq.toNat + 1 | none => 1
  let s1 := { s with flash := memWrite flashDefault s.flash (bankBase b) (recordBytes s seq) }
  { s1 with ch := { s1.ch with recSeq := bv 32 seq, newest := b, recordWant := false
                               validA := s1.ch.validA || !b, validB := s1.ch.validB || b
                               lastSnapCopied := (newSnap s).getD s.ch.lastSnapCopied } }

/-- CH0 reads the record memory when it holds a snapshot that was not copied: a corrected read counts in CORR, an
uncorrectable one sets source 63, and that snapshot is not copied (R279, R280). -/
def readRecordMem (found : ScrubFind) (s : State) : State :=
  match newSnap s with
  | none => s
  | some q =>
    match found with
    | .clean => s
    | .corrected => { s with sb := { s.sb with recCorr := incHold s.sb.recCorr } }
    | .uncorrectable => raise 63 none { s with ch := { s.ch with lastSnapCopied := q } }

/-- Firmware has changed the calibration values, which a record write follows (R260). -/
def takeCalibration (cal : Option (List Byte)) (s : State) : State :=
  match cal with
  | some c => { s with ch := { s.ch with calib := some (padTo 8192 (c.take 8192)), recordWant := true } }
  | none => s

/-- PERSISTENT_RECORD_WRITE (R260): the input tells what CH0's read of the record memory meets, and the calibration values
that firmware has changed, `ok1` and `ok2` whether the first and the second try verify. While VFLASH is out of range
nothing verifies and flash keeps its content (R369). -/
def execPersistentRecordWrite (i : RecordInput) (ok1 ok2 : Bool) (s : State) : Res :=
  .next (
    if (s.ch.recordWant = false ∧ i.cal = none) ∨ compRuns s 0 = false ∨ awake s [dChimney] = false then s
    else
      let s0 := readRecordMem i.found (takeCalibration i.cal s)
      if s.pins.vflash && (ok1 || ok2) then storeRecord s0
      else
        let s1 := if s.pins.vflash then eraseBank (targetBank s0) s0 else s0
        raise 52 none { s1 with ch := { s1.ch with recordWant := false, writeFail := true } })

end Sys2Proof.Machine
end

