-- ==== Sys2Proof/Machine/Invoke.lean ====
section
/-!
DEFINITION. Firing lists: registration, state pages, residency (11_chimney_firmware R253 to R258,
06_basin_and_sluices R129 to R131), and invocations (07_furrows_and_descriptors R166 to R168). Commands
INVOKE, INVOKE_ADMIT, BATCH_CLOSE, LIST_REGISTER, LIST_UNREGISTER, LIST_RESIDE, STATE_CREATE, STATE_DESTROY,
RESIDENCY_COPY, RESIDENCY_RELEASE.
-/
namespace Sys2Proof.Machine

/-! ## The list table -/

def listDef : Nat → Option FiringList := fun _ => none
def getList (s : State) (id : Nat) : Option FiringList := tblGet listDef s.ch.lists id
def setList (s : State) (id : Nat) (x : Option FiringList) : State :=
  { s with ch := { s.ch with lists := tblSet listDef s.ch.lists id x } }
def modList (id : Nat) (g : FiringList → FiringList) (s : State) : State := setList s id ((getList s id).map g)

/-- A plot's lists, with their identifiers. -/
def listsOf (s : State) (p : Nat) : List (Nat × FiringList) :=
  s.ch.lists.filterMap fun kv => match kv.2 with
    | some l => if l.plot = p then some (kv.1, l) else none
    | none => none

def pageDef : Nat → Option StatePage := fun _ => none
def getPage (s : State) (id : Nat) : Option StatePage := tblGet pageDef s.ch.pages id
def setPage (s : State) (id : Nat) (x : Option StatePage) : State :=
  { s with ch := { s.ch with pages := tblSet pageDef s.ch.pages id x } }
def pagesOf (s : State) (p : Nat) : List (Nat × StatePage) :=
  s.ch.pages.filterMap fun kv => match kv.2 with
    | some g => if g.plot = p then some (kv.1, g) else none
    | none => none

/-! ## Header and I/O table (Tables 11-11, 11-12) -/

def hdrLayers (h : List Byte) : Nat := leAt h 6 2
def hdrTotal (h : List Byte) : Nat := leAt h 8 4
def hdrNio (h : List Byte) : Nat := leAt h 12 2
def hdrMaxRows (h : List Byte) : Nat := leAt h 14 2 + 1
def hdrBuf (h : List Byte) : Nat := leAt h 16 4
def hdrState (h : List Byte) : Nat := leAt h 20 4
def hdrStageOff (h : List Byte) : Nat := leAt h 24 4
def hdrStageSize (h : List Byte) : Nat := leAt h 28 4
def hdrLayerOff (h : List Byte) : Nat := leAt h 32 4
def hdrBatchable (h : List Byte) : Bool := bitAt (leAt h 36 1) 0

/-- The fields of a header that stand alone. -/
def headOk (h : List Byte) : Bool :=
  leAt h 0 4 == 0x4C495346 && leAt h 4 2 == 1
    && decide (1 ≤ hdrLayers h) && decide (hdrLayers h ≤ 4096) && hdrTotal h % 64 == 0
    && decide (1 ≤ hdrNio h) && decide (hdrNio h ≤ 16)
    && decide (hdrStageOff h + hdrStageSize h ≤ hdrBuf h)
    && hdrLayerOff h % 128 == 0 && decide (hdrLayerOff h + 128 * hdrLayers h ≤ hdrTotal h)
    && decide (64 + 32 * hdrNio h ≤ hdrTotal h)
    && decide (leAt h 36 1 ≤ 1) && ((h.drop 37).take 23).all (· == 0)

/-- The CRC of an image (Table 11-11). -/
def listCrcOk (img : List Byte) : Bool :=
  (crc32c (putBytes img 60 [0, 0, 0, 0])).toNat == leAt img 60 4

/-- An I/O entry. -/
structure IoEntry where
  output : Bool
  fmt : Nat
  cols : Nat
  off : Nat
  stride : Nat
  deriving DecidableEq, Repr

def ioAt (h : List Byte) (i : Nat) : IoEntry :=
  let b := 64 + 32 * i
  { output := leAt h b 1 == 1, fmt := leAt h (b + 1) 1, cols := leAt h (b + 4) 4, off := leAt h (b + 8) 4
    stride := leAt h (b + 12) 4 }

/-- Bytes of one row of an I/O entry. -/
def IoEntry.rowSize (e : IoEntry) : Nat := e.cols * (fmtOr e.fmt).size

/-- An I/O entry of an image is legal; its rows lie in the working buffer. -/
def ioOk (h : List Byte) (i : Nat) : Bool :=
  let e := ioAt h i
  let b := 64 + 32 * i
  decide (leAt h b 1 ≤ 1) && isLAny e.fmt && leAt h (b + 2) 2 == 0 && ((h.drop (b + 16)).take 16).all (· == 0)
    && decide (1 ≤ e.cols) && decide (e.rowSize ≤ e.stride)
    && decide (e.off + (hdrMaxRows h - 1) * e.stride + e.rowSize ≤ hdrBuf h)

/-! ## Layers (R168, R254) -/

/-- The descriptor that a layer stands for, PREC's formats in place of the body's. The fusion format, which
PREC does not name, is OUT_FMT (DEDUCED). Address fields keep their tags. -/
def layerBytes (l : List Byte) : List Byte :=
  let c := leAt l 0 1
  let p := leAt l 2 2
  let a := bitField p 0 4
  let w := bitField p 4 4
  let o := bitField p 8 4
  let b := padTo 128 (padTo 32 (natLe 1 c) ++ l.drop 32)
  let hi := fun (off : Nat) => byteField b off 4 4
  if c = 0x08 then
    putBytes (putBytes b 40 (natLe 1 (a + 16 * w))) 42 (natLe 1 (o + 16 * hi 42) ++ natLe 1 (o + 16 * hi 43))
  else if c = 0x09 then putBytes b 33 (natLe 1 (a + 16 * w) ++ natLe 1 (w + 16 * o))
  else putBytes b 34 (natLe 1 (a + 16 * o))

/-- Byte offsets of a layer's Basin address fields. -/
def addrFields (b : List Byte) : List Nat :=
  let c := leAt b 0 1
  if c = 0x08 then [48, 52, 56, 60, 76, 84]
  else if c = 0x09 then [40, 48, 56, 64, 72]
  else
    let d := sluiceDesc b
    (if d.src = 1 then [48] else []) ++ (if d.dst = 1 then [56] else []) ++ [72]

def tagAt (b : List Byte) (off : Nat) : Nat := leAt b off 4 / 2 ^ 30
def offAt (b : List Byte) (off : Nat) : Nat := leAt b off 4 % 2 ^ 30

/-- A layer's bytes with every address field changed. -/
def mapAddrs (g : Nat → Nat) (b : List Byte) : List Byte :=
  (addrFields b).foldl (fun x off => putBytes x off (natLe 4 (g off))) b

/-- The Basin address fields that a layer uses, with the extents they reach in their regions. -/
def layerUses (b : List Byte) : List (Nat × Range) :=
  let x := mapAddrs (offAt b) b
  let all : List (Nat × Range) :=
    if leAt b 0 1 = 0x08 then
      let g := gemmDesc x
      let ra := gemmRanges g (geoOf false g)
      [(48, ra.1), (52, ra.2)] ++ (if g.hold then [] else
        [(56, readScaleRange g.out), (60, readOutRange g.out), (76, readFuseRange g.out), (84, readStatRange g.out)])
    else if leAt b 0 1 = 0x09 then
      let d := flueDesc x
      [(40, aRange d), (48, bRange d), (56, cRange d), (64, outRange d), (72, maskRange d)]
    else
      let d := sluiceDesc x
      (if d.src = 1 then [(48, d.srcRange)] else []) ++ (if d.dst = 1 then [(56, d.dstRange)] else [])
        ++ [(72, d.indexRange)]
  all.filter fun u => u.2.n ≠ 0

/-- The span of the image that a layer's tag-1 fields reach: first byte and length. -/
def tagSpan (b : List Byte) : Range :=
  let us := ((layerUses b).filter fun u => tagAt b u.1 == 1).map (·.2)
  match us with
  | [] => ⟨0, 0⟩
  | u :: t =>
    let lo := t.foldl (fun m r => min m r.a) u.a
    let hi := t.foldl (fun m r => max m (r.a + r.n)) (u.a + u.n)
    ⟨lo, hi - lo⟩

/-- Where a list's regions lie in the Basin window. -/
structure Places where
  work : Nat
  stage : Nat
  res : Option Nat
  page : Nat
  deriving DecidableEq, Repr

/-- Window offset of a tagged address; one that leaves 32 bits lies outside every window. -/
def placeAddr (q : Places) (lo : Nat) (b : List Byte) (off : Nat) : Nat :=
  let o := offAt b off
  let v := match tagAt b off with
    | 0 => q.work + o
    | 1 => (match q.res with | some r => r + o | none => q.stage + (o - lo))
    | 2 => q.page + o
    | _ => 0xFFFFFFC0
  min v 0xFFFFFFC0

/-- A layer's descriptor with window offsets. -/
def placeLayer (q : Places) (l : List Byte) : List Byte :=
  let b := layerBytes l
  mapAddrs (placeAddr q (tagSpan b).a b) b

/-- The parts of a layer that R168 fixes. -/
def layerFixedOk (h l : List Byte) : Bool :=
  let c := leAt l 0 1
  let p := leAt l 2 2
  let b := layerBytes l
  let d := sluiceDesc b
  (c == 0x08 || c == 0x09 || c == 0x0A) && leAt l 1 1 == 0 && leAt l 4 4 == 0 && leAt l 28 4 == 0
    && decide (p < 2 ^ 13)
    && (!bitAt p 12 || (c == 0x08 && isExact (fmtOr (bitField p 0 4)) (fmtOr (bitField p 4 4))))
    && (c != 0x0A || (bitField p 4 4 == 0 && moveForm b == 0
          && ((d.src == 1 && d.dst == 2) || (d.src == 2 && d.dst == 1))))
    && (layerUses b).all (fun u => tagAt b u.1 != 3 && (tagAt b u.1 != 2 || hdrState h != 0))
    && decide ((tagSpan b).n ≤ hdrStageSize h) && decide ((tagSpan b).a + (tagSpan b).n ≤ hdrTotal h)
    && !(hdrBatchable h && c == 0x08 && !(gemmDesc b).hold && (gemmDesc b).out.reduce != .none && (gemmDesc b).out.axisCol)

/-- The tile with the windows that an operation of plot `p` captured at its dispatch, against which it is checked
(R199). -/
def underWindow (p basin hbm : Nat) (s : State) : State :=
  modPlot p (fun x => { x with basinSize := bv 10 (basin / 2 ^ 20), hbmSize := bv 10 (hbm / 2 ^ 28) }) s

/-- The dispatch checks of an operation that a list or an invocation makes. -/
def partCode (s : State) (f : Nat) (o : Op) : Nat :=
  if o.opcode = 0x08 then gemmCheck s f o
  else if o.opcode = 0x09 then flueCheck s (furPlot s f) o.binds (flueDesc o.bytes) o.snapshot
  else moveCheck s f o

/-- A layer as an operation. -/
def layerOp (id : Nat) (ticket : BitVec 48) (binds : List (Nat × Nat)) (q : Places) (l : List Byte) : Op :=
  { id := id, opcode := leAt l 0 1, ticket := ticket, bytes := placeLayer q l, snapTaken := true
    snapshot := (l.drop 8).take 20, binds := binds }

/-- A layer meets the field rules of its opcode: its formats and fields. -/
def layerFieldsOk (s : State) (q : Places) (l : List Byte) : Bool :=
  let c := partCode s 0 (layerOp 0 0 [] q l)
  c != rFormat && c != rFieldRange

/-- Layer `i` of an image. -/
def layerAt (h img : List Byte) (i : Nat) : List Byte := (img.drop (hdrLayerOff h + 128 * i)).take 128

/-- The checks of R253 on a whole image. -/
def imageListOk (s : State) (work : Nat) (img : List Byte) : Bool :=
  let q : Places := ⟨work, work + hdrStageOff img, none, 0⟩
  headOk img && listCrcOk img && (List.range (hdrNio img)).all (ioOk img)
    && (List.range (hdrLayers img)).all fun i =>
        layerFixedOk img (layerAt img img i) && layerFieldsOk s q (layerAt img img i)

/-! ## Residency (R129 to R131, R258) -/

def resUnit : Nat := 65536

/-- Ranges of a plot's resident images. -/
def resRanges (s : State) (p : Nat) : List Range :=
  (listsOf s p).filterMap fun x => x.2.resident.map fun r => ⟨r, roundUp (hdrTotal x.2.head) resUnit⟩

/-- The first 64 KiB-aligned place of the region with room for `n` bytes. -/
def freePlace (s : State) (p n : Nat) : Option Nat :=
  let x := getPlot s p
  let base := x.resBase.toNat * 2 ^ 20
  ((List.range (16 * x.resSize.toNat)).map fun k => base + resUnit * k).find? fun a =>
    decide (a + n ≤ base + x.resSize.toNat * 2 ^ 20) && (resRanges s p).all fun r => !r.meets ⟨a, n⟩

/-- LEVEL changed by a list's size in 64 KiB units; an increase that ends above MARK sets NOTICE. -/
def changeLevel (p : Nat) (up : Bool) (n : Nat) (s : State) : State :=
  modPlot p (fun x =>
    let k := roundUp n resUnit / resUnit
    let lv := if up then x.resLevel + bv 14 k else x.resLevel - bv 14 k
    { x with resLevel := lv, resNotice := x.resNotice || (up && decide (x.resMark < lv)) }) s

/-- List `id` becomes resident where its region has room and its image can be read. -/
def makeResident (id : Nat) (l : FiringList) (s : State) : State × Bool :=
  let n := hdrTotal l.head
  match freePlace s l.plot (roundUp n resUnit) with
  | none => (s, false)
  | some r =>
    if readBad true s (hbmAddr s l.plot l.base) n then (memUncorr true (some l.plot) s, false)
    else
      let s1 := putMem false s (basinAddr s l.plot r) (readMem true s (hbmAddr s l.plot l.base) n)
      (postNotice 2 l.plot 0x8003 (natLe 4 id ++ [1])
        (changeLevel l.plot true n (modList id (fun l => { l with resident := some r }) s1)), true)

/-- A resident list is released. -/
def dropResident (id : Nat) (l : FiringList) (s : State) : State :=
  if l.resident.isSome then
    postNotice 2 l.plot 0x8003 (natLe 4 id ++ [0])
      (changeLevel l.plot false (hdrTotal l.head) (modList id (fun l => { l with resident := none }) s))
  else s

/-- An invocation uses the list. -/
def FiringList.inUse (l : FiringList) : Bool := l.opened.isSome || !l.closed.isEmpty

/-- The AUTO list not in use that was invoked least recently. -/
def oldestAuto (s : State) (p except : Nat) : Option (Nat × FiringList) :=
  ((listsOf s p).filter fun x => x.1 != except && x.2.mode == 1 && x.2.resident.isSome && !x.2.inUse).foldl
    (fun best x => match best with
      | none => some x
      | some y => if x.2.lastUse < y.2.lastUse then some x else best) none

/-- AUTO lists not in use are released until the region has room. -/
def makeRoom (id : Nat) (l : FiringList) : Nat → State → State
  | 0, s => s
  | n + 1, s =>
    if (freePlace s l.plot (roundUp (hdrTotal l.head) resUnit)).isSome then s
    else match oldestAuto s l.plot id with
      | none => s
      | some (k, x) => makeRoom id l n (dropResident k x s)

/-- The domains that a residency copy needs. -/
def copyNeeds : List Nat := [dFront, dBasin, dHbm]

/-- A Sluice channel can take a MOVE of plot `p` (R132). -/
def sluiceFree (s : State) (p : Nat) : Bool :=
  (freeChannel s).isSome && decide (plotChannels s p < (getPlot s p).sluiceMax.toNat)

/-- RESIDENCY_COPY (R258): CH2 makes an AUTO list of plot `p` resident. -/
def execResidencyCopy (p l : Nat) (s : State) : Res :=
  .next (
    match getList s l with
    | none => s
    | some x =>
      if x.plot ≠ p ∨ x.mode ≠ 1 ∨ x.doomed ∨ x.resident.isSome ∨ compRuns s 2 = false ∨ (getPlot s p).state ≠ .live then s
      else if awake s copyNeeds = false then ignite copyNeeds s
      else if sluiceFree s p = false then s
      else (makeResident l x (makeRoom l x 64 s)).1)

/-- RESIDENCY_RELEASE (R131): a list that is not pinned is released once no invocation uses it. -/
def execResidencyRelease (p l : Nat) (s : State) : Res :=
  .next (
    match getList s l with
    | none => s
    | some x =>
      if x.plot = p ∧ x.mode ≠ 2 ∧ x.inUse = false ∧ compRuns s 2 ∧ (getPlot s p).state = .live then dropResident l x s
      else s)

/-! ## Registration (R253) -/

/-- Working buffers and state pages of a plot. -/
def bufRanges (s : State) (p : Nat) : List Range :=
  (listsOf s p).map (fun x => ⟨x.2.workBase, hdrBuf x.2.head⟩) ++ (pagesOf s p).map fun x => ⟨x.2.base, x.2.size⟩

/-- A range of the window outside the residency region and apart from buffers and pages. -/
def bufferFree (s : State) (p : Nat) (r : Range) : Bool :=
  r.within (basinWin s p) && !meetsRes s p r && (bufRanges s p).all fun x => !x.meets r

/-- The response of a registration: the new identifier. -/
def registerList (p : Nat) (l : FiringList) (s : State) : State :=
  let id := s.ch.nextList
  let s1 := setList { s with ch := { s.ch with nextList := id + 1 } } id (some l)
  let ok := fun t => respond p stOk (natLe 4 id) t
  if l.mode = 2 then
    let r := makeResident id l s1
    if r.2 then ok r.1 else respond p stNoSpace [] (setList r.1 id none)
  else ok s1

/-- LIST_REGISTER acts; one that pins waits for a Sluice channel. -/
def registerAct (p : Nat) (b : List Byte) (s : State) : State :=
  let off := leAt b 0 8
  let work := leAt b 8 4
  let mode := leAt b 12 1
  let wait := leAt b 14 2
  let a := hbmAddr s p off
  let win := hbmWin s p
  if 2 < mode ∨ 1000 < wait ∨ off % 64 ≠ 0 ∨ win < off + 64 then respond p stBadArg [] s
  else if readBad true s a 64 then respond p stInvalidList [] (memUncorr true (some p) s)
  else
    let h := readMem true s a 64
    let n := hdrTotal h
    if headOk h = false then respond p stInvalidList [] s
    else if win < off + n then respond p stBadArg [] s
    else if readBad true s a n then respond p stInvalidList [] (memUncorr true (some p) s)
    else
      let img := readMem true s a n
      if imageListOk s work img = false then respond p stInvalidList [] s
      else if bufferFree s p ⟨work, hdrBuf h⟩ = false then respond p stBadArg [] s
      else if 64 ≤ (listsOf s p).length then respond p stNoSpace [] s
      else if mode = 2 ∧ sluiceFree s p = false then s
      else
        registerList p { plot := p, head := img.take (64 + 32 * hdrNio h), base := off, workBase := work, waitUs := wait
                         mode := mode, resident := none, opened := none, closed := [], lastUse := 0, doomed := false } s

/-- LIST_REGISTER (R253). -/
def execListRegister (p : Nat) (s : State) : Res := serve p (· == 0x0020) false 16 [2] copyNeeds (registerAct p) s

/-- A list of a plot that a request may name. -/
def namedList (s : State) (p id : Nat) : Option FiringList :=
  (getList s id).filter fun l => l.plot == p && !l.doomed

/-- LIST_RESIDE acts (R258). -/
def resideAct (p : Nat) (b : List Byte) (s : State) : State :=
  let id := leAt b 0 4
  let mode := leAt b 4 1
  match namedList s p id with
  | none => respond p stNotFound [] s
  | some l =>
    if 2 < mode then respond p stBadArg [] s
    else if mode = 2 ∧ l.resident = none then
      (if awake s copyNeeds = false then ignite copyNeeds s
       else if sluiceFree s p = false then s
       else
         let r := makeResident id l s
         if r.2 then respond p stOk [] (modList id (fun l => { l with mode := 2 }) r.1) else respond p stNoSpace [] r.1)
    else respond p stOk [] (modList id (fun l => { l with mode := mode }) s)

/-- LIST_RESIDE (R258). -/
def execListReside (p : Nat) (s : State) : Res := serve p (· == 0x0022) false 5 [2] [dFront] (resideAct p) s

/-! ## State pages (R257) -/

/-- STATE_CREATE acts. -/
def pageCreateAct (p : Nat) (b : List Byte) (s : State) : State :=
  let base := leAt b 4 4
  match namedList s p (leAt b 0 4) with
  | none => respond p stNotFound [] s
  | some l =>
    let n := hdrState l.head
    if n = 0 ∨ base % 64 ≠ 0 ∨ bufferFree s p ⟨base, n⟩ = false then respond p stBadArg [] s
    else if 4096 ≤ (pagesOf s p).length then respond p stNoSpace [] s
    else
      let id := s.ch.nextPage
      respond p stOk (natLe 4 id)
        (setPage { s with ch := { s.ch with nextPage := id + 1 } } id
          (some { plot := p, base := base, size := n, list := leAt b 0 4 }))

/-- STATE_CREATE (R257). -/
def execStateCreate (p : Nat) (s : State) : Res := serve p (· == 0x0030) false 8 [2] [dFront] (pageCreateAct p) s

/-- An admitted invocation uses a state page. -/
def pageInUse (s : State) (id : Nat) : Bool :=
  s.ch.lists.any fun kv => match kv.2 with
    | some l => (l.opened.toList ++ l.closed).any fun b => b.page.isSome && b.pageId == id
    | none => false

/-- STATE_DESTROY acts, once no admitted invocation uses the page. -/
def pageDestroyAct (p : Nat) (b : List Byte) (s : State) : State :=
  let id := leAt b 0 4
  match getPage s id with
  | none => respond p stNotFound [] s
  | some g =>
    if g.plot ≠ p then respond p stNotFound [] s
    else if pageInUse s id then s
    else respond p stOk [] (setPage s id none)

/-- STATE_DESTROY (R257). -/
def execStateDestroy (p : Nat) (s : State) : Res := serve p (· == 0x0031) false 4 [2] [dFront] (pageDestroyAct p) s

/-! ## Withdrawal (R251) -/

/-- A list goes, with its residency; an unregistration that waits for it is answered. -/
def removeList (id : Nat) (s : State) : State :=
  match getList s id with
  | none => s
  | some l =>
    let s1 := setList (dropResident id l s) id none
    let m := (getPlot s1 l.plot).mail
    if m.pending && m.begun && msgType m.held == 0x0021 && leAt m.held 16 4 == id && compRuns s1 0
      then respond l.plot stOk [] s1 else s1

/-- A withdrawn list that nothing uses any more goes. -/
def settleList (id : Nat) (s : State) : State :=
  match getList s id with
  | some l => if l.doomed && !l.inUse then removeList id s else s
  | none => s

/-- Members of batches rejected with LIST. -/
def rejectBatches (bs : List Batch) (s : State) : State :=
  (bs.flatMap (·.members)).foldl (fun t m => completeOp m.1 m.2.1 rList false t) s

/-- INVOKEs of a plot that wait for the admission to list `id`. -/
def unadmitted (s : State) (p id : Nat) : List (Nat × Op) :=
  (plotFurs s p).flatMap fun f =>
    ((getFur s f).queue.filter fun o => o.phase == .waiting && o.opcode == 0x0B && o.prog.pass == 0
      && (invokeDesc o.bytes).listId == id).map fun o => (f, o)

/-- LIST_UNREGISTER acts: the list is withdrawn at once, what waits for it is rejected, the invocation that
holds it completes before the response. -/
def unregisterAct (p : Nat) (b : List Byte) (s : State) : State :=
  let id := leAt b 0 4
  if (getPlot s p).mail.begun then (if (getList s id).isSome then s else respond p stOk [] s)
  else match namedList s p id with
    | none => respond p stNotFound [] s
    | some l =>
      let drop := match l.closed with
        | _ :: t => t ++ l.opened.toList
        | [] => []
      let keepOpen := if l.closed.isEmpty then l.opened else none
      let s1 := (unadmitted s p id).foldl (fun t x => completeOp x.1 x.2.id rList false t) (rejectBatches drop s)
      let s2 := modList id (fun l => { l with doomed := true, closed := l.closed.take 1, opened := keepOpen }) s1
      settleList id (modMail p (fun m => { m with begun := true }) s2)

/-- LIST_UNREGISTER (R251). -/
def execListUnregister (p : Nat) (s : State) : Res := serve p (· == 0x0021) false 4 [2] [dFront] (unregisterAct p) s

/-! ## Bindings (R166, R167) -/

/-- A Sluice MOVE's bytes. -/
def moveBytes (src dst : Nat) (conv : Bool) (sf df rows len sa da ss ds : Nat) : List Byte :=
  padTo 128 (padTo 32 (natLe 1 0x0A) ++ natLe 1 0 ++ natLe 1 (src + 4 * dst + 16 * b2n conv) ++ natLe 1 (sf + 16 * df)
    ++ [0] ++ natLe 2 (rows - 1) ++ [0, 0] ++ natLe 4 len ++ natLe 4 0 ++ natLe 8 sa ++ natLe 8 da ++ natLe 4 ss ++ natLe 4 ds)

/-- A FLUE COPY's bytes. -/
def copyBytes (af of rows cols a astr o ostr : Nat) : List Byte :=
  padTo 128 (padTo 32 (natLe 1 0x09) ++ natLe 1 0 ++ natLe 1 af ++ natLe 1 (16 * of) ++ [0] ++ natLe 2 (rows - 1)
    ++ natLe 2 (cols - 1) ++ natLe 4 a ++ natLe 4 astr ++ List.replicate 16 0 ++ natLe 4 o ++ natLe 4 ostr)

/-- The operation that moves `rows` rows of a binding, from row `row0` of the working buffer on. -/
def bindOp (work row0 rows : Nat) (b : Binding) (e : IoEntry) : Op :=
  let w := work + e.off + row0 * e.stride
  let raw := b.fmt == e.fmt
  let len := if raw then e.rowSize else e.cols
  let bytes :=
    if b.space = 1 then
      (if e.output then copyBytes e.fmt b.fmt rows e.cols w e.stride b.addr b.stride
       else copyBytes b.fmt e.fmt rows e.cols b.addr b.stride w e.stride)
    else if e.output then moveBytes 1 b.space (!raw) e.fmt b.fmt rows len w b.addr e.stride b.stride
    else moveBytes b.space 1 (!raw) b.fmt e.fmt rows len b.addr w b.stride e.stride
  { id := 0, opcode := if b.space = 1 then 0x09 else 0x0A, ticket := 0, bytes := bytes, snapTaken := true }

/-- The bindings in use. -/
def usedBinds (o : Op) : List Binding := (invokeBindings o.bytes o.snapshot).filter fun b => b.io != 0xFF

/-- A binding's range lies in its window. -/
def bindWithin (s : State) (p rows : Nat) (b : Binding) (e : IoEntry) : Bool :=
  spaceWithin s p b.space (rowRange b.addr rows (e.cols * (fmtOr b.fmt).size) b.stride)

/-- A BASIN binding whose format and width the list step admits. An edge FMT or a COLS above 65,536 gives LIST (R167); a
weight-only FMT gives LIST too, the model's choice (log 105). -/
def basinBindOk (b : Binding) (e : IoEntry) : Bool :=
  b.space != 1 || (isLAny b.fmt && decide (e.cols ≤ 65536))

/-- The reject code of a binding's own move; 0 where there is none to make, which the list step refuses. -/
def bindCode (s : State) (f rows : Nat) (l : FiringList) (b : Binding) : Nat :=
  let e := ioAt l.head b.io
  if hdrNio l.head ≤ b.io ∨ basinBindOk b e = false then 0
  else partCode s f (bindOp l.workBase 0 rows b e)

/-- Every I/O entry is named by exactly one used binding, and no other index is. -/
def bindsCover (n : Nat) (bs : List Binding) : Bool :=
  bs.all (fun b => decide (b.io < n)) && (List.range n).all fun i => bs.countP (·.io == i) == 1

/-- The state page that an INVOKE names, when R255 allows it. -/
def pageOk (s : State) (p id : Nat) (l : FiringList) (page : Nat) : Bool :=
  if hdrState l.head = 0 then page == 0xFFFFFFFF
  else match getPage s page with
    | some g => g.plot == p && g.list == id
    | none => false

/-- The list step of an INVOKE (R255, R166, R167). -/
def listStep (s : State) (p : Nat) (l : FiringList) (o : Op) : Bool :=
  let d := invokeDesc o.bytes
  let bs := usedBinds o
  decide (d.rows ≤ hdrMaxRows l.head) && (decide (d.nbind ≤ 8) || decide (16 * (d.nbind - 8) ≤ descCbufLen o.bytes))
    && bindsCover (hdrNio l.head) bs && pageOk s p d.listId l d.statePage
    && bs.all fun b => basinBindOk b (ioAt l.head b.io) && bindWithin s p d.rows b (ioAt l.head b.io)

/-- The step of Table 7-10 that gives a reject code. -/
def stepOf (code : Nat) : Nat :=
  ([rCbuf, rCbufFault, rFormat, rFieldRange, rEvent, rInner, rInnerFull, rList, rWindow, rSlotMode, rSlotLease, rSlotShape,
    rStatsOff, rFlueNone, rTableEmpty, rOverlap, rOwner] : List Nat).idxOf code

/-- Of several reject codes, 0 standing for none, the one that the earliest step gives. -/
def firstStep (codes : List Nat) : Nat :=
  (codes.filter (· != 0)).foldl (fun m c => if m = 0 ∨ stepOf c < stepOf m then c else m) 0

/-- The code for an INVOKE's own fields and bindings: each step is made for all of them (R380). -/
def invokeCode (s : State) (f : Nat) (l : Option FiringList) (o : Op) : Nat :=
  let d := invokeDesc o.bytes
  let bs := usedBinds o
  let own := fun (ok : Bool) (code : Nat) => if ok then 0 else code
  firstStep ([
    own (bs.all fun b => (Fmt.ofCode b.fmt).isSome) rFormat,
    own (decide (1 ≤ d.nbind) && decide (d.nbind ≤ 16) && bs.all fun b => decide (b.space ≤ 2)) rFieldRange,
    own (match l with | some l => listStep s (furPlot s f) l o | none => false) rList]
    ++ (match l with | some l => bs.map (bindCode s f d.rows l) | none => []))

/-! ## The image as it stands (R254) -/

/-- Physical address of byte `off` of an image, in HBM or in its resident copy. -/
def imageAddr (s : State) (l : FiringList) (res : Option Nat) (off : Nat) : Nat :=
  match res with
  | some r => basinAddr s l.plot (r + off)
  | none => hbmAddr s l.plot (l.base + off)

def imageBad (s : State) (l : FiringList) (res : Option Nat) (off n : Nat) : Bool :=
  readBad res.isNone s (imageAddr s l res off) n

def imageRead (s : State) (l : FiringList) (res : Option Nat) (off n : Nat) : List Byte :=
  readMem res.isNone s (imageAddr s l res off) n

/-- Layer `i` of a list. -/
def readLayer (s : State) (l : FiringList) (res : Option Nat) (i : Nat) : List Byte :=
  imageRead s l res (hdrLayerOff l.head + 128 * i) 128

def placesOf (l : FiringList) (b : Batch) : Places :=
  ⟨l.workBase, l.workBase + hdrStageOff l.head, b.res, b.page.getD 0⟩

/-- The first nonzero code among the layers; a layer that R168 does not allow any more gives LIST. A layer is checked
against the slots as they stand at admission, not as an earlier layer of the same list will leave them (log 107). -/
def layersCode (s : State) (f : Nat) (l : FiringList) (b : Batch) : Nat :=
  ((List.range (hdrLayers l.head)).findSome? fun i =>
    let x := readLayer s l b.res i
    let c := if layerFixedOk l.head x then partCode s f (layerOp 0 0 [] (placesOf l b) x) else rList
    if c = 0 then none else some c).getD 0

/-! ## Admission (R255, R256) -/

/-- The resident copy that an invocation admitted now reads. -/
def resNow (l : FiringList) : Option Nat := if l.mode = 0 then none else l.resident

def Batch.rows (b : Batch) : Nat := b.members.foldl (fun n m => n + m.2.2) 0

/-- The furrow whose operations a batch's layers are: its first member's. -/
def Batch.fur (b : Batch) : Nat := (b.members.head?.map (·.1)).getD 0

/-- The banks that an invocation binds: the active one of every user slot (R116). -/
def allBinds (s : State) : List (Nat × Nat) := (List.range 16).map fun n => (n, b2n (getTable s n).active)

/-- The earliest dispatched INVOKE of the plot and list that waits for admission. -/
def nextAdmitted (s : State) (p id : Nat) : Option (Nat × Op) := firstOp (unadmitted s p id)

/-- A list with one more member: joined to the open batch, or in a batch of its own; a full batch closes. -/
def addMember (joins batchable : Bool) (m : Nat × Nat × Nat) (b : Batch) (l : FiringList) : FiringList :=
  if !batchable then { l with closed := l.closed ++ [b] }
  else
    let l1 := if joins then { l with opened := l.opened.map fun x => { x with members := x.members ++ [m] } }
      else { l with closed := l.closed ++ l.opened.toList, opened := some b }
    match l1.opened with
    | some x => if x.rows = hdrMaxRows l.head then { l1 with closed := l1.closed ++ [x], opened := none } else l1
    | none => l1

/-- An INVOKE of a known list is admitted or rejected. -/
def admitTo (f : Nat) (o : Op) (id : Nat) (l : FiringList) (s : State) : State :=
  let d := invokeDesc o.bytes
  let batchable := hdrBatchable l.head && hdrState l.head == 0
  let joins := batchable && (match l.opened with | some b => decide (b.rows + d.rows ≤ hdrMaxRows l.head) | none => false)
  let fresh : Batch := { members := [(f, o.id, d.rows)], res := resNow l
                         page := if hdrState l.head = 0 then none else (getPage s d.statePage).map (·.base)
                         pageId := d.statePage }
  let b := if joins then l.opened.getD fresh else fresh
  let t := underWindow l.plot o.basinSize o.hbmSize s
  let own := windowStep s f o (invokeCode t f (some l) o)
  if own ≠ 0 then (if own = rOwner then conflict 2 (completeOp f o.id own false s) else completeOp f o.id own false s)
  else if imageBad s l b.res (hdrLayerOff l.head) (128 * hdrLayers l.head) then
    completeOp f o.id rHwError false (memUncorr b.res.isNone (some l.plot) s)
  else
    let code := layersCode t (if joins then b.fur else f) l b
    if code ≠ 0 then (if code = rOwner then conflict 2 (completeOp f o.id code false s) else completeOp f o.id code false s)
    else
      let s1 := modOp f o.id (fun o => { o with binds := allBinds s, prog := { o.prog with pass := 1 } }) s
      modList id (fun l => addMember joins batchable (f, o.id, d.rows) fresh { l with lastUse := s.hg.nextOp }) s1

/-- INVOKE_ADMIT (R255): CH2 checks the INVOKE of furrow `f` whose turn it is. -/
def execInvokeAdmit (f : Nat) (s : State) : Res :=
  .next (
    match (getFur s f).queue.find? fun o => o.phase == .waiting && o.opcode == 0x0B && o.prog.pass == 0 with
    | none => s
    | some o =>
      let p := furPlot s f
      let id := (invokeDesc o.bytes).listId
      if (getPlot s p).state ≠ .live ∨ compRuns s 2 = false ∨ awake s [dFront] = false
          ∨ (nextAdmitted s p id).map (fun x => (x.1, x.2.id)) ≠ some (f, o.id) then s
      else match namedList s p id with
        | none => completeOp f o.id (invokeCode s f none o) false s
        | some l =>
          let needs := if (resNow l).isSome then [dBasin] else [dBasin, dHbm]
          if awake s needs then admitTo f o id l s else ignite needs s)

/-! ## Running an invocation (R167, R254, R256) -/

/-- A running GEMM driven to its end: rows that await read-out first. -/
def driveGemm (f id : Nat) : Nat → State → State
  | 0, s => s
  | n + 1, s =>
    match findOp s f id with
    | none => s
    | some o =>
      if o.phase ≠ .running then s
      else match o.prog.await with
        | a :: _ => driveGemm f id n (readRow f o a s)
        | [] => driveGemm f id n (runPass f o 65536 s)

/-- A running MOVE driven to its end; each host segment takes one of the host's answers. -/
def driveMove (f id : Nat) : Nat → State × List HostResp → State × List HostResp
  | 0, x => x
  | n + 1, x =>
    match findOp x.1 f id with
    | none => x
    | some o =>
      if o.phase ≠ .running then x
      else
        let d := sluiceDesc o.bytes
        let host := d.src == 0 || d.dst == 0
        driveMove f id n (segStep f o (if host then x.2.headD (.data []) else .data []) x.1, if host then x.2.drop 1 else x.2)

/-- Steps that suffice for a MOVE. -/
def moveFuel (d : SluiceDesc) : Nat := d.rows * (d.rowLen * (d.srcSize + d.dstSize) / 2048 + 4)

/-- Steps that suffice for a GEMM. -/
def gemmFuel (q : Geo) (g : GemmDesc) : Nat := 2 * (passCount q + g.m * q.nTiles) + 2

/-- What one part of an invocation came to. -/
structure PartRes where
  s : State
  resp : List HostResp
  reason : Nat
  sat : Bool
  deriving DecidableEq, Repr

/-- One part of an invocation, an operation of furrow `f`, runs whole, under the windows that `inv`, the INVOKE, captured.
It stands in the furrow's queue while it runs. -/
def runPart (f : Nat) (inv part : Op) (s : State) (resp : List HostResp) : PartRes :=
  let o := { part with id := s.hg.nextOp, ticket := inv.ticket, binds := inv.binds, basinSize := inv.basinSize, hbmSize := inv.hbmSize }
  let code := partCode (underWindow (furPlot s f) o.basinSize o.hbmSize s) f o
  if code ≠ 0 then ⟨if code = rOwner then conflict 2 s else s, resp, code, false⟩
  else
    let s1 := modFur f (fun x => { x with queue := x.queue ++ [o] }) { s with hg := { s.hg with nextOp := s.hg.nextOp + 1 } }
    let bind := modOp f o.id (fun o => { o with binds := inv.binds })
    let x : State × List HostResp :=
      if o.opcode = 0x08 then
        (driveGemm f o.id (gemmFuel (geoOf s.he.modeCur (gemmDesc o.bytes)) (gemmDesc o.bytes)) (bind (gemmStart f o s1)), resp)
      else if o.opcode = 0x09 then (runFlueRows f o.id (flueDesc o.bytes).rows (bind (flueStart f o s1)), resp)
      else
        driveMove f o.id (moveFuel (sluiceDesc o.bytes))
          (modOp f o.id (fun o => { o with phase := .running, prog := {} }) s1, resp)
    let o1 := (findOp x.1 f o.id).getD o
    let s2 := if o.opcode = 0x08 then idleFbs (slotFbs x.1 (gemmDesc o.bytes).slot) x.1 else x.1
    ⟨modFur f (fun y => { y with queue := y.queue.filter (·.id ≠ o.id) }) s2, x.2, o1.reason.toNat, opSat x.1 o1⟩

/-- A member of a running batch: furrow, operation, first row, rows, reason so far. -/
structure Member where
  f : Nat
  id : Nat
  row0 : Nat
  rows : Nat
  reason : Nat
  deriving DecidableEq, Repr

/-- Members with their places in the stack of rows. -/
def stackRows : Nat → List (Nat × Nat × Nat) → List Member
  | _, [] => []
  | n, (f, id, r) :: t => ⟨f, id, n, r, 0⟩ :: stackRows (n + r) t

/-- The bindings of one direction of one member are moved, until one fails. -/
def runBinds (l : FiringList) (output : Bool) (m : Member) (s : State) (resp : List HostResp) : PartRes :=
  match findOp s m.f m.id with
  | none => ⟨s, resp, 0, false⟩
  | some o =>
    (usedBinds o).foldl (fun r b =>
      let e := ioAt l.head b.io
      if r.reason ≠ 0 ∨ e.output ≠ output then r
      else runPart m.f o (bindOp l.workBase m.row0 m.rows b e) r.s r.resp) ⟨s, resp, 0, false⟩

/-- One direction of every member that has not failed. -/
def runMembers (l : FiringList) (output : Bool) : List Member → State → List HostResp → State × List HostResp × List Member
  | [], s, resp => (s, resp, [])
  | m :: t, s, resp =>
    if m.reason ≠ 0 then
      let q := runMembers l output t s resp
      (q.1, q.2.1, m :: q.2.2)
    else
      let r := runBinds l output m s resp
      let q := runMembers l output t r.s r.resp
      (q.1, q.2.1, { m with reason := r.reason } :: q.2.2)

/-- The span of the image that a layer reaches is copied into the stage area, and nothing more (R254); false where a word
could not be read, or not merged into. -/
def stageSpan (l : FiringList) (b : Batch) (layer : List Byte) (s : State) : State × Bool :=
  let r := tagSpan (layerBytes layer)
  if b.res.isSome ∨ r.n = 0 then (s, true)
  else
    let a := imageAddr s l none r.a
    let k := readable s true a 1 r.n
    let w := writeMem false s (basinAddr s l.plot (l.workBase + hdrStageOff l.head)) (readMem true s a k)
    if w.2 then (memUncorr false (some l.plot) w.1, false)
    else if k < r.n then (memUncorr true (some l.plot) w.1, false) else (w.1, true)

/-- One layer runs, as a part of the batch's first INVOKE. -/
def runLayer (l : FiringList) (b : Batch) (inv : Op) (i : Nat) (s : State) : PartRes :=
  let bad := fun (hbm : Bool) (t : State) => (⟨memUncorr hbm (some l.plot) t, [], rHwError, false⟩ : PartRes)
  if imageBad s l b.res (hdrLayerOff l.head + 128 * i) 128 then bad b.res.isNone s
  else
    let x := readLayer s l b.res i
    if layerFixedOk l.head x = false then ⟨s, [], rList, false⟩
    else
      let q := stageSpan l b x s
      if q.2 = false then ⟨q.1, [], rHwError, false⟩
      else runPart b.fur inv (layerOp 0 inv.ticket inv.binds (placesOf l b) x) q.1 []

/-- The layers in order, until one fails. -/
def runLayers (l : FiringList) (b : Batch) (inv : Op) (s : State) : PartRes :=
  (List.range (hdrLayers l.head)).foldl (fun r i =>
    if r.reason ≠ 0 then r
    else
      let q := runLayer l b inv i r.s
      { q with sat := r.sat || q.sat }) ⟨s, [], 0, false⟩

/-- A batch runs whole: input bindings, layers, output bindings; then every member completes. -/
def runBatch (id : Nat) (l : FiringList) (b : Batch) (resp : List HostResp) (s : State) : State :=
  let lead := b.members.head?.bind fun m => findOp s m.1 m.2.1
  let a := runMembers l false (stackRows 0 b.members) s resp
  let r : PartRes := match lead with
    | some inv => if a.2.2.all (·.reason ≠ 0) then ⟨a.1, [], 0, false⟩ else runLayers l b inv a.1
    | none => ⟨a.1, [], 0, false⟩
  let ms := a.2.2.map fun m => if m.reason = 0 then { m with reason := r.reason } else m
  let c := runMembers l true ms r.s a.2.1
  let s1 := modList id (fun l => { l with closed := l.closed.drop 1 }) c.1
  settleList id (c.2.2.foldl (fun t m => completeOp m.f m.id m.reason r.sat t) s1)

/-- The layers of a list as they stand. -/
def layersNow (s : State) (l : FiringList) (b : Batch) : List (List Byte) :=
  (List.range (hdrLayers l.head)).map fun i => layerBytes (readLayer s l b.res i)

/-- Slots that a list's GEMM layers name. -/
def layerSlots (ls : List (List Byte)) : List Nat :=
  (ls.filterMap fun x => if leAt x 0 1 = 0x08 then some (gemmDesc x).slot else none).eraseDups

/-- A member's bindings use a space. -/
def bindSpace (s : State) (b : Batch) (space : Nat) : Bool :=
  b.members.any fun m => match findOp s m.1 m.2.1 with
    | some o => (usedBinds o).any (·.space == space)
    | none => false

/-- The domains that an invocation needs: HBM only where something lies there. -/
def batchNeeds (s : State) (l : FiringList) (b : Batch) : List Nat :=
  let ls := layersNow s l b
  let hbm := b.res.isNone || ls.any (fun x => leAt x 0 1 == 0x0A) || bindSpace s b 2
  let flue := ls.any (fun x => leAt x 0 1 == 0x09) || bindSpace s b 1
  [dFront, dBasin] ++ (if hbm then [dHbm] else []) ++ ((layerSlots ls).flatMap fun n => (slotFbs s n).map dFb)
    ++ (if flue then flueNeeds s else [])

/-- An invocation moves data by Sluice: for a binding that is not in Basin, a MOVE layer, or a layer that is streamed. -/
def usesSluice (s : State) (l : FiringList) (b : Batch) : Bool :=
  bindSpace s b 0 || bindSpace s b 2
    || (layersNow s l b).any fun x => leAt x 0 1 == 0x0A || (b.res.isNone && (tagSpan x).n != 0)

/-- The engines that an invocation uses are free, a channel among them where it needs one (R132), and its slots are not in
use by operations of its furrow. -/
def batchFree (s : State) (l : FiringList) (b : Batch) : Bool :=
  let ls := layersNow s l b
  let slots := layerSlots ls
  let flue := ls.any (fun x => leAt x 0 1 == 0x09) || bindSpace s b 1
  let doms := (slots.map (slotDomain s)) ++ (if flue then [5] else [])
  doms.all (fun d => (runningOp s d).isNone && !domHeld s d)
    && (!usesSluice s l b || sluiceFree s l.plot)
    && (getFur s b.fur).queue.all fun o => !(o.inFlight && o.slots.any slots.contains)

/-- The image lies where it can be looked at. -/
def imageAwake (b : Batch) : List Nat := if b.res.isSome then [dFront, dBasin] else [dFront, dBasin, dHbm]

/-- The batch at the head of a list runs when it can. -/
def tryBatch (id : Nat) (l : FiringList) (resp : List HostResp) (s : State) : State :=
  match l.closed with
  | [] => s
  | b :: _ =>
    if (getPlot s l.plot).state ≠ .live ∨ s.sb.escHgStop ∨ s.pi.trip then s
    else if awake s (imageAwake b) = false then ignite (imageAwake b) s
    else if awake s (batchNeeds s l b) = false then ignite (batchNeeds s l b) s
    else if batchFree s l b then runBatch id l b resp s else s

/-- BATCH_CLOSE (R256): the wait of the open batch of plot `p`'s list has passed, so it closes behind those that closed
before; the batch or invocation at the head of the list runs when it can. -/
def execBatchClose (p l : Nat) (r : List HostResp) (s : State) : Res :=
  .next (
    match getList s l with
    | none => s
    | some x =>
      if x.plot ≠ p then s
      else if x.opened.isSome ∧ compRuns s 2 ∧ (getPlot s p).state = .live then
        let y := { x with closed := x.closed ++ x.opened.toList, opened := none }
        tryBatch l y r (setList s l (some y))
      else tryBatch l x r s)

/-- The list whose head invocation holds an operation. -/
def headOf (s : State) (f id : Nat) : Option (Nat × FiringList) :=
  (listsOf s (furPlot s f)).find? fun x => match x.2.closed with
    | b :: _ => b.members.any fun m => m.1 == f && m.2.1 == id
    | [] => false

/-- The admitted INVOKE of a furrow whose turn at its list has come. -/
def headInvoke (s : State) (f : Nat) : Option (Nat × FiringList) :=
  ((getFur s f).queue.filter fun o => o.phase == .waiting && o.opcode == 0x0B && o.prog.pass == 1).findSome?
    fun o => headOf s f o.id

/-- INVOKE (R166, R167): an admitted one whose turn at its list has come runs; else the next is dispatched, and
waits for its admission. -/
def execInvoke (f : Nat) (r : List HostResp) (s : State) : Res :=
  .next (
    match headInvoke s f with
    | some (id, l) => tryBatch id l r s
    | none =>
      match beginDispatch f (fun o => o.opcode == 0x0B) [dFront] s with
      | .error s1 => s1
      | .ok (o, s1) => stampWait f o s1)

end Sys2Proof.Machine
end

