-- ==== Sys2Proof/Machine/Cards.lean ====
section
/-!
DEFINITION. The register cards as data: where each lies (16_register_map Tables 16-1, 16-4), its fields,
their classes and present values, the locks of Table 16-2, and what a write stores in each field.
-/
namespace Sys2Proof.Machine

/-! ## Registers -/

/-- The registers, with their instance indices. -/
inductive Reg where
  | domState | domTarget | refStatus | time | timeAdj | ptmCtl | ptmSample | govLimit | govStatus
  | thermStatus | thermCtl | service | resetCause | health | plotIgn (p : Nat)
  | schedCtl | schedStatus | ctxCmd | ctxStatus | conflict | schedPlot (p : Nat) | plotCfg (p : Nat) | plotState (p : Nat)
  | furRing (f : Nat) | furCfg (f : Nat) | furHead (f : Nat) | furState (f : Nat) | furTicket (f : Nat)
  | furInner (f : Nat) | furProgress (f : Nat) | furGauge (f : Nat)
  | runStatus (q : Nat) | ctxPos (q : Nat) | preempts (q : Nat) | lockErr (q : Nat)
  | heCap | modeCtl | modeStatus | fbStatus (q : Nat) | fbIssue (q : Nat) | fbWait (q : Nat) | fbPasses (q : Nat)
  | apCap | apCtl | slotState (n : Nat) | eccCorr | eccUncorr | readout (q : Nat)
  | flCap | tset | tslotState (n : Nat) | tslotId (n : Nat) | halfElems (h : Nat) | tableEcc
  | baCap | baSize | baEcc | scrubCtl | hdmStray | plotWin (p : Nat) | res (p : Nat)
  | chStatus (c : Nat)
  | scCap | quota (p : Nat)
  | bootStatus | svn | coreCtl | coreStatus (c : Nat) | wdog (c : Nat) | wdogPet (c : Nat) | recordStatus
  | sbStatus | sbLive | sbCtl | sbGrace | sbAction | episode | episodeTime | episodePlots | sbAck | esc | force
  | recStatus | srcCfg (n : Nat) | srcState (n : Nat)
  | portCtl (n : Nat) | portStatus (n : Nat) | portReplays (n : Nat) | gangCfg | gangCtl | gangStatus | gangEpoch
  | gangSkew (t : Nat)
  | linkStatus | hpErr | hpMgmt | pasid (p : Nat)
  | doorbell (p i : Nat) | completion (p i : Nat) | plotStatus (p : Nat) | plotRes (p : Nat) | event (p e : Nat)
  | mbReqDb (p : Nat) | mbStatus (p : Nat) | mbNotice (p : Nat)
  deriving DecidableEq, Repr

/-- Bytes of a register. -/
def Reg.size : Reg → Nat
  | .completion .. => 32
  | .ptmSample | .govLimit | .health => 16
  | .time | .timeAdj | .schedPlot _ | .plotCfg _ | .furRing _ | .furTicket _ | .furInner _ | .ctxPos _ | .preempts _
  | .fbIssue _ | .fbWait _ | .fbPasses _ | .eccCorr | .eccUncorr | .readout _ | .tset | .halfElems _ | .baSize | .baEcc
  | .plotWin _ | .quota _ | .bootStatus | .svn | .recordStatus | .sbStatus | .sbLive | .episodeTime | .episodePlots
  | .portReplays _ | .gangCfg | .gangEpoch | .gangSkew _ | .plotRes _ | .event .. | .mbNotice _ => 8
  | _ => 4

/-- A run of like registers: offset of the first, distance, count, and the register at an index. -/
structure CardRow where
  base : Nat
  step : Nat
  count : Nat
  reg : Nat → Reg

/-- One register by itself. -/
def one (o : Nat) (r : Reg) : CardRow := ⟨o, 1, 1, fun _ => r⟩

/-- The register of a row that covers an offset, with its first byte. -/
def CardRow.find (r : CardRow) (o : Nat) : Option (Reg × Nat) :=
  if o < r.base then none
  else
    let i := if r.count = 1 then 0 else (o - r.base) / r.step
    let a := r.base + i * r.step
    if i < r.count ∧ o < a + (r.reg i).size then some (r.reg i, a) else none

/-- The setup cards, by BAR0/1 offset (Tables 16-1 and 16-4). -/
def setupCards : List CardRow := [
  one 0x100000 .domState, one 0x100004 .domTarget, one 0x100010 .refStatus, one 0x100020 .time, one 0x100028 .timeAdj,
  one 0x100030 .ptmCtl, one 0x100038 .ptmSample, one 0x100100 .govLimit, one 0x100110 .govStatus,
  one 0x100120 .thermStatus, one 0x100124 .thermCtl, one 0x100200 .service, one 0x100204 .resetCause,
  one 0x100210 .health, ⟨0x101000, 8, 64, .plotIgn⟩]
  ++ [one 0x200100 .schedCtl, one 0x200108 .schedStatus, one 0x200110 .ctxCmd, one 0x200114 .ctxStatus,
  one 0x200200 .conflict, ⟨0x201000, 0x10, 64, .schedPlot⟩, ⟨0x202000, 0x20, 64, .plotCfg⟩, ⟨0x202008, 0x20, 64, .plotState⟩,
  ⟨0x300000, 0x40, 16384, .furRing⟩, ⟨0x300008, 0x40, 16384, .furCfg⟩, ⟨0x300010, 0x40, 16384, .furHead⟩,
  ⟨0x300014, 0x40, 16384, .furState⟩, ⟨0x300018, 0x40, 16384, .furTicket⟩, ⟨0x300020, 0x40, 16384, .furInner⟩,
  ⟨0x300028, 0x40, 16384, .furProgress⟩, ⟨0x300030, 0x40, 16384, .furGauge⟩]
  ++ [⟨0x400000, 0x100, 4, .runStatus⟩, ⟨0x400008, 0x100, 4, .ctxPos⟩, ⟨0x400010, 0x100, 4, .preempts⟩,
  ⟨0x400018, 0x100, 4, .lockErr⟩, one 0x500000 .heCap, one 0x500010 .modeCtl, one 0x500014 .modeStatus,
  ⟨0x500100, 0x40, 4, .fbStatus⟩, ⟨0x500108, 0x40, 4, .fbIssue⟩, ⟨0x500110, 0x40, 4, .fbWait⟩, ⟨0x500118, 0x40, 4, .fbPasses⟩,
  one 0x600000 .apCap, one 0x600010 .apCtl, ⟨0x600100, 0x10, 16, .slotState⟩, one 0x600200 .eccCorr,
  one 0x600208 .eccUncorr, ⟨0x600300, 0x10, 4, .readout⟩]
  ++ [one 0x700000 .flCap, one 0x700010 .tset, ⟨0x700100, 0x10, 16, .tslotState⟩, ⟨0x700104, 0x10, 16, .tslotId⟩,
  ⟨0x700200, 0x10, 2, .halfElems⟩, one 0x700300 .tableEcc, one 0x800000 .baCap, one 0x800008 .baSize, one 0x800100 .baEcc,
  one 0x800110 .scrubCtl, one 0x800120 .hdmStray, ⟨0x801000, 0x10, 64, .plotWin⟩, ⟨0x802000, 0x10, 64, .res⟩,
  ⟨0x900100, 0x10, 32, .chStatus⟩, one 0xA00000 .scCap, ⟨0xA01000, 8, 64, .quota⟩]
  ++ [one 0xB00000 .bootStatus, one 0xB00008 .svn, one 0xB00010 .coreCtl, ⟨0xB00100, 0x10, 4, .coreStatus⟩,
  ⟨0xB00104, 0x10, 4, .wdog⟩, ⟨0xB00108, 0x10, 4, .wdogPet⟩, one 0xB00200 .recordStatus,
  one 0xC00000 .sbStatus, one 0xC00008 .sbLive, one 0xC00010 .sbCtl, one 0xC00018 .sbGrace, one 0xC0001C .sbAction,
  one 0xC00020 .episode, one 0xC00028 .episodeTime, one 0xC00030 .episodePlots, one 0xC00038 .sbAck, one 0xC00040 .esc,
  one 0xC00044 .force, one 0xC00048 .recStatus, ⟨0xC00100, 8, 64, .srcCfg⟩, ⟨0xC00104, 8, 64, .srcState⟩]
  ++ [⟨0xD00000, 0x40, 4, .portCtl⟩, ⟨0xD00004, 0x40, 4, .portStatus⟩, ⟨0xD00008, 0x40, 4, .portReplays⟩,
  one 0xD00200 .gangCfg, one 0xD00208 .gangCtl, one 0xD0020C .gangStatus, one 0xD00210 .gangEpoch,
  ⟨0xD00300, 8, 8, .gangSkew⟩, one 0xE00000 .linkStatus, one 0xE00008 .hpErr, one 0xE00010 .hpMgmt,
  ⟨0xE00100, 8, 64, .pasid⟩]

/-- The cards of the page of plot `p`, by offset (Table 9-7). -/
def plotCards (p : Nat) : List CardRow := [
  ⟨0x0000, 8, 1024, .doorbell p⟩, one 0x2000 (.plotStatus p), one 0x2008 (.plotRes p), ⟨0x4000, 0x20, 1024, .completion p⟩,
  one 0xC000 (.mbReqDb p), one 0xC008 (.mbStatus p), one 0xC010 (.mbNotice p), ⟨0xE000, 8, 1024, .event p⟩]

/-- First internal address of the setup pages and of the plot pages (R351). -/
def setupBase : Nat := 0x40000000
def plotBase : Nat := 0x50000000

/-- The plot whose page an internal address lies in, and the offset. -/
def plotOffset (a : Nat) : Option (Nat × Nat) :=
  if plotBase ≤ a ∧ a < plotBase + 0x400000 then some ((a - plotBase) / 0x10000, (a - plotBase) % 0x10000) else none

/-- The register that covers the byte at an internal address, with its own first address. -/
def regAt (a : Nat) : Option (Reg × Nat) :=
  match plotOffset a with
  | some (p, o) => ((plotCards p).findSome? (·.find o)).map fun r => (r.1, plotBase + 0x10000 * p + r.2)
  | none =>
    if setupBase ≤ a then (setupCards.findSome? (·.find (a - setupBase))).map fun r => (r.1, setupBase + r.2) else none

/-! ## Fields -/

/-- Access classes (Table 0-3). -/
inductive Cls where
  | ro | rw | w1c | w1s | wo | rwl | wos
  deriving DecidableEq, Repr

/-- A field: lowest bit, width, class, present value. Bits that no field holds are reserved. -/
structure Field where
  lo : Nat
  w : Nat
  cls : Cls
  v : Nat
  deriving DecidableEq, Repr

/-- The owner of a slot: the plot whose mask holds it. -/
def slotPlot (s : State) (n : Nat) : Nat :=
  ((s.hg.plots.find? fun kv => kv.2.slotMask.getLsbD n).map (·.1)).getD 0

def plotStateCode : PlotState → Nat
  | .none => 0 | .live => 1 | .resetting => 2 | .quarantined => 3

def furStateCode : FurState → Nat
  | .unarmed => 0 | .active => 1 | .parked => 2 | .halted => 3

def coreStateCode : CoreState → Nat
  | .running => 0 | .restarting => 1 | .stopped => 2 | .held => 3

def portStateCode : PortState → Nat
  | .off => 0 | .phyTrain => 1 | .canalTrain => 2 | .active => 3 | .down => 4

def gangStateCode : GangState → Nat
  | .idle => 0 | .forming => 1 | .formed => 2 | .alone => 3 | .broken => 4

/-- Short forms for field lists. -/
def ro (lo w v : Nat) : Field := ⟨lo, w, .ro, v⟩
def fld (c : Cls) (lo w v : Nat) : Field := ⟨lo, w, c, v⟩
def flag (c : Cls) (lo : Nat) (b : Bool) : Field := ⟨lo, 1, c, b2n b⟩

/-- Fields of the PI cards. -/
def piFields (s : State) : Reg → List Field
  | .domState => [ro 0 28 (domWord s)]
  | .domTarget => [fld .rw 0 28 s.pi.domTarget.toNat]
  | .refStatus => [flag .ro 0 s.pi.refLocked, flag .w1c 1 s.pi.refLost]
  | .time => [ro 0 64 s.pi.time.toNat]
  | .timeAdj => [fld .wo 0 48 0]
  | .ptmCtl => [flag .w1s 0 s.pi.ptmTrigger, flag .ro 1 s.pi.ptmValid, fld .rw 8 16 s.pi.ptmPeriod.toNat, ro 24 8 s.pi.ptmSeq.toNat]
  | .ptmSample => [ro 0 64 s.pi.ptmHost.toNat, ro 64 64 s.pi.ptmTile.toNat]
  | .govLimit => [ro 0 3 s.pi.clkMax.toNat, ro 8 3 s.pi.clkMin.toNat, ro 16 16 s.pi.powerCap.toNat, ro 32 8 s.pi.tAlert.toNat,
      ro 40 2 s.pi.modePolicy.toNat, ro 48 8 s.pi.deep.toNat, ro 64 16 s.pi.idleBankedUs.toNat, ro 80 16 s.pi.idleEmberUs.toNat,
      ro 96 16 s.pi.idleDarkMs.toNat]
  | .govStatus => [ro 0 3 s.pi.hclkLevel.toNat, flag .ro 3 s.pi.clamp, flag .ro 4 s.pi.capped, ro 8 10 s.pi.powerW.toNat]
  | .thermStatus => [ro 0 8 s.pi.tempMax.toNat, flag .ro 8 s.pi.alert, flag .w1c 9 s.pi.alertSeen, flag .ro 10 s.pi.trip]
  | .thermCtl => [flag .rw 0 s.pi.fastEn]
  | .service => [fld .rw 0 2 (bitField s.pi.service.toNat 0 2), fld .rw 2 1 (bitField s.pi.service.toNat 2 1),
      fld .rw 3 1 (bitField s.pi.service.toNat 3 1), fld .rw 4 4 (bitField s.pi.service.toNat 4 4),
      fld .rw 8 2 (bitField s.pi.service.toNat 8 2), fld .rw 10 5 (bitField s.pi.service.toNat 10 5),
      fld .rw 16 4 (bitField s.pi.service.toNat 16 4), fld .rw 20 6 (bitField s.pi.service.toNat 20 6),
      fld .rw 26 4 (bitField s.pi.service.toNat 26 4)]
  | .resetCause => [ro 0 2 s.pi.resetLevel.toNat, ro 4 3 s.pi.warmCause.toNat, ro 16 16 s.pi.warmCount.toNat]
  | .health => [fld .w1s 0 64 (s.pi.health.toNat % 2 ^ 64), fld .w1s 64 64 (s.pi.health.toNat / 2 ^ 64)]
  | .plotIgn p => [fld .rw 0 14 (tblGet ignDef s.pi.ign p).toNat]
  | _ => []

/-- Fields of the HG cards. -/
def hgFields (s : State) : Reg → List Field
  | .schedCtl => [flag .w1s 0 s.hg.commit, flag .rw 1 s.hg.hearthHold, flag .rw 2 s.hg.gaugeEn, fld .rw 8 8 s.hg.stallN.toNat]
  | .schedStatus => [flag .ro 0 (hearthIdle s)]
  | .ctxCmd => [fld .wo 0 8 0]
  | .ctxStatus => [flag .ro 0 s.hg.ctxPend.isSome, ro 16 16 s.hg.ctxValid.toNat]
  | .conflict => [flag .w1c 0 s.hg.conflictTrace, flag .w1c 1 s.hg.conflictGauge, flag .w1c 2 s.hg.conflictSpill]
  | .schedPlot p =>
    let x := getPlot s p
    [fld .rw 0 8 x.sharePend.toNat, fld .rw 8 13 x.slicePend.toNat, ro 32 8 x.share.toNat, ro 40 13 x.slice.toNat]
  | .plotCfg p =>
    let x := getPlot s p
    [ro 0 16 x.slotMask.toNat, ro 16 14 x.furFirst.toNat, ro 30 11 x.furCount.toNat, ro 41 11 x.evtCount.toNat, ro 52 6 x.sluiceMax.toNat]
  | .plotState p =>
    let x := getPlot s p
    [ro 0 2 (plotStateCode x.state), flag .w1c 2 x.quarHw, ro 16 16 x.resets.toNat]
  | .furRing f => [fld .rwl 12 52 (getFur s f).base.toNat]
  | .furCfg f =>
    let x := getFur s f
    [fld .rwl 0 5 x.sizeLog2.toNat, fld .rwl 5 2 x.kind.toNat, flag .rw 7 x.arm, ro 8 6 x.plot.toNat, ro 16 10 x.localIdx.toNat,
      flag .ro 26 x.alloc]
  | .furHead f => [fld .rwl 0 16 (getFur s f).head.toNat, ro 16 16 (getFur s f).tail.toNat]
  | .furState f =>
    let x := getFur s f
    [ro 0 2 (furStateCode x.state), flag .ro 2 x.draining, ro 8 8 x.haltReason.toNat, flag .w1c 16 x.privSeen,
      flag .w1c 17 x.armRefused, flag .w1c 18 x.badTail]
  | .furTicket f => [fld .rwl 0 48 (getFur s f).last.toNat]
  | .furInner f =>
    let x := getFur s f
    [ro 0 17 (if x.kind = 2 then x.outstanding else 0), fld .rw 32 17 x.mark.toNat, flag .w1c 63 x.notice]
  | .furProgress f => [ro 0 32 (getFur s f).progress.toNat]
  | .furGauge f => [ro 0 8 (getFur s f).slicesIdle.toNat, flag .w1c 8 (getFur s f).stalled]
  | _ => []

/-- Fields of the ST, HE, AP and FL cards. FOLLOW of a follower shows 1 while it is busy, and 0 while it is idle (log
111). -/
def computeFields (s : State) : Reg → List Field
  | .runStatus q =>
    let x := getFb s q
    [ro 0 3 x.runState.toNat, flag .ro 3 (q != 0 && !s.he.modeCur && x.busy), ro 4 4 x.slot.toNat, ro 8 6 x.plot.toNat, ro 16 14 x.furrow.toNat]
  | .ctxPos q => [ro 0 32 (getFb s q).ctxPass.toNat, ro 32 16 (getFb s q).ctxRow.toNat]
  | .preempts q => [ro 0 64 (getFb s q).preempts.toNat]
  | .lockErr q => [ro 0 32 (getFb s q).lockErr.toNat]
  | .heCap => [ro 0 4 (maskOf 4 (fbIn s)), flag .ro 4 (wholeOk s), ro 8 8 1]
  | .modeCtl => [flag .rw 0 s.he.mode]
  | .modeStatus => [flag .ro 0 s.he.modeCur, flag .ro 1 s.he.pending, flag .w1c 2 s.he.refused]
  | .fbStatus q =>
    let x := getFb s q
    [flag .ro 0 x.busy, flag .ro 1 (x.runState == 1), flag .ro 2 (x.runState == 3), ro 8 6 x.plot.toNat, ro 16 4 x.slot.toNat]
  | .fbIssue q => [ro 0 64 (getFb s q).issueCycles.toNat]
  | .fbWait q => [ro 0 64 (getFb s q).waitCycles.toNat]
  | .fbPasses q => [ro 0 64 (getFb s q).passes.toNat]
  | .apCap => [ro 0 4 (maskOf 4 (apIn s)), flag .ro 4 (statsIn s)]
  | .apCtl => [flag .rw 0 s.ap.sumsOnly]
  | .slotState n =>
    let x := getSlot s n
    [flag .ro 0 x.lease.isSome, ro 1 2 (wordCode x.word), ro 3 2 x.lanes.toNat, flag .ro 5 x.sat, flag .ro 6 x.quad,
      ro 8 6 (slotPlot s n), ro 16 14 (x.lease.getD 0)]
  | .eccCorr => [ro 0 64 s.ap.eccCorr.toNat]
  | .eccUncorr => [ro 0 64 s.ap.eccUncorr.toNat]
  | .readout q => [ro 0 64 (tblGet count64Def s.ap.readout q).toNat]
  | .flCap => [ro 0 2 (maskOf 2 (flueIn s)), ro 8 8 1, ro 16 5 16]
  | .tset => [ro 0 8 1, ro 32 32 s.fl.loadedCrc.toNat]
  | .tslotState n =>
    let x := getTable s n
    [flag .ro 0 x.cur.isSome, flag .ro 1 (!(pendingLoads s n).isEmpty), flag .ro 2 (bankBound s n (idleBank s n)), flag .ro 3 x.active]
  | .tslotId n => [ro 0 32 (match (getTable s n).cur with | some b => leAt b 20 4 | none => 0)]
  | .halfElems h => [ro 0 64 (tblGet count64Def s.fl.halfElems h).toNat]
  | .tableEcc => [ro 0 16 s.fl.tableCorr.toNat, ro 16 16 s.fl.tableUncorr.toNat]
  | _ => []

/-- Fields of the BA, SL and SC cards. -/
def basinFields (s : State) : Reg → List Field
  | .baCap => [ro 0 24 s.ba.bankIn.toNat, ro 24 8 s.ba.stackIn.toNat]
  | .baSize => [ro 0 16 (basinCap s / 2 ^ 20), ro 32 16 (hbmCap s / 2 ^ 30)]
  | .baEcc => [ro 0 24 s.ba.basinCorr.toNat, ro 24 8 s.ba.basinUncorr.toNat, ro 32 24 s.ba.hbmCorr.toNat, ro 56 8 s.ba.hbmUncorr.toNat]
  | .scrubCtl => [flag .rw 0 s.ba.scrubEn, fld .rw 8 8 s.ba.scrubPeriod.toNat]
  | .hdmStray => [ro 0 31 s.ba.strayCount.toNat, flag .w1c 31 s.ba.straySeen]
  | .plotWin p =>
    let x := getPlot s p
    [ro 0 10 x.basinBase.toNat, ro 10 10 x.basinSize.toNat, ro 20 10 x.resBase.toNat, ro 30 10 x.resSize.toNat,
      ro 40 10 x.hbmBase.toNat, ro 50 10 x.hbmSize.toNat]
  | .res p =>
    let x := getPlot s p
    [ro 0 14 x.resLevel.toNat, fld .rw 16 14 x.resMark.toNat, flag .w1c 31 x.resNotice]
  | .chStatus c =>
    let x := getChan s c
    [flag .ro 0 x.busy, ro 8 6 x.plot.toNat, ro 16 14 x.furrow.toNat]
  | .scCap => [flag .ro 0 (scuttleIn s)]
  | .quota p => [fld .rw 0 17 (getPlot s p).quota.toNat, ro 32 17 (plotLines s p)]
  | _ => []

/-- Fields of the CH and SB cards. -/
def pilotFields (s : State) : Reg → List Field
  | .bootStatus => [flag .ro 0 s.ch.bootSrc, flag .ro 1 s.ch.bootSlot, flag .ro 2 s.ch.flashFail, flag .ro 3 s.ch.recordBlank,
      ro 4 4 s.ch.failA.toNat, ro 8 4 s.ch.failB.toNat, ro 16 16 s.ch.mbVer.toNat, ro 32 32 s.ch.imageVer.toNat]
  | .svn => [ro 0 32 s.ch.svn.toNat, ro 32 32 s.ch.minSvn.toNat]
  | .coreCtl => [fld .wo 0 4 0]
  | .coreStatus c =>
    let x := getCore s c
    [ro 0 2 (coreStateCode x.state), flag .ro 2 x.codeBad, ro 4 4 x.lastCause.toNat, ro 16 16 x.restarts.toNat]
  | .wdog c => [fld .rw 0 16 (getCore s c).wdogMs.toNat]
  | .wdogPet _ => [fld .wo 0 32 0]
  | .recordStatus => [flag .ro 0 s.ch.newest, flag .ro 1 s.ch.validA, flag .ro 2 s.ch.validB, flag .w1c 3 s.ch.writeFail, ro 32 32 s.ch.recSeq.toNat]
  | .sbStatus => [fld .w1c 0 64 s.sb.status.toNat]
  | .sbLive => [ro 0 64 (sbLive s).toNat]
  | .sbCtl => [flag .wos 0 s.sb.cfgLock, fld .rwl 1 3 s.sb.alarmSev.toNat, fld .rwl 4 3 s.sb.irqSev.toNat, flag .rw 7 s.sb.hostIrqEn,
      flag .rw 8 s.sb.ch3IrqEn]
  | .sbGrace => [fld .rwl 0 24 s.sb.graceUs.toNat]
  | .sbAction => [fld .rwl 0 4 s.sb.actDegraded.toNat, fld .rwl 4 4 s.sb.actPlot.toNat, fld .rwl 8 4 s.sb.actTile.toNat]
  | .episode => [flag .ro 0 s.sb.epOpen, ro 1 3 s.sb.epSev.toNat, ro 8 8 s.sb.epId.toNat, ro 16 8 s.sb.epMerges.toNat]
  | .episodeTime => [ro 0 64 s.sb.epTime.toNat]
  | .episodePlots => [ro 0 64 s.sb.epPlots.toNat]
  | .sbAck => [fld .wo 0 16 0]
  | .esc => [flag .w1c 0 s.sb.escQuar, flag .ro 1 s.sb.escHgStop, flag .w1c 2 s.sb.escAlarm, flag .ro 3 s.sb.escSmoke,
      flag .w1c 4 s.sb.ackStale, ro 8 8 s.sb.escalations.toNat]
  | .force => [flag .w1s 0 s.sb.forceSmoke, flag .w1s 1 s.sb.forceHgStop]
  | .recStatus => [flag .ro 0 (!s.sb.status.getLsbD 63), ro 8 8 s.sb.recCorr.toNat, ro 16 16 s.sb.snaps.toNat]
  | .srcCfg n =>
    if sourceReserved n then []
    else
      let x := getSrc s n
      [fld .rwl 0 3 x.sev.toNat, fld .rwl 3 2 x.chan.toNat, fld .rwl 8 8 x.countN.toNat, fld .rwl 16 16 x.windowMs.toNat]
  | .srcState n =>
    let x := getSrc s n
    [ro 0 3 x.effSev.toNat, flag .ro 3 x.escalated, ro 8 8 x.count.toNat, ro 16 16 x.events.toNat]
  | _ => []

/-- Fields of the CN and HP cards. -/
def linkFields (s : State) : Reg → List Field
  | .portCtl n => [flag .rw 0 (getPort s n).en, flag .w1s 1 (getPort s n).retrain]
  | .portStatus n =>
    let x := getPort s n
    [ro 0 3 (portStateCode x.state), flag .ro 3 x.width8, flag .w1c 4 x.wrongPeer, flag .w1c 5 x.downSeen, ro 8 3 x.peerId.toNat,
      flag .ro 11 x.peerValid]
  | .portReplays n => [ro 0 32 (getPort s n).replays.toNat, ro 32 32 (getPort s n).crcErr.toNat]
  | .gangCfg => [fld .rwl 0 8 s.cn.members.toNat, fld .rwl 8 6 s.cn.gangPlot.toNat, flag .rwl 14 s.cn.pair2, fld .rwl 32 32 s.cn.gangKey.toNat]
  | .gangCtl => [flag .rw 0 s.cn.form, flag .w1s 1 s.cn.measure]
  | .gangStatus => [ro 0 3 (gangStateCode s.cn.state), ro 3 3 s.cn.lead.toNat, flag .w1c 6 s.cn.refused, flag .w1c 7 s.cn.skewFlag,
      flag .w1c 8 s.cn.lostSeen, flag .w1c 9 s.cn.tsetChanged, ro 12 4 s.cn.mismatch.toNat, ro 16 8 s.cn.present.toNat]
  | .gangEpoch => [ro 0 32 s.cn.collSeq.toNat, ro 32 16 s.cn.gen.toNat]
  | .gangSkew t => [ro 0 64 (tblGet count64Def s.cn.skew t).toNat]
  | .linkStatus => [ro 0 2 s.pins.strapHost.toNat, flag .ro 2 s.hp.up, flag .ro 3 s.hp.cxl, ro 8 8 s.hp.lanes.toNat, ro 16 3 s.hp.rate.toNat,
      flag .w1c 19 s.hp.downSeen]
  | .hpErr => [ro 0 24 s.hp.corr.toNat, ro 24 8 s.hp.uncorr.toNat]
  | .hpMgmt => [ro 0 7 (0x30 + s.pins.strapTile.toNat), flag .ro 7 s.hp.i3c, ro 8 7 s.hp.dynAddr.toNat, ro 16 8 s.hp.eid.toNat]
  | .pasid p => [fld .rwl 0 20 (getPlot s p).pasid.toNat, flag .rwl 20 (getPlot s p).pasidEn]
  | _ => []

/-- A plot page shows a plot that exists; else it reads under R11 (R210, R337). -/
def pageThere (s : State) (p : Nat) : Bool := (getPlot s p).state != .none && s.pi.phase == .ready

/-- Fields of the PP cards. -/
def pageFields (s : State) : Reg → List Field
  | .doorbell p i => if pageThere s p && decide (i < (getPlot s p).furCount.toNat) then [fld .wo 0 16 0] else []
  | .completion p i =>
    match globalFur s p i with
    | some f =>
      if pageThere s p then
        let x := getFur s f
        [ro 0 48 x.doneTicket.toNat, ro 48 16 x.epoch.toNat, ro 64 48 x.launchTicket.toNat, ro 112 16 x.drops.toNat,
          ro 128 48 x.failTicket.toNat, ro 176 8 x.failReason.toNat, flag .w1c 191 x.fail, ro 192 48 x.satTicket.toNat,
          ro 240 8 x.haltReason.toNat, flag .w1c 255 x.sat]
      else []
    | none => []
  | .plotStatus p => if pageThere s p then [ro 0 2 (plotStateCode (getPlot s p).state), ro 16 16 (getPlot s p).epoch.toNat] else []
  | .plotRes p =>
    let x := getPlot s p
    if pageThere s p then
      [ro 0 16 x.slotMask.toNat, ro 16 11 x.furCount.toNat, ro 27 11 x.evtCount.toNat, ro 38 10 x.basinSize.toNat, ro 48 10 x.hbmSize.toNat]
    else []
  | .event p e => if pageThere s p && decide (e < (getPlot s p).evtCount.toNat) then [ro 0 64 (getEvent s p e).toNat] else []
  | .mbReqDb p => if pageThere s p then [fld .wo 0 16 0] else []
  | .mbStatus p =>
    let m := (getPlot s p).mail
    if pageThere s p then [ro 0 16 m.respSeq.toNat, flag .ro 16 m.pending, flag .w1c 17 m.overrun, flag .ro 18 m.helloDone] else []
  | .mbNotice p =>
    let m := (getPlot s p).mail
    if pageThere s p then [ro 0 16 m.ntcTail.toNat, fld .wo 16 16 0, ro 32 16 m.ntcLost.toNat] else []
  | _ => []

/-- The fields of a register, with their present values. -/
def regFields (s : State) (r : Reg) : List Field :=
  match r with
  | .doorbell .. | .completion .. | .plotStatus _ | .plotRes _ | .event .. | .mbReqDb _ | .mbStatus _ | .mbNotice _ => pageFields s r
  | _ => piFields s r ++ hgFields s r ++ computeFields s r ++ basinFields s r ++ pilotFields s r ++ linkFields s r

/-- The value that fields read as: WO fields and reserved bits read 0 (R8, R10). -/
def fieldsValue (fs : List Field) : Nat :=
  fs.foldl (fun v f => v + (if f.cls = .wo then 0 else f.v % 2 ^ f.w) * 2 ^ f.lo) 0

/-- The value that a register holds. -/
def regValue (s : State) (r : Reg) : Nat := fieldsValue (regFields s r)

/-! ## Locks (Table 16-2) and page rules (Table 16-1) -/

/-- The lock of a register's RWL fields, or of its WOS field. -/
def regLocked (s : State) (r : Reg) (c : Cls) : Bool :=
  match r with
  | .furRing f | .furCfg f | .furHead f | .furTicket f => (getFur s f).arm
  | .sbCtl => if c = .wos then s.sb.cfgLockWritten else s.sb.cfgLock
  | .sbGrace | .sbAction | .srcCfg _ => s.sb.cfgLock
  | .gangCfg => s.cn.form
  | .pasid p => !(armedLocals s p).isEmpty || decide (plotChannels s p ≠ 0)
  | _ => false

/-- Registers of pages, or groups of cards, that the host may not write. -/
def hostNone : Reg → Bool
  | .domState | .domTarget | .refStatus | .time | .timeAdj | .ptmCtl | .ptmSample | .govLimit | .govStatus
  | .thermStatus | .thermCtl | .service | .resetCause | .health | .plotIgn _
  | .schedCtl | .schedStatus | .ctxCmd | .ctxStatus | .schedPlot _
  | .runStatus _ | .ctxPos _ | .preempts _ | .lockErr _
  | .heCap | .modeCtl | .modeStatus | .fbStatus _ | .fbIssue _ | .fbWait _ | .fbPasses _
  | .apCap | .apCtl | .slotState _ | .eccCorr | .eccUncorr | .readout _
  | .flCap | .tset | .tslotState _ | .tslotId _ | .halfElems _ | .tableEcc
  | .bootStatus | .svn | .coreCtl | .coreStatus _ | .wdog _ | .wdogPet _ | .recordStatus => true
  | _ => false

/-- Whether an agent's write may change a field of a class, the agent reaching the register at all. -/
def mayWrite (s : State) (a : Agent) (r : Reg) (c : Cls) : Bool :=
  let open_ := if c = .rwl ∨ c = .wos then !regLocked s r c else true
  match a with
  | .core _ => open_
  | _ => !hostNone r && open_

/-- The value that a write would store in a field. HG_CTX_CMD's OP and SLOT are one command; its bits [3:2] are
reserved, and what is written there is ignored (R10). -/
def storedValue (r : Reg) (lo v : Nat) : Nat :=
  match r with
  | .ctxCmd => v &&& 0xF3
  | .srcCfg _ => if lo = 0 ∧ 4 < v then 4 else if lo = 3 ∧ v = 3 then 2 else v
  | _ => v

/-- A write that may not change a field counts as differing from it (R356). -/
def fieldDiffers (r : Reg) (f : Field) (v : Nat) : Bool :=
  match f.cls with
  | .ro => false
  | .w1c | .w1s | .wo => storedValue r f.lo v != 0
  | _ => storedValue r f.lo v != f.v

/-! ## What a write stores -/

/-- A write of 0 or 1 to GAUGE_EN: while fast sampling owns timer 3, a 1 is lost (R208, R209). -/
def writeGaugeEn (v : Bool) (s : State) : State :=
  if v && s.pi.fastEn then conflict 1 s else { s with hg := { s.hg with gaugeEn := v } }

/-- A write of FAST_EN: the owner stops the stall gauge. -/
def writeFastEn (v : Bool) (s : State) : State :=
  let s1 := { s with pi := { s.pi with fastEn := v } }
  if v && s.hg.gaugeEn then conflict 1 { s1 with hg := { s1.hg with gaugeEn := false } } else s1

/-- A write of n to PI_TIME_ADJ (R228). -/
def adjustTime (n : Nat) (s : State) : State := { s with pi := { s.pi with time := s.pi.time + bv 64 n } }

/-- A write of ARM. -/
def writeArm (f : Nat) (v : Bool) (s : State) : State :=
  if v = (getFur s f).arm then s else if v then armFur f s else disarmFur f s

/-- A write to CH_CORE_CTL.RESTART: bit 0 is ignored. -/
def writeRestart (v : Nat) (s : State) : State :=
  ([1, 2, 3] : List Nat).foldl (fun t c => if bitAt v c then startRestart c 2 t else t) s

/-- Bits of PI_HEALTH set by CH3: each unit that they name is marked out, with source 57 and a record write (R260,
R342, R343). -/
def writeHealth (lo v : Nat) (s : State) : State :=
  (bitList v 64).foldl (fun t i =>
    if unitBits.contains (lo + i) then markOut (lo + i) t
    else { t with pi := { t.pi with health := setBit t.pi.health (lo + i) true }
                  ch := { t.ch with recordWant := t.ch.recordWant || !outBit t (lo + i) } }) s

/-- Width of the PI_SERVICE field at bit `lo`. -/
def serviceWidth (lo : Nat) : Nat :=
  if lo = 0 ∨ lo = 8 then 2 else if lo = 4 ∨ lo = 16 ∨ lo = 26 then 4 else if lo = 10 then 5 else if lo = 20 then 6 else 1

def putPi (r : Reg) (lo v : Nat) (s : State) : State :=
  match r, lo with
  | .domTarget, _ => { s with pi := { s.pi with domTarget := bv 28 v } }
  | .refStatus, _ => { s with pi := { s.pi with refLost := false } }
  | .timeAdj, _ => adjustTime v s
  | .ptmCtl, 0 => { s with pi := { s.pi with ptmTrigger := true } }
  | .ptmCtl, _ => { s with pi := { s.pi with ptmPeriod := bv 16 v } }
  | .thermStatus, _ => { s with pi := { s.pi with alertSeen := s.pi.alert } }
  | .thermCtl, _ => writeFastEn (v == 1) s
  | .service, _ =>
    let x := s.pi.service.toNat
    { s with pi := { s.pi with service := bv 32 (x - bitField x lo (serviceWidth lo) * 2 ^ lo + v * 2 ^ lo) } }
  | .health, _ => writeHealth lo v s
  | .plotIgn p, _ => { s with pi := { s.pi with ign := tblSet ignDef s.pi.ign p (bv 14 v) } }
  | _, _ => s

def putHg (r : Reg) (lo v : Nat) (s : State) : State :=
  match r, lo with
  | .schedCtl, 0 => captureTable s
  | .schedCtl, 1 => { s with hg := { s.hg with hearthHold := v == 1 } }
  | .schedCtl, 2 => writeGaugeEn (v == 1) s
  | .schedCtl, _ => { s with hg := { s.hg with stallN := bv 8 v } }
  | .ctxCmd, _ => ctxCommand (v % 4) (v / 16) s
  | .conflict, 0 => { s with hg := { s.hg with conflictTrace := false } }
  | .conflict, 1 => { s with hg := { s.hg with conflictGauge := false } }
  | .conflict, _ => { s with hg := { s.hg with conflictSpill := false } }
  | .schedPlot p, 0 => modPlot p (fun x => { x with sharePend := bv 8 v }) s
  | .schedPlot p, _ => modPlot p (fun x => { x with slicePend := bv 13 v }) s
  | .plotState p, _ => modPlot p (fun x => { x with quarHw := false }) s
  | .furRing f, _ => modFur f (fun x => { x with base := bv 52 v }) s
  | .furCfg f, 0 => modFur f (fun x => { x with sizeLog2 := bv 5 v }) s
  | .furCfg f, 5 => modFur f (fun x => { x with kind := bv 2 v }) s
  | .furCfg f, _ => writeArm f (v == 1) s
  | .furHead f, _ => modFur f (fun x => { x with head := bv 16 v }) s
  | .furState f, 16 => modFur f (fun x => { x with privSeen := false }) s
  | .furState f, 17 => modFur f (fun x => { x with armRefused := false }) s
  | .furState f, _ => modFur f (fun x => { x with badTail := false }) s
  | .furTicket f, _ => modFur f (fun x => { x with last := bv 48 v }) s
  | .furInner f, 32 => modFur f (fun x => { x with mark := bv 17 v }) s
  | .furInner f, _ => modFur f (fun x => { x with notice := false }) s
  | .furGauge f, _ => modFur f (fun x => { x with stalled := false }) s
  | _, _ => s

def putMid (r : Reg) (lo v : Nat) (s : State) : State :=
  match r, lo with
  | .modeCtl, _ => writeMode (v == 1) s
  | .modeStatus, _ => { s with he := { s.he with refused := false } }
  | .apCtl, _ => { s with ap := { s.ap with sumsOnly := v == 1 } }
  | .scrubCtl, 0 => { s with ba := { s.ba with scrubEn := v == 1 } }
  | .scrubCtl, _ => { s with ba := { s.ba with scrubPeriod := bv 8 v } }
  | .hdmStray, _ => { s with ba := { s.ba with straySeen := false } }
  | .res p, 16 => modPlot p (fun x => { x with resMark := bv 14 v }) s
  | .res p, _ => modPlot p (fun x => { x with resNotice := false }) s
  | .quota p, _ => modPlot p (fun x => { x with quota := bv 17 v }) s
  | .coreCtl, _ => writeRestart v s
  | .wdog c, _ => modCore c (fun x => { x with wdogMs := bv 16 v }) s
  | .wdogPet c, _ => modCore c (fun x => { x with wdogStart := s.pi.time }) s
  | .recordStatus, _ => { s with ch := { s.ch with writeFail := false } }
  | _, _ => s

def putSb (a : Agent) (r : Reg) (lo v : Nat) (s : State) : State :=
  match r, lo with
  | .sbStatus, _ => clearStatus (bv 64 v) s
  | .sbCtl, 0 => { s with sb := { s.sb with cfgLock := v == 1, cfgLockWritten := true } }
  | .sbCtl, 1 => { s with sb := { s.sb with alarmSev := bv 3 v } }
  | .sbCtl, 4 => { s with sb := { s.sb with irqSev := bv 3 v } }
  | .sbCtl, 7 => { s with sb := { s.sb with hostIrqEn := v == 1 } }
  | .sbCtl, _ => { s with sb := { s.sb with ch3IrqEn := v == 1 } }
  | .sbGrace, _ => { s with sb := { s.sb with graceUs := bv 24 v } }
  | .sbAction, 0 => { s with sb := { s.sb with actDegraded := bv 4 v } }
  | .sbAction, 4 => { s with sb := { s.sb with actPlot := bv 4 v } }
  | .sbAction, _ => { s with sb := { s.sb with actTile := bv 4 v } }
  | .sbAck, _ => ackEpisode a (bv 8 v) (bv 8 (v / 256)) s
  | .esc, 0 => { s with sb := { s.sb with escQuar := false } }
  | .esc, 2 => { s with sb := { s.sb with escAlarm := false } }
  | .esc, _ => { s with sb := { s.sb with ackStale := false } }
  | .force, 0 => forceSmoke s
  | .force, _ => forceHgStop s
  | .srcCfg n, 0 => setSrc s n { getSrc s n with sev := bv 3 v }
  | .srcCfg n, 3 => setSrc s n { getSrc s n with chan := bv 2 v }
  | .srcCfg n, 8 => setSrc s n { getSrc s n with countN := bv 8 v }
  | .srcCfg n, _ => setSrc s n { getSrc s n with windowMs := bv 16 v }
  | _, _ => s

def putLink (r : Reg) (lo v : Nat) (s : State) : State :=
  match r, lo with
  | .portCtl n, 0 => writeEn n (v == 1) s
  | .portCtl n, _ => writeRetrain n s
  | .portStatus n, 4 => modPort n (fun x => { x with wrongPeer := false }) s
  | .portStatus n, _ => modPort n (fun x => { x with downSeen := false }) s
  | .gangCfg, 0 => { s with cn := { s.cn with members := bv 8 v } }
  | .gangCfg, 8 => { s with cn := { s.cn with gangPlot := bv 6 v } }
  | .gangCfg, 14 => { s with cn := { s.cn with pair2 := v == 1 } }
  | .gangCfg, _ => { s with cn := { s.cn with gangKey := bv 32 v } }
  | .gangCtl, 0 => writeForm (v == 1) s
  | .gangCtl, _ => writeMeasure s
  | .gangStatus, 6 => { s with cn := { s.cn with refused := false } }
  | .gangStatus, 7 => { s with cn := { s.cn with skewFlag := false } }
  | .gangStatus, 8 => { s with cn := { s.cn with lostSeen := false } }
  | .gangStatus, _ => { s with cn := { s.cn with tsetChanged := false } }
  | .linkStatus, _ => { s with hp := { s.hp with downSeen := false } }
  | .pasid p, 0 => modPlot p (fun x => { x with pasid := bv 20 v }) s
  | .pasid p, _ => modPlot p (fun x => { x with pasidEn := v == 1 }) s
  | _, _ => s

def putPage (r : Reg) (lo v : Nat) (s : State) : State :=
  match r, lo with
  | .doorbell p i, _ => ringDoorbell p i (bv 16 v) s
  | .completion p i, 191 => failClear p i s
  | .completion p i, _ => (match globalFur s p i with | some f => modFur f (fun x => { x with sat := false }) s | none => s)
  | .mbReqDb p, _ => if pageOpen s p then takeRequest p (bv 16 v) s else s
  | .mbStatus p, _ => modMail p (fun m => { m with overrun := false }) s
  | .mbNotice p, _ => modMail p (fun m => { m with ntcHead := bv 16 v }) s
  | _, _ => s

/-- A write reaches a field: `v` is the value stored, or the ones written to a W1C, W1S or WO field. -/
def putField (a : Agent) (r : Reg) (lo v : Nat) (s : State) : State :=
  match r with
  | .doorbell .. | .completion .. | .plotStatus _ | .plotRes _ | .event .. | .mbReqDb _ | .mbStatus _ | .mbNotice _ => putPage r lo v s
  | _ => putLink r lo v (putSb a r lo v (putMid r lo v (putHg r lo v (putPi r lo v s))))

end Sys2Proof.Machine
end

