-- ==== Sys2Proof/Machine/Registers.lean ====
section
/-!
DEFINITION. Register accesses (16_register_map R350 to R359; 11_chimney_firmware R238; 10_pilot_and_power
R218). Commands REGISTER_WRITE and the writes that have a row of their own.
-/
namespace Sys2Proof.Machine

/-! ## Blocks and latching (R218) -/

/-- The domains that must be STOKED for a write to reach a register's block; the pages that the Pilot holds and the host
port's take writes at once. Which domain holds a register that several blocks share is the model's choice (log 112). -/
def blockOf : Reg → List Nat
  | .schedCtl | .schedStatus | .ctxCmd | .ctxStatus | .conflict | .schedPlot _ | .plotCfg _ | .plotState _
  | .furRing _ | .furCfg _ | .furHead _ | .furState _ | .furTicket _ | .furInner _ | .furProgress _ | .furGauge _
  | .chStatus _ | .scCap | .quota _ | .gangCfg | .gangCtl | .gangStatus | .gangEpoch | .gangSkew _ => [dFront]
  | .runStatus q | .ctxPos q | .preempts q | .lockErr q | .fbStatus q | .fbIssue q | .fbWait q | .fbPasses q
  | .readout q => [dFb q]
  | .heCap | .modeCtl | .modeStatus | .apCap | .apCtl | .slotState _ | .eccCorr | .eccUncorr => [dFb 0]
  | .flCap | .tset | .tslotState _ | .tslotId _ | .halfElems _ | .tableEcc => [dFlue 0]
  | .baCap | .baSize | .baEcc | .scrubCtl | .hdmStray | .plotWin _ | .res _ => [dBasin]
  | .portCtl n | .portStatus n | .portReplays n => [dCanal n]
  | .bootStatus | .svn | .coreCtl | .coreStatus _ | .wdog _ | .wdogPet _ | .recordStatus => [dChimney]
  | _ => []

/-! ## One register -/

/-- The part of a write that falls on one register. -/
structure Part where
  reg : Reg
  base : Nat         -- internal address of the register
  addr : Nat
  size : Nat
  v : Nat
  deriving DecidableEq, Repr

/-- A field lies wholly in the bytes that a part covers (R352). -/
def Part.covers (x : Part) (f : Field) : Bool :=
  decide (8 * (x.addr - x.base) ≤ f.lo) && decide (f.lo + f.w ≤ 8 * (x.addr - x.base + x.size))

/-- What a part writes to a field. -/
def Part.value (x : Part) (f : Field) : Nat := bitField x.v (f.lo - 8 * (x.addr - x.base)) f.w

/-- A field takes its part of a write, by its class (Table 0-3). -/
def stepField (a : Agent) (x : Part) (f : Field) (s : State) : State :=
  let v := x.value f
  match f.cls with
  | .ro => s
  | .w1c | .w1s => if v = 0 then s else putField a x.reg f.lo v s
  | .wo => putField a x.reg f.lo v s
  | _ => putField a x.reg f.lo (storedValue x.reg f.lo v) s

/-- A write acts on the fields of one register that `sel` selects; the flag tells of a lock violation (R355, R356). Locks
are as they stand when the write takes effect. -/
def applyPart (sel : Field → Bool) (a : Agent) (x : Part) (s : State) : State × Bool :=
  ((regFields s x.reg).filter fun f => x.covers f && sel f).foldl (fun r f =>
    if f.cls = .ro then r
    else if mayWrite s a x.reg f.cls then (stepField a x f r.1, r.2)
    else (r.1, r.2 || fieldDiffers x.reg f (x.value f))) (s, false)

/-- Every write to a plot page that a card's class does not allow is ignored in silence (R211). -/
def isPage : Reg → Bool
  | .doorbell .. | .completion .. | .plotStatus _ | .plotRes _ | .event .. | .mbReqDb _ | .mbStatus _ | .mbNotice _ => true
  | _ => false

/-- A write asks a Canal port to train: EN or RETRAIN is written 1. -/
def Part.trains (x : Part) : Option Nat :=
  match x.reg with
  | .portCtl n => if x.addr = x.base ∧ x.v % 4 ≠ 0 then some n else none
  | _ => none

/-- A part whose block sleeps is latched; a request to train wakes the port's domain (R218, R223). -/
def latchPart (a : Agent) (x : Part) (s : State) : State :=
  let s1 := { s with pi := { s.pi with
    latched := s.pi.latched ++ [{ agent := a, addr := x.addr, size := x.size, v := bv 64 x.v }] } }
  match x.trains with
  | some n => ignite [dCanal n] s1
  | none => s1

/-- One pass over the parts of a write, in order. -/
def applyParts (sel : Field → Bool) (a : Agent) (xs : List Part) (r : State × Bool) : State × Bool :=
  xs.foldl (fun r x => let q := applyPart sel a x r.1; (q.1, r.2 || q.2)) r

/-- The parts of a write: one for each register that it covers. -/
def partsOf (addr size : Nat) (v : Nat) : List Part :=
  let lanes := if size = 8 then [addr, addr + 4] else [addr]
  (lanes.filterMap regAt).eraseDups.map fun r =>
    let lo := max addr r.2
    let hi := min (addr + size) (r.2 + r.1.size)
    { reg := r.1, base := r.2, addr := lo, size := hi - lo, v := bitField v (8 * (lo - addr)) (8 * (hi - lo)) }

/-- Parts take effect, those of the lower address first (log 93), or are latched while their blocks sleep. What a write
clears it clears before anything that it sets: an event in the same clock as the clearing of its bit leaves the bit set
(R9). One violation at most is reported (16 corners). -/
def landParts (a : Agent) (xs : List Part) (s : State) : State :=
  let now := xs.filter fun x => awake s (blockOf x.reg)
  let s1 := (xs.filter fun x => !awake s (blockOf x.reg)).foldl (fun t x => latchPart a x t) s
  let r := applyParts (·.cls != .w1c) a now (applyParts (·.cls == .w1c) a now (s1, false))
  if r.2 then raise 51 none r.1 else r.1

/-! ## Reach of a core (Table 11-1, R238, R346) -/

def inside (lo hi a n : Nat) : Bool := decide (lo ≤ a) && decide (a + n ≤ hi)

/-- What component `k` may write. -/
def compReach (k a n : Nat) : Bool :=
  let page := fun (x size : Nat) => inside (setupBase + x) (setupBase + x + size) a n
  let r := dataRegion k
  inside r.1 (r.1 + r.2) a n
    || (if k = 0 then
          page 0xB00000 0x10000 || page 0xE00000 0x10000 || page 0x100028 8 || page 0x100030 4 || page 0x100200 4
            || (match plotOffset a with | some (_, o) => inside 0xC000 0xE000 o n | none => false)
        else if k = 1 then page 0x200000 0x200000 || page 0x400000 0x10000 || page 0x500010 4
        else if k = 2 then page 0x800000 0x10000 || page 0x900000 0x10000 || page 0xA00000 0x10000 || page 0x700000 0x10000
        else page 0x100000 0x10000 || page 0xC00000 0x10000 || page 0x600010 4)

/-- What a core may write: the regions of every component it runs, and the shared region. -/
def coreReach (s : State) (c a n : Nat) : Bool :=
  inside 0x1E0000 0x200000 a n || (compsOf s c).any fun k => compReach k a n

/-- What a core may read: the code region, its own data regions, the shared region, every page (R238). -/
def coreReads (s : State) (c a n : Nat) : Bool :=
  inside 0 0x100000 a n || inside 0x1E0000 0x200000 a n || inside setupBase (setupBase + 2 ^ 28) a n
    || inside plotBase (plotBase + 0x400000) a n
    || (compsOf s c).any fun k => inside (dataRegion k).1 ((dataRegion k).1 + (dataRegion k).2) a n

/-- An access outside a core's reach does not take place, and the core restarts (R238, R245). -/
def breach (c : Nat) (s : State) : State := raise 48 none (startRestart c 3 s)

/-! ## Buffers of a mailbox, Chimney SRAM -/

/-- Bytes at an offset of a buffer that reads 0 past its end. -/
def bufPut (b : List Byte) (o : Nat) (bytes : List Byte) : List Byte := putBytes (padTo (max b.length (o + bytes.length)) b) o bytes

/-- A host write into the request buffer of a plot page (Table 11-6). -/
def writeRequest (p o : Nat) (bytes : List Byte) (s : State) : State :=
  if 0xC100 ≤ o ∧ o + bytes.length ≤ 0xC900 ∧ pageThere s p then modMail p (fun m => { m with reqBuf := bufPut m.reqBuf (o - 0xC100) bytes }) s
  else s

/-- A notice ring with bytes written at an offset of its 2 KiB. -/
def ringPut (r : Tbl (List Byte)) (o : Nat) (bytes : List Byte) : Tbl (List Byte) :=
  tblSet ringDef r (o / 64) (putBytes (padTo 64 (tblGet ringDef r (o / 64))) (o % 64) bytes)

/-- CH0 writes into the response buffer or the notice ring. -/
def writeResponse (p o : Nat) (bytes : List Byte) (s : State) : State :=
  if inside 0xC900 0xD100 o bytes.length then modMail p (fun m => { m with respBuf := bufPut m.respBuf (o - 0xC900) bytes }) s
  else if inside 0xD100 0xD900 o bytes.length then modMail p (fun m => { m with ntcRing := ringPut m.ntcRing (o - 0xD100) bytes }) s
  else s

/-! ## Writes -/

/-- A write at an internal address by an agent that may make it. -/
def landWrite (a : Agent) (addr size : Nat) (v : BitVec 64) (s : State) : State :=
  let bytes := natLe size v.toNat
  match a, plotOffset addr with
  | .core _, some (p, o) => if p < 64 then writeResponse p o bytes s else s
  | .core _, none =>
    if addr < 0x200000 then { s with ch := { s.ch with sram := memWrite memDefault s.ch.sram addr bytes } }
    else landParts a (partsOf addr size v.toNat) s
  | _, some (p, o) => landParts a (partsOf addr size v.toNat) (writeRequest p o bytes s)
  | _, none => landParts a (partsOf addr size v.toNat) s

/-- A write to a page must be 4 or 8 bytes and naturally aligned; any other is ignored (R352). -/
def pageWrite (addr size : Nat) : Bool := (size == 4 || size == 8) && addr % size == 0

/-- A write at an internal address (R351, R352). What a core writes to SRAM may have any size. -/
def writeAt (a : Agent) (addr size : Nat) (v : BitVec 64) (s : State) : State :=
  if s.pi.pwrok = false then s
  else
    match a with
    | .pf => if s.hp.up ∧ pageWrite addr size then landWrite a addr size v s else s
    | .vf p =>
      if s.hp.up ∧ pageWrite addr size ∧ 1 ≤ p ∧ p ≤ s.hp.numVfs ∧ (plotOffset addr).map (·.1) = some p then landWrite a addr size v s else s
    | .core c =>
      if (getCore s c).state ≠ .running ∨ coreIn s c = false then s
      else if coreReach s c addr size = false then breach c s
      else if addr < 0x200000 ∨ pageWrite addr size then landWrite a addr size v s else s
    | _ => s

/-- The internal address that an agent's address names: the PF's BAR0/1 offset, a VF's BAR0/1 offset, a core's
own address. -/
def busAddr (a : Agent) (addr : Nat) : Nat :=
  match a with
  | .pf => if addr < 0x10000 then plotBase + addr else setupBase + addr
  | .vf p => plotBase + 0x10000 * p + addr
  | _ => addr

/-- A 4-byte write to a setup register. -/
def write4 (a : Agent) (off : Nat) (v : Nat) (s : State) : State := writeAt a (setupBase + off) 4 (bv 64 v) s

/-! ## Delivery -/

/-- The registers that a latched write reaches. -/
def heldParts (h : HeldWrite) : List Part := partsOf h.addr h.size h.v.toNat

/-- The block of a latched write is awake. -/
def heldReady (s : State) (h : HeldWrite) : Bool :=
  match plotOffset h.addr with
  | some _ => awake s [dFront]
  | none => (heldParts h).all fun x => awake s (blockOf x.reg)

/-- A latched tail. -/
def HeldWrite.isTail (h : HeldWrite) : Bool := (plotOffset h.addr).isSome

/-- A latched tail is delivered. -/
def deliverTail (h : HeldWrite) (s : State) : State :=
  match plotOffset h.addr with
  | some (p, o) =>
    (match globalFur s p (o / 8) with
     | some f => if (getPlot s p).state = .live then storeTail f (h.v.setWidth 16) s else s
     | none => s)
  | none => s

/-- Latched writes whose blocks are awake take effect in arrival order, then latched tails (R218, R224). -/
def deliverHeld (s : State) : State :=
  let now := s.pi.latched.filter (heldReady s)
  let s1 := { s with pi := { s.pi with latched := s.pi.latched.filter fun h => !heldReady s h } }
  let s2 := (now.filter fun h => !h.isTail).foldl (fun t h => landParts h.agent (heldParts h) t) s1
  (now.filter (·.isTail)).foldl (fun t h => deliverTail h t) s2

/-! ## Reads (R216, R217, R352) -/

/-- The latched writes, by register, in the order in which they arrived. -/
def latchedParts (s : State) : List (Agent × Part) :=
  (s.pi.latched.filter fun h => !h.isTail).flatMap fun h => (heldParts h).map fun x => (h.agent, x)

/-- The register that holds the lock of a register's RWL fields, and the lock's bit (Table 16-2). -/
def lockOf : Reg → Option (Reg × Nat)
  | .furRing f | .furCfg f | .furHead f | .furTicket f => some (.furCfg f, 7)
  | .gangCfg => some (.gangCtl, 0)
  | _ => none

/-- A field as a latched write leaves it in the shadow. -/
def shadowField (x : Part) (f : Field) : Field :=
  let v := x.value f
  match f.cls with
  | .ro | .wo => f
  | .w1c => { f with v := f.v ^^^ (f.v &&& v) }
  | .w1s => { f with v := f.v ||| v }
  | _ => { f with v := storedValue x.reg f.lo v }

/-- The lock of a register as a latched write leaves it in the shadow. -/
def shadowLock (r : Reg) (x : Part) (locked : Bool) : Bool :=
  match lockOf r with
  | some (k, bit) => if x.reg = k ∧ x.covers ⟨bit, 1, .rw, 0⟩ then x.value ⟨bit, 1, .rw, 0⟩ == 1 else locked
  | none => locked

/-- A latched write of one register as the shadow of another, or of the same, takes it: the lock, then the fields. -/
def shadowPart (s : State) (r : Reg) (h : Agent × Part) (k : Bool × List Field) : Bool × List Field :=
  let may := fun (c : Cls) => (match h.1 with | .core _ => true | _ => !hostNone r) && !(c == .rwl && k.1)
  (shadowLock r h.2 k.1,
   if h.2.reg = r ∧ !awake s (blockOf r) then k.2.map fun f => if h.2.covers f && may f.cls then shadowField h.2 f else f else k.2)

/-- The fields of a register as the shadow shows them: those of its block, with the writes to it that are latched, and
nothing that another write would bring about (R217, 01 corners). -/
def shadowFields (s : State) (r : Reg) : List Field :=
  ((latchedParts s).foldl (fun k h => shadowPart s r h k) (regLocked s r .rwl, regFields s r)).2

/-- The value of a register as the host reads it. -/
def readRegister (s : State) (r : Reg) : Nat := fieldsValue (shadowFields s r)

/-- The byte at an internal address, as a reader is given it; an unassigned one reads 0 (R11). -/
def readByte (s : State) (a : Nat) : Nat :=
  let card := match regAt a with
    | some (r, b) => bitField (readRegister s r) (8 * (a - b)) 8
    | none => 0
  match plotOffset a with
  | some (p, o) =>
    let m := (getPlot s p).mail
    if inside 0xC900 0xD100 o 1 && pageThere s p then leAt m.respBuf (o - 0xC900) 1
    else if inside 0xD100 0xD900 o 1 && pageThere s p then leAt (tblGet ringDef m.ntcRing ((o - 0xD100) / 64)) ((o - 0xD100) % 64) 1
    else card
  | none => card

/-- What a read of `n` bytes at an internal address returns. -/
def readBytes (s : State) (a n : Nat) : List Byte := (List.range n).map fun i => bv 8 (readByte s (a + i))

/-- A core's read of `n` bytes: outside its reach it returns 0 and the core restarts (R238). -/
def coreLoad (c a n : Nat) (s : State) : State :=
  if s.pi.pwrok = false ∨ (getCore s c).state ≠ .running ∨ coreIn s c = false then s
  else if coreReads s c a n = false then breach c (emit (.coreLoad c (List.replicate n 0)) s)
  else emit (.coreLoad c (if a < 0x200000 then memRead memDefault s.ch.sram a n else readBytes s a n)) s

/-! ## Writes with a row of their own -/

/-- FURROW_ARM (R149): a write of HG_FUR_CFG with ARM 1. -/
def execFurrowArm (a : Agent) (f : Nat) (v : BitVec 32) (s : State) : Res :=
  .next (if f < 16384 ∧ v.getLsbD 7 then write4 a (0x300008 + 0x40 * f) v.toNat s else s)

/-- FURROW_DISARM (R149): with ARM 0. -/
def execFurrowDisarm (a : Agent) (f : Nat) (v : BitVec 32) (s : State) : Res :=
  .next (if f < 16384 ∧ v.getLsbD 7 = false then write4 a (0x300008 + 0x40 * f) v.toNat s else s)

/-- SCHED_COMMIT (R176): a write of HG_SCHED_CTL with COMMIT 1. -/
def execSchedCommit (a : Agent) (v : BitVec 32) (s : State) : Res :=
  .next (if v.getLsbD 0 then write4 a 0x200100 v.toNat s else s)

/-- HEARTH_HOLD (R187): a write of HG_SCHED_CTL. -/
def execHearthHold (a : Agent) (v : BitVec 32) (s : State) : Res := .next (write4 a 0x200100 v.toNat s)

/-- GAUGE_EN_WRITE (R190, R209). -/
def execGaugeEnWrite (a : Agent) (v : BitVec 32) (s : State) : Res := .next (write4 a 0x200100 v.toNat s)

/-- CTX_SAVE (R184). -/
def execCtxSave (a : Agent) (n : Nat) (s : State) : Res := .next (if n < 16 then write4 a 0x200110 (1 + 16 * n) s else s)

/-- CTX_RESTORE (R185). -/
def execCtxRestore (a : Agent) (n : Nat) (s : State) : Res := .next (if n < 16 then write4 a 0x200110 (2 + 16 * n) s else s)

/-- CTX_DISCARD (R184). -/
def execCtxDiscard (a : Agent) (n : Nat) (s : State) : Res := .next (if n < 16 then write4 a 0x200110 (3 + 16 * n) s else s)

/-- MODE_CTL_WRITE (R56, R57). -/
def execModeCtlWrite (a : Agent) (v : BitVec 32) (s : State) : Res := .next (write4 a 0x500010 v.toNat s)

/-- FAST_EN_WRITE (R208, R209). -/
def execFastEnWrite (a : Agent) (v : BitVec 32) (s : State) : Res := .next (write4 a 0x100124 v.toNat s)

/-- CORE_RESTART_CMD (R245). -/
def execCoreRestartCmd (a : Agent) (v : BitVec 32) (s : State) : Res := .next (write4 a 0xB00010 v.toNat s)

/-- WDOG_PET (R245): any write restarts the period. -/
def execWdogPet (a : Agent) (c : Nat) (s : State) : Res := .next (if c < 4 then write4 a (0xB00108 + 0x10 * c) 0 s else s)

/-- SB_ACK (R270). -/
def execSbAck (a : Agent) (v : BitVec 32) (s : State) : Res := .next (write4 a 0xC00038 v.toNat s)

/-- SB_FORCE_SMOKE (R272, R275). -/
def execSbForceSmoke (a : Agent) (s : State) : Res := .next (write4 a 0xC00044 1 s)

/-- SB_FORCE_HG_STOP (R272). -/
def execSbForceHgStop (a : Agent) (s : State) : Res := .next (write4 a 0xC00044 2 s)

/-- SB_STATUS_CLEAR (R273). -/
def execSbStatusClear (a : Agent) (bits : BitVec 64) (s : State) : Res := .next (writeAt a (setupBase + 0xC00000) 8 bits s)

/-- TIME_ADJ (R228). -/
def execTimeAdj (a : Agent) (n : BitVec 48) (s : State) : Res := .next (writeAt a (setupBase + 0x100028) 8 (n.setWidth 64) s)

/-- PTM_TRIGGER (R229). PERIOD_MS is written with the value it holds. -/
def execPtmTrigger (a : Agent) (s : State) : Res := .next (write4 a 0x100030 (1 + 256 * s.pi.ptmPeriod.toNat) s)

/-- CN_PORT_ENABLE (R292): a write of CN_PORT_CTL. -/
def execCnPortEnable (a : Agent) (n : Nat) (v : BitVec 32) (s : State) : Res :=
  .next (if n < 4 then write4 a (0xD00000 + 0x40 * n) v.toNat s else s)

/-- CN_PORT_RETRAIN (R291): EN is written with the value it holds. -/
def execCnPortRetrain (a : Agent) (n : Nat) (s : State) : Res :=
  .next (if n < 4 then write4 a (0xD00000 + 0x40 * n) (2 + b2n (getPort s n).en) s else s)

/-- GANG_FORM (R295): FORM is written 1. -/
def execGangForm (a : Agent) (s : State) : Res := .next (write4 a 0xD00208 1 s)

/-- GANG_LEAVE (R303, R304): FORM is written 0. -/
def execGangLeave (a : Agent) (s : State) : Res := .next (write4 a 0xD00208 0 s)

/-- GANG_MEASURE (R296): FORM is written with the value it holds. -/
def execGangMeasure (a : Agent) (s : State) : Res := .next (write4 a 0xD00208 (2 + b2n s.cn.form) s)

end Sys2Proof.Machine
end

