-- ==== Sys2Proof/Machine/Power.lean ====
section
/-!
DEFINITION. Power states, ignition, the Scuttle flush, the governor, clocks, temperature, tile time and PTM,
the patrol scrubber (10_pilot_and_power R213 to R236, R385; 01_the_tile R18 to R23; 06_basin_and_sluices
R124). Commands DOMAIN_WAKE_COMPLETE, DOMAIN_STEP_DOWN, SCUTTLE_FLUSH, GOVERNOR_SET, GOVERNOR_TICK,
HCLK_CHANGE, THERMAL_SAMPLE, THERMAL_TRIP, REF_LOSS, REF_LOCK, PTM_PERIOD, PTM_DIALOGUE_DONE, PATROL_SCRUB.
-/
namespace Sys2Proof.Machine

/-! ## Idle domains (R220) -/

/-- Some operation that was dispatched satisfies a test; one that is preempted runs in no domain. -/
def anyInFlight (s : State) (q : Op → Bool) : Bool :=
  s.hg.furrows.any fun kv => kv.2.queue.any fun o => o.inFlight && o.phase != .preempted && q o

/-- An operation uses Basin, HBM, a Firebox, a Flue half. -/
def usesBasin (o : Op) : Bool := [0x08, 0x09, 0x0A, 0x0B, 0x10, 0x12].contains o.opcode
def usesHbm (o : Op) : Bool :=
  o.opcode == 0x0B || o.opcode == 0x12
    || (o.opcode == 0x0A && moveForm o.bytes == 0 && ((sluiceDesc o.bytes).src == 2 || (sluiceDesc o.bytes).dst == 2))
def usesFb (s : State) (q : Nat) (o : Op) : Bool :=
  match o.slot? with
  | some n => (slotFbs s n).contains q
  | none => o.opcode == 0x0B
def usesFlue (o : Op) : Bool :=
  o.opcode == 0x09 || o.opcode == 0x0B
    || (o.opcode == 0x08 && !(gemmDesc o.bytes).hold && (gemmDesc o.bytes).epiFn != 0xFF)

/-- A domain is idle. -/
def domainIdle (s : State) (d : Nat) : Bool :=
  if d = 0 then
    !(s.hg.furrows.any fun kv => furLive s kv.1) && !(s.sl.channels.any fun kv => kv.2.busy)
  else if d = 1 then !(s.hg.plots.any fun kv => kv.2.mail.pending) && ([0, 1, 2, 3] : List Nat).all fun c => (getCore s c).state != .restarting
  else if d = 2 then !anyInFlight s usesBasin
  else if d = 3 then !anyInFlight s usesHbm && !s.ba.hdmWait
  else if d < 8 then !anyInFlight s (usesFb s (d - 4)) && !(getFb s (d - 4)).busy
  else if d < 10 then !anyInFlight s usesFlue
  else
    let p := getPort s (d - 10)
    p.state != .phyTrain && p.state != .canalTrain && p.buffer.isEmpty && p.txq.isEmpty

/-! ## Limits on depth (R221, Tables 1-4 and 10-3, R19 to R21) -/

def powerOfCode : Nat → Power
  | 0 => .stoked | 1 => .banked | 2 => .ember | _ => .dark

/-- The target of a domain. -/
def targetOf' (s : State) (d : Nat) : Nat := bitField s.pi.domTarget.toNat (2 * d) 2

/-- The DEEP limit of a domain's class; CHIMNEY has none. -/
def deepOf (s : State) (d : Nat) : Nat :=
  let v := s.pi.deep.toNat
  if d = 0 then bitField v 6 2 else if d = 1 then 3 else if d = 2 then bitField v 2 2 else if d = 3 then bitField v 4 2 else bitField v 0 2

/-- A leased slot of Firebox q's quarter whose record is not valid. -/
def slotHolds (s : State) (q : Nat) : Bool :=
  (List.range 16).any fun n => (!s.he.modeCur || n / 4 == q) && (getSlot s n).lease.isSome && !s.hg.ctxValid.getLsbD n

/-- The content limits of Table 10-3. -/
def mayDark (s : State) (d : Nat) : Bool :=
  if d = 2 then
    (s.hg.plots.all fun kv => kv.2.basinSize == 0) && (s.ch.lists.all fun kv => match kv.2 with | some l => l.resident.isNone | none => true)
      && s.hg.ctxValid == 0
  else if d = 3 then s.hg.plots.all fun kv => kv.2.hbmSize == 0
  else if 4 ≤ d ∧ d < 8 then !slotHolds s (d - 4)
  else if d = 0 then s.sc.flushed
  else true

/-- The deepest state that R221 allows; R305 holds the ports of a gang. -/
def depthLimit (s : State) (d : Nat) : Nat :=
  let a := min (targetOf' s d) (deepOf s d)
  let b := if d = 1 then min a 2 else a
  let c := if d = 3 ∧ (s.ba.hdmCommitted ∨ s.ba.hdmWait) ∨ 10 ≤ d ∧ s.cn.form ∧ (getPort s (d - 10)).en then min b 1 else b
  if mayDark s d then c else min c 2

/-- Every domain that needs `d` has left STOKED (R19). -/
def neededByNone (s : State) (d : Nat) : Bool :=
  (List.range 14).all fun e => !(domNeeds e).contains d || (getPower s e != .stoked && !s.pi.waking.contains e)

/-! ## Going down -/

/-- A slot's entries where those that satisfy a test have become the A96 empty word (R222). -/
def lostEntries (lost : Nat → Bool) (x : Slot) : Tbl (BitVec 96) :=
  if emptyWord x.word = emptyWord .a96 then x.entries.filter fun kv => !lost kv.1
  else (List.range (x.rows * x.cols)).filterMap fun i =>
    let v := if lost i then emptyWord .a96 else tblGet (entryDef x.word) x.entries i
    if v = emptyWord x.word then none else some (i, v)

/-- A slot loses the entries that lie in quarter `q`; a valid record now holds what it lost (R185, R222, R383). -/
def loseSlot (q n : Nat) (s : State) : State :=
  let lost := fun i => entryQuarter s.he.modeCur n (getSlot s n) i == q
  let s1 := if s.hg.ctxValid.getLsbD n then { s with hg := { s.hg with ctxLost := setBit s.hg.ctxLost n true } } else s
  modSlot n (fun x => { x with entries := lostEntries lost x, bad := x.bad.filter fun i => !lost i }) s1

/-- A table image whose SRAM was lost: the registers kept of it stay, its entries read 0. -/
def loseImage (b : List Byte) : List Byte := b.take 64 ++ List.replicate (b.length - 64) 0

def loseTables (s : State) : State :=
  (List.range 16).foldl (fun t n =>
    let x := getTable t n
    setTable t n { x with bank0 := x.bank0.map loseImage, bank1 := x.bank1.map loseImage, bad := [] }) s

/-- What a domain loses on entering DARK (R22); a wake finds it zeroed (R222). -/
def loseDomain (d : Nat) (s : State) : State :=
  if d = 0 then { s with sc := { s.sc with lines := [], trans := [] } }
  else if d = 1 then { s with ch := { s.ch with sram := [] } }
  else if d = 2 then { s with ba := { s.ba with basin := [], basinBad := [] } }
  else if d = 3 then { s with ba := { s.ba with hbm := [], hbmBad := [] } }
  else if d < 8 then
    (List.range 16).foldl (fun t n => if !t.he.modeCur || n / 4 == d - 4 then loseSlot (d - 4) n t else t)
      (modFb (d - 4) (fun x => { x with cells := [] }) s)
  else if d < 10 then loseTables s
  else s

/-- A domain enters a state. -/
def enterState (d : Nat) (x : Power) (s : State) : State :=
  let s1 := setPower s d x
  if x = .dark then loseDomain d s1 else s1

/-- DOMAIN_STEP_DOWN (R220, R221): an idle domain whose idle time has passed goes one state down. FRONT leaves
STOKED only after the flush of Table 10-5. -/
def execDomainStepDown (d : Nat) (s : State) : Res :=
  .next (
    let now := powerCode (getPower s d)
    if d < 14 ∧ s.pi.pwrok ∧ s.pi.trip = false ∧ s.pins.vaux12Lost = false ∧ s.pi.waking.contains d = false
        ∧ now < depthLimit s d ∧ domainIdle s d ∧ (now ≠ 0 ∨ neededByNone s d) ∧ (d ≠ 0 ∨ s.sc.flushed)
    then enterState d (powerOfCode (now + 1)) s else s)

/-- SCUTTLE_FLUSH (R225): FRONT's idle time has reached IDLE_BANKED_US; a clean eviction leaves for every line. -/
def execScuttleFlush (s : State) : Res :=
  .next (
    if awake s [dFront] ∧ domainIdle s dFront ∧ 0 < depthLimit s dFront ∧ s.pi.trip = false then
      let s1 := s.sc.lines.foldl (fun t l => emit (.evict l.plot l.addr) t) s
      { s1 with sc := { lines := [], trans := [], flushed := true } }
    else s)

/-! ## Waking -/

/-- A committed HDM decoder that waited for HBM (R313). -/
def settleHdm (s : State) : State :=
  if s.ba.hdmWait ∧ awake s [dHbm] then { s with ba := { s.ba with hdmWait := false, hdmCommitted := true } } else s

/-- A domain becomes STOKED: what waited for it goes on. -/
def wakeDomain (d : Nat) (s : State) : State :=
  let s1 := setPower { s with pi := { s.pi with waking := s.pi.waking.filter (· ≠ d) } } d .stoked
  let s2 := if d = 0 then { s1 with sc := { s1.sc with flushed := false } } else s1
  let s3 := continueMode (settleCtx (settleHdm (deliverHeld s2)))
  if 10 ≤ d then pump (d - 10) s3 else if d = 1 then answerHeld s3 else s3

/-- DOMAIN_WAKE_COMPLETE (R219, R222, R223): a waking domain whose needs are STOKED. -/
def execDomainWakeComplete (d : Nat) (s : State) : Res :=
  .next (if s.pi.waking.contains d ∧ awake s (domNeeds d) then wakeDomain d s else s)

/-! ## Governor (R230 to R233, R385) -/

/-- The body of GOVERNOR_SET (Table 10-8). -/
structure GovBody where
  clkMax : Nat
  clkMin : Nat
  cap : Nat
  alert : Nat
  policy : Nat
  deep : Nat
  banked : Nat
  ember : Nat
  dark : Nat
  deriving DecidableEq, Repr

def govBody (b : List Byte) : GovBody :=
  { clkMax := byteField b 32 0 3, clkMin := byteField b 33 0 3, cap := leAt b 34 2, alert := leAt b 36 1
    policy := byteField b 37 0 2, deep := leAt b 38 1, banked := leAt b 40 2, ember := leAt b 42 2, dark := leAt b 44 2 }

def govCheck (_ : State) (o : Op) : Nat :=
  let g := govBody o.bytes
  firstCode [
    (decide (g.clkMax ≤ 6) && decide (g.clkMin ≤ g.clkMax) && decide (100 ≤ g.cap) && decide (g.cap ≤ 700)
      && decide (70 ≤ g.alert) && decide (g.alert ≤ 105) && decide (g.policy ≤ 2)
      && decide (1 ≤ g.banked) && decide (1 ≤ g.ember) && decide (1 ≤ g.dark), rFieldRange)]

/-- GOVERNOR_SET acts: the body becomes PI_GOV_LIMIT. -/
def govAct (f : Nat) (o : Op) (s : State) : State :=
  let g := govBody o.bytes
  completeOp f o.id 0 false { s with pi := { s.pi with
    clkMax := bv 3 g.clkMax, clkMin := bv 3 g.clkMin, powerCap := bv 10 g.cap, tAlert := bv 8 g.alert, modePolicy := bv 2 g.policy
    deep := bv 8 g.deep, idleBankedUs := bv 16 g.banked, idleEmberUs := bv 16 g.ember, idleDarkMs := bv 16 g.dark } }

/-- GOVERNOR_SET (R232). -/
def execGovernorSet (f : Nat) (s : State) : Res := .next (ordered f 0x13 [] govCheck (fun _ _ => true) (govAct f) s)

/-- Module power is above POWER_CAP (R233). -/
def overCap (s : State) (g : GovChoice) : Bool := decide (s.pi.powerCap < g.power)

/-- The cap wins over CLK_MIN (R233): power is above it at CLK_MIN or below, or HCLK is below CLK_MIN for it already and
CLK_MIN would not hold it. -/
def capWins (s : State) (g : GovChoice) : Bool :=
  (overCap s g && decide (s.pi.hclkLevel ≤ s.pi.clkMin)) || (s.pi.capped && g.capBelowMin)

/-- The HCLK level that a tick asks for, before the clamp: the policy's choice within the limits, below CLK_MIN only where
the cap wins, and below the level in force while power is above the cap (R385, R233). -/
def govLevel (s : State) (g : GovChoice) : BitVec 3 :=
  let lo := if capWins s g then 0 else s.pi.clkMin
  let a := if s.pi.clkMax < g.level then s.pi.clkMax else if g.level < lo then lo else g.level
  let down := s.pi.hclkLevel - 1
  if overCap s g ∧ s.pi.hclkLevel ≠ 0 ∧ down < a then down else a

/-- A level under the thermal clamp: at most 2 (R234). -/
def clamped (s : State) (l : BitVec 3) : BitVec 3 := if s.pi.clamp ∧ 2 < l then 2 else l

/-- The engine mode that the policy may ask for under MODE_POLICY; WHOLE yields to R57. -/
def govMode (s : State) (m : Option Bool) : Option Bool :=
  let want := if s.pi.modePolicy = 1 then some false else if s.pi.modePolicy = 2 then some true else m
  match want with
  | some false => if wholeOk s then some false else none
  | x => x

/-- GOVERNOR_TICK (R230, R385): CH3 decides within the limits; CH1 carries a change of engine mode out, by Table 8-3. -/
def execGovernorTick (g : GovChoice) (s : State) : Res :=
  .next (
    if compRuns s 3 = false ∨ s.pi.phase ≠ .ready ∨ s.pi.trip then s
    else
      let lv := clamped s (govLevel s g)
      let s1 := { s with pi := { s.pi with
        hclkNext := if lv = s.pi.hclkLevel then none else some lv
        capped := decide (govLevel s g < s.pi.clkMin) && capWins s g
        powerW := g.power, domTarget := g.target
        ign := g.ign.foldl (fun t x => if x.1 < 64 then tblSet ignDef t x.1 x.2 else t) s.pi.ign } }
      match govMode s g.mode with
      | some m => askMode m s1
      | none => s1)

/-- HCLK_CHANGE (R17): the level asked for takes effect at the next run boundary, under the clamp. -/
def execHclkChange (s : State) : Res :=
  .next (
    match s.pi.hclkNext with
    | some l => { s with pi := { s.pi with hclkLevel := clamped s l, hclkNext := none } }
    | none => s)

/-! ## Temperature (R234, R235) -/

/-- ALERT sets: the clamp and source 44. -/
def setAlert (s : State) : State :=
  let lv := if 2 < s.pi.hclkLevel then 2 else s.pi.hclkLevel
  raise 44 none { s with pi := { s.pi with alert := true, alertSeen := true, clamp := true, hclkLevel := lv, capped := false } }

/-- THERMAL_SAMPLE (R234): the hottest die sensor reads `t` degrees C. -/
def execThermalSample (t : Int) (s : State) : Res :=
  .next (
    if s.pi.pwrok = false then s
    else
      let m := if t < 0 then 0 else if 255 < t then 255 else t.toNat
      let s1 := { s with pi := { s.pi with tempMax := bv 8 m } }
      if s.pi.tAlert.toNat ≤ m then (if s.pi.alert then s1 else setAlert s1)
      else if m + 5 ≤ s.pi.tAlert.toNat then { s1 with pi := { s1.pi with alert := false, clamp := false } }
      else s1)

/-- THERMAL_TRIP (R235): a die sensor reads `t` degrees C at a trip comparison. -/
def execThermalTrip (t : Int) (s : State) : Res :=
  .next (
    if s.pi.pwrok = false ∨ t < 115 ∨ s.pi.trip then s
    else
      let s1 := { s with pi := { s.pi with trip := true, waking := [] }, pins := { s.pins with ttripLatch := true } }
      let s2 := (List.range 14).foldl (fun u d =>
        if d ≠ 1 then enterState d .dark u else if getPower u 1 = .dark then u else setPower u 1 .ember) s1
      raise 45 none ([0, 1, 2, 3].foldl (fun u n => portLost n u) s2))

/-! ## Reference, tile time, PTM (R213, R214, R228, R229) -/

/-- REF_LOSS (R214): 2 ms have passed since the last edge. The edges may have come back since an earlier loss without a
relock: each loss is an event of its own. -/
def execRefLoss (s : State) : Res :=
  .next (
    if s.pi.pwrok then
      raise 42 none { s with pi := { s.pi with refLocked := false, refLost := true, refAbsent := true } }
    else s)

/-- REF_LOCK (R213): the steps of tile time track the reference from here (R228). -/
def execRefLock (s : State) : Res :=
  .next (
    if s.pi.pwrok then
      let pi := if s.pi.refLocked then s.pi else startPattern s.free s.pi
      { s with pi := { pi with refLocked := true, everLocked := true, refAbsent := false }, free := s.free + 1 }
    else s)

/-- PTM_PERIOD (R229): timer 4 starts a dialogue. -/
def execPtmPeriod (s : State) : Res :=
  .next (if s.pi.pwrok ∧ s.pi.ptmPeriod ≠ 0 then { s with pi := { s.pi with ptmTrigger := true } } else s)

/-- PTM_DIALOGUE_DONE (R229): a dialogue ends with the host's time, or fails. -/
def execPtmDialogueDone (hostTime : Option (BitVec 64)) (s : State) : Res :=
  .next (
    if s.pi.ptmTrigger = false then s
    else
      let pi := { s.pi with ptmTrigger := false }
      match hostTime with
      | some t =>
        if s.hp.up then { s with pi := { pi with ptmHost := t, ptmTile := s.pi.time, ptmValid := true, ptmSeq := s.pi.ptmSeq + 1 } }
        else { s with pi := { pi with ptmValid := false } }
      | none => { s with pi := { pi with ptmValid := false } })

/-! ## Patrol scrubber (R124) -/

/-- PATROL_SCRUB: the scrubber reads the next word; `r` is what it finds in a word that was good. -/
def execPatrolScrub (r : ScrubFind) (s : State) : Res :=
  .next (
    if s.ba.scrubEn = false ∨ awake s [dBasin] = false ∨ basinCap s = 0 then s
    else
      let w := s.ba.scrubPos
      let s1 := { s with ba := { s.ba with scrubPos := if 8 * (w + 1) < basinCap s then w + 1 else 0 } }
      if readBad false s (8 * w) 8 then memUncorr false none s1
      else
        match r with
        | .clean => s1
        | .corrected => memCorr false s1
        | .uncorrectable => memUncorr false none { s1 with ba := { s1.ba with basinBad := w :: s1.ba.basinBad } })

end Sys2Proof.Machine
end

