-- ==== Sys2Proof/Machine/Restart.lean ====
section
/-!
DEFINITION. The end of a single-core restart (11_chimney_firmware R245, R246, R252; 08_headgate_and_stokers R191).
Command CORE_RESTART_DONE.
-/
namespace Sys2Proof.Machine

/-- A registration that failed its check at a restart of CH2 is gone, with a LIST_LOST notice; what was admitted to it
runs to its end first (R246, R252). -/
def loseList (id : Nat) (s : State) : State :=
  match getList s id with
  | none => s
  | some l =>
    if l.doomed then s
    else settleList id (modList id (fun l => { l with doomed := true }) (postNotice 2 l.plot 0x8002 (natLe 4 id) s))

/-- What a component does once it runs again: CH1 posts its stall notices and goes on with Table 8-3 (R191), CH2 drops the
registrations that it could not rebuild. -/
def resumeComp (lost : List Nat) (k : Nat) (s : State) : State :=
  if k = 1 then continueMode (stallNotices s)
  else if k = 2 then lost.foldl (fun t id => loseList id t) s
  else s

/-- CORE_RESTART_DONE (R245): steps 2 to 4 of Table 11-4. `lost` names the registrations that fail their check where the
core runs CH2's component. A restart that a warm reset took over ends with it (R334). -/
def execCoreRestartDone (e : RestartEnd) (s : State) : Res :=
  let c := e.core
  .next (
    if (getCore s c).state ≠ .restarting ∨ s.pi.warmDue then s
    else if (compsOf s c).all (codeOk s) = false then
      raiseUnit 49 none c (modCore c (fun x => { x with state := .stopped, codeBad := true }) s)
    else
      let s1 := (compsOf s c).foldl (fun t k => zeroScratch k t)
        (modCore c (fun x => { x with state := .running, restarts := incHold x.restarts, wdogArmed := true
                                      wdogStart := s.pi.time }) s)
      answerHeld (restartNotices c ((compsOf s c).foldl (fun t k => resumeComp e.lost k t) (flushDue s1))))

end Sys2Proof.Machine
end

