-- ==== Sys2Proof/Machine/HostPort.lean ====
section
/-!
DEFINITION. The host port (14_host_port_and_management R307 to R325, 06 R127, 10 R226): the link, CXL.mem and
CXL.cache requests, ATS, the HDM decoder, SR-IOV, resets that the host causes, timeouts, the CDAT. Commands
LINK_UP, DL_DOWN, LINK_DISABLE, HOT_RESET, PF_FLR, VF_FLR, UCIE_MODULE_FAIL, CXL_MEM_READ, CXL_MEM_WRITE,
CXL_CACHE_SNOOP, ATS_INVALIDATION, HDM_COMMIT, HDM_DECODER_UNCOMMIT, BUS_MASTER_DISABLE, VF_ENABLE,
VF_REMOVE, COMPLETION_TIMEOUT, DOE_CDAT_READ.
-/
namespace Sys2Proof.Machine

/-! ## CXL.mem (R127, R323) -/

/-- A CXL.mem request of a host physical address reaches the tile: the link carries CXL, decoder 0 is committed, the
address lies in it (R313). -/
def memDecoded (s : State) (hpa : Nat) : Bool :=
  s.hp.up && s.hp.cxl && s.ba.hdmCommitted && decide (s.ba.hdmBase ≤ hpa) && decide (hpa - s.ba.hdmBase < hbmCap s)

/-- The device address to which decoder 0 maps a host physical address: base + d to d (R313). -/
def deviceAddr (s : State) (hpa : Nat) : Nat := hpa - s.ba.hdmBase

/-- Some plot's HBM window holds a device address. -/
def inSomeWindow (s : State) (dpa : Nat) : Bool :=
  s.hg.plots.any fun kv => kv.2.hbmSize != 0 && decide (kv.2.hbmBase.toNat * 2 ^ 28 ≤ dpa)
    && decide (dpa < (kv.2.hbmBase.toNat + kv.2.hbmSize.toNat) * 2 ^ 28)

/-- A stray access: counted, and one event while SEEN was 0. -/
def stray (s : State) : State :=
  let s1 := { s with ba := { s.ba with strayCount := incHold s.ba.strayCount, straySeen := true } }
  if s.ba.straySeen then s1 else raise 56 none s1

/-- HBM can serve: STOKED, or BANKED and woken by the request (R21, R223). -/
def hbmServes (s : State) : Bool := getPower s dHbm == .stoked || getPower s dHbm == .banked

/-- The first byte of the 64-byte granule of an address (R128). -/
def granule (a : Nat) : Nat := a / 64 * 64

/-- A CXL.mem read is answered. -/
def memReadAct (dpa : Nat) (s : State) : State :=
  let a := granule dpa
  if inSomeWindow s a = false then emit (.cxlData (List.replicate 64 0) false) (stray s)
  else if readBad true s a 64 then emit (.cxlData (readMem true s a 64) true) (memUncorr true none s)
  else emit (.cxlData (readMem true s a 64) false) s

/-- CXL_MEM_READ (R127, R126). -/
def execCxlMemRead (hpa : Nat) (s : State) : Res :=
  .next (
    if memDecoded s hpa = false then s
    else if hbmServes s then memReadAct (deviceAddr s hpa) (ignite [dHbm] s) else ignite [dHbm] s)

/-- A CXL.mem write of a whole granule is performed. -/
def memWriteAct (dpa : Nat) (bytes : List Byte) (s : State) : State :=
  let a := granule dpa
  emit .cxlDone (if inSomeWindow s a then putMem true s a (padTo 64 bytes) else stray s)

/-- CXL_MEM_WRITE (R127). -/
def execCxlMemWrite (hpa : Nat) (bytes : List Byte) (s : State) : Res :=
  .next (
    if memDecoded s hpa = false then s
    else if hbmServes s then memWriteAct (deviceAddr s hpa) bytes (ignite [dHbm] s) else ignite [dHbm] s)

/-! ## CXL.cache and ATS (R226, R227) -/

/-- CXL_CACHE_SNOOP of a host physical address: the Scuttle answers and drops the line; while FRONT is not STOKED the snoop responder
answers that no line is held. -/
def execCxlCacheSnoop (addr : Nat) (s : State) : Res :=
  .next (
    if s.pi.pwrok = false ∨ s.hp.up = false ∨ s.hp.cxl = false then s
    else if awake s [dFront] then
      let hit := s.sc.lines.any fun l => l.addr == granule addr
      emit (.snoopResp hit) { s with sc := { s.sc with lines := s.sc.lines.filter fun l => l.addr != granule addr } }
    else emit (.snoopResp false) s)

/-- ATS_INVALIDATION: the translations of plot `p` in a range of `size` bytes go, and the completion leaves. -/
def execAtsInvalidation (p addr size : Nat) (s : State) : Res :=
  .next (
    if s.pi.pwrok = false ∨ s.hp.up = false ∨ s.hp.numVfs < p then s
    else
      emit (.atsDone p) { s with sc := { s.sc with
        trans := s.sc.trans.filter fun t => !(t.plot == p && overlaps t.page 4096 addr size) } })

/-! ## HDM decoder 0 (R313) -/

/-- The conditions of a commit. -/
def hdmOk (s : State) (base size ways skip : Nat) : Bool :=
  s.hp.cxl && size == hbmCap s && size != 0 && base % 2 ^ 28 == 0 && size % 2 ^ 28 == 0 && ways == 1 && skip == 0

/-- Decoder 0 is committed under Lock On Commit: it takes nothing. -/
def hdmLocked (s : State) : Bool := s.ba.hdmLock && (s.ba.hdmCommitted || s.ba.hdmWait)

/-- A commit of decoder 0. -/
def commitHdm (base size ways skip : Nat) (lock : Bool) (s : State) : State :=
  if hdmLocked s then s
  else if hdmOk s base size ways skip then
    settleHdm (ignite [dHbm] { s with ba := { s.ba with hdmBase := base, hdmSize := size, hdmLock := lock
                                                        hdmWait := true, hdmCommitted := false, hdmError := false } })
  else { s with ba := { s.ba with hdmWait := false, hdmCommitted := false, hdmError := true } }

/-- Commit is cleared. -/
def uncommitHdm (s : State) : State :=
  if hdmLocked s then s else { s with ba := { s.ba with hdmWait := false, hdmCommitted := false } }

/-- HDM_COMMIT. -/
def execHdmCommit (base size ways skip : Nat) (lock : Bool) (s : State) : Res :=
  .next (if s.hp.up then commitHdm base size ways skip lock s else s)

/-- HDM_DECODER_UNCOMMIT. -/
def execHdmDecoderUncommit (s : State) : Res := .next (if s.hp.up then uncommitHdm s else s)

/-! ## Functions (R318, R325) -/

/-- The configuration of a function is set back: its Bus Master Enable, power state, MSI-X, and the fields that nothing else
holds (log 60). -/
def resetFn (fn : Nat) (s : State) : State :=
  { s with hp := { s.hp with
    master := s.hp.master.filter (· ≠ fn), d3 := s.hp.d3.filter (· ≠ fn), msixOn := s.hp.msixOn.filter (· ≠ fn)
    msixMask := s.hp.msixMask.filter (· ≠ fn), vectors := tblClear (4 * fn) (4 * fn + 4) s.hp.vectors
    cfg := tblClear (2 ^ 16 * fn) (2 ^ 16 * (fn + 1)) s.hp.cfg } }

/-- A Function Level Reset of VF `p` (R203, R206, 14 corners): the plot is reset; a plot in NONE completes it
at once; a quarantined plot holds it. While a warm reset runs it joins that, which resets every plot (R334). -/
def flrVf (p : Nat) (s : State) : State :=
  let t := resetFn p s
  if s.pi.warmDue then emit (.flrDone p) t
  else
    match (getPlot s p).state with
    | .none => emit (.flrDone p) t
    | .quarantined => modPlot p (fun x => { x with flrHeld := true }) t
    | _ => emit (.flrDone p) (resetPlot p t)

/-- VF_FLR. -/
def execVfFlr (p : Nat) (s : State) : Res :=
  .next (if s.hp.up ∧ 1 ≤ p ∧ p ≤ s.hp.numVfs then flrVf p s else s)

/-- VFs up to `n` exist: those above go, each with a Function Level Reset. -/
def setVfs (n : Nat) (s : State) : State :=
  let s1 := (List.range (s.hp.numVfs - n)).foldl (fun t i => flrVf (n + 1 + i) t) s
  { s1 with hp := { s1.hp with numVfs := n } }

/-- VF_ENABLE: VFs up to `numVfs` exist. -/
def execVfEnable (numVfs : Nat) (s : State) : Res :=
  .next (
    if s.hp.up ∧ numVfs ≤ 63 ∧ s.hp.numVfs < numVfs then
      setVfs numVfs { s with hp := { s.hp with vfWant := numVfs, vfOn := true } }
    else s)

/-- VF_REMOVE: each VF above `numVfs` goes, with a Function Level Reset. -/
def execVfRemove (numVfs : Nat) (s : State) : Res :=
  .next (
    if s.hp.up ∧ numVfs < s.hp.numVfs then
      setVfs numVfs { s with hp := { s.hp with vfWant := numVfs, vfOn := decide (numVfs ≠ 0) } }
    else s)

/-- BUS_MASTER_DISABLE. -/
def execBusMasterDisable (fn : Nat) (s : State) : Res :=
  .next (if s.hp.up ∧ fn ≤ s.hp.numVfs then { s with hp := { s.hp with master := s.hp.master.filter (· ≠ fn) } } else s)

/-! ## Resets that the host causes (Table 14-6, Table 15-9 step 1) -/

/-- What the PCIe event sets back: SR-IOV and configuration space, where what AER and RAS report stands; a conventional
reset also the HDM decoder (log 60). -/
def resetConfig (decoder : Bool) (s : State) : State :=
  let s1 := { s with hp := { s.hp with numVfs := 0, vfWant := 0, vfOn := false, master := [], d3 := [], msixOn := [], msixMask := []
                                       doe := [], vectors := [], cfg := if decoder then [] else tblClear 0 (2 ^ 22) s.hp.cfg } }
  if decoder then { s1 with ba := { s1.ba with hdmBase := 0, hdmSize := 0, hdmWait := false, hdmCommitted := false
                                               hdmError := false, hdmLock := false } }
  else s1

/-- LEAVE on every ACTIVE port, when a gang is formed or forming. -/
def leaveAll (s : State) : State :=
  if s.cn.state = .formed ∨ s.cn.state = .forming ∨ s.cn.state = .broken then sendLeave s else s

/-- A warm reset starts: step 1 of Table 15-9. A deeper reset in progress takes it over, a warm reset in
progress is joined (R334). -/
def startWarm (cause : BitVec 3) (s : State) : State :=
  if (s.pi.phase ≠ .ready ∧ s.pi.phase ≠ .recovery ∧ s.pi.phase ≠ .stopped) ∨ s.pi.warmDue then s
  else
    let s1 := leaveAll s
    { s1 with pins := { s1.pins with tileReady := false }
              pi := { s1.pi with service := s1.pi.service ||| 3, warmDue := true, resetLevel := 2, warmCause := cause
                                 warmCount := incHold s1.pi.warmCount } }

/-- The host link is down. -/
def linkDown (s : State) : State :=
  { s with hp := { s.hp with up := false, cxl := false, lanes := 0, rate := 0, modules := 0, carry := 0, downSeen := true } }

/-- PF_FLR (R325). -/
def execPfFlr (s : State) : Res := .next (if s.hp.up then startWarm 1 (resetConfig false s) else s)

/-- HOT_RESET (R325). -/
def execHotReset (s : State) : Res := .next (if s.hp.up then startWarm 2 (resetConfig true s) else s)

/-- LINK_DISABLE (R325). -/
def execLinkDisable (s : State) : Res := .next (if s.hp.up then startWarm 3 (resetConfig true (linkDown s)) else s)

/-- The link is lost: source 29, then a warm reset (R325). -/
def dlDownAct (s : State) : State :=
  let s1 := linkDown s
  startWarm 4 (resetConfig true (raise 29 none { s1 with hp := { s1.hp with lost := true } }))

/-- DL_DOWN (R325). -/
def execDlDown (s : State) : Res := .next (if s.hp.up ∧ s.pi.pwrok then dlDownAct s else s)

/-! ## The link (R307, R308) -/

/-- The set of modules that carries the link: 4, 2 or 1 of those that work. -/
def moduleSet (m : BitVec 4) : Nat :=
  let n := popCount m.toNat 4
  if 4 ≤ n then 4 else if 2 ≤ n then 2 else n

/-- The modules that the link runs on, lowest indices first (R308). -/
def linkModules (m : BitVec 4) : BitVec 4 := ((bitList m.toNat 4).take (moduleSet m)).foldl (fun v i => setBit v i true) 0

/-- Modules in service. -/
def modulesIn (s : State) : BitVec 4 := bv 4 (maskOf 4 fun m => !outBit s (moduleBit m))

/-- The host PHY can train: powered, clocked, outside a reset, in a mode other than OFF. -/
def phyCan (s : State) : Bool :=
  s.pi.pwrok && !s.pi.hrstLow && s.pins.outputsOn && !s.pi.trip && s.pins.vaux12 && !s.pins.vaux12Lost && !s.hp.up

/-- LINK_UP (R308, R312, R362): `modules` are those that trained, in UCIE mode. -/
def execLinkUp (lanes : BitVec 8) (rate : BitVec 3) (cxl : Bool) (modules : BitVec 4) (s : State) : Res :=
  let up := fun (l : Nat) (m : BitVec 4) =>
    { s with hp := { s.hp with up := true, cxl := cxl, lanes := bv 8 l, rate := rate, modules := m, carry := linkModules m
                               lost := false } }
  let work := modules &&& modulesIn s
  .next (
    if phyCan s = false then s
    else if s.pins.strapHost = 0 then (if work ≠ 0 ∧ rate = 5 then up (16 * moduleSet work) work else s)
    else if s.pins.strapHost = 1 then
      (if (lanes = 16 ∨ lanes = 8 ∨ lanes = 4) ∧ 1 ≤ rate ∧ rate ≤ 5 ∧ (cxl = false ∨ 3 ≤ rate)
        then up lanes.toNat 0 else s)
    else s)

/-- UCIE_MODULE_FAIL (R308): the link retrains onto the largest set that still works, source 58; the loss of the last
module takes it down, source 29, and marks that module too. -/
def execUcieModuleFail (m : Nat) (s : State) : Res :=
  .next (
    if s.hp.up ∧ s.pins.strapHost = 0 ∧ m < 4 ∧ s.hp.modules.getLsbD m then
      let rest := setBit s.hp.modules m false
      if rest = 0 then markUnit (moduleBit m) (dlDownAct s)
      else raiseUnit 58 none m { s with hp := { s.hp with modules := rest, carry := linkModules rest, lanes := bv 8 (16 * moduleSet rest) } }
    else s)

/-! ## Completion timeouts (R188, R322) -/

/-- The next segment of a channel's MOVE reads host memory. -/
def readsHost (s : State) (c : Nat) : Bool :=
  match channelOp s c with
  | some (_, o) => (sluiceDesc o.bytes).src == 0
  | none => false

/-- COMPLETION_TIMEOUT: the access that met it ends as with an error completion. -/
def execCompletionTimeout (t : TimedOut) (s : State) : Res :=
  match t with
  | .ringFetch f => if (getFur s f).kind = 2 then .next s else execDescriptorFetch f .timeout s
  | .snapshot f => execSnapshotTaken f .timeout s
  | .segment c => if readsHost s c then execSluiceSegment c .timeout s else .next s

/-! ## CDAT (R314) -/

/-- MT/s of a link rate code. -/
def rateMts (r : BitVec 3) : Nat :=
  if r = 1 then 2500 else if r = 2 then 5000 else if r = 3 then 8000 else if r = 4 then 16000 else if r = 5 then 32000 else 0

/-- Peak bandwidth of the trained link per direction, in units of 250 MB/s (Table 14-1). -/
def peakUnits (s : State) : Nat := s.hp.lanes.toNat * rateMts s.hp.rate / 8 / 250

/-- A DSLBIS entry: data type, unit, value. -/
def dslbis (kind unit value : Nat) : List Byte :=
  [1, 0] ++ natLe 2 24 ++ [0, 0] ++ natLe 1 kind ++ [0] ++ natLe 8 unit ++ natLe 2 value ++ List.replicate 6 0

/-- The entries of the CDAT: one DSMAS over all of HBM; 600 ns read and write latency in units of 1000 ps;
read and write bandwidth (log 50). -/
def cdat (s : State) : List Byte :=
  [0, 0] ++ natLe 2 24 ++ List.replicate 4 0 ++ natLe 8 0 ++ natLe 8 (hbmCap s)
    ++ dslbis 1 1000 600 ++ dslbis 2 1000 600 ++ dslbis 4 250 (peakUnits s) ++ dslbis 5 250 (peakUnits s)

/-- The CDAT is sent through the PF's DOE (R314). -/
def sendCdat (s : State) : State := if s.pi.pwrok ∧ s.hp.up then emit (.doe (cdat s)) s else s

/-- DOE_CDAT_READ. -/
def execDoeCdatRead (s : State) : Res := .next (sendCdat s)

end Sys2Proof.Machine
end

