-- ==== Sys2Proof/Machine/CfgSpace.lean ====
section
/-!
DEFINITION. Configuration space, the component registers of BAR2/3, and the MSI-X tables of BAR4/5
(14_host_port_and_management R311, R313 to R324, 10_pilot_and_power R229), and the command REGISTER_WRITE, which reaches
them and the register pages. The manual names the capabilities and what they report; where each stands, and the places of
its fields, follow PCI Express and CXL (log 114).
-/
namespace Sys2Proof.Machine

/-! ## Fields of a space -/

/-- The bit of a space at which bit `lo` of the register at offset `o` stands. -/
def bitPos (o lo : Nat) : Nat := 8 * o + lo

/-- The pseudo-function under which the fields of BAR2/3 are kept. -/
def barKey : Nat := 64

/-- A writable field that nothing else holds, by function and bit. Max_Read_Request_Size is 512 bytes and the system page
4 KiB at reset, as PCI Express has it. -/
def cfgDef (k : Nat) : Nat :=
  if k % 2 ^ 16 = bitPos 0x48 12 then 2 else if k % 2 ^ 16 = bitPos 0x178 0 then 1 else 0
def cfgGet (s : State) (fn pos : Nat) : Nat := tblGet cfgDef s.hp.cfg (2 ^ 16 * fn + pos)
def cfgSet (fn pos v : Nat) (s : State) : State :=
  { s with hp := { s.hp with cfg := tblSet cfgDef s.hp.cfg (2 ^ 16 * fn + pos) v } }

/-- Short forms: a field that reports, one of a class, one that is kept as written. -/
def cro (o lo w v : Nat) : Field := ⟨bitPos o lo, w, .ro, v⟩
def cfl (c : Cls) (o lo w v : Nat) : Field := ⟨bitPos o lo, w, c, v⟩
def kept (s : State) (fn o lo w : Nat) : Field := ⟨bitPos o lo, w, .rw, cfgGet s fn (bitPos o lo)⟩

/-- The header of an extended capability: identifier, version 1, next. -/
def extCap (o id next : Nat) : List Field := [cro o 0 16 id, cro o 16 4 1, cro o 20 12 next]

/-- The MSI-X vectors of a function (Table 14-5). -/
def vectorCount (fn : Nat) : Nat := if fn = 0 then 3 else 2

/-! ## Configuration space -/

/-- Header of type 0: identities (R315), Command, the BARs of the PF (R317). -/
def headerFields (s : State) (fn : Nat) : List Field :=
  let dev := if fn = 0 then 0xB040 else 0xB041
  [cro 0x00 0 16 0x1F3C, cro 0x02 0 16 dev, kept s fn 0x04 1 1, cfl .rw 0x04 2 1 (b2n (s.hp.master.contains fn)),
    cro 0x06 4 1 1, cro 0x08 0 8 0xA1, cro 0x09 0 24 0x120000, cro 0x2C 0 16 0x1F3C, cro 0x2E 0 16 dev, cro 0x34 0 8 0x40]
    ++ (if fn = 0 then
          [cro 0x10 0 4 4, kept s fn 0x10 28 4, kept s fn 0x14 0 32, cro 0x18 0 4 4, kept s fn 0x18 16 16, kept s fn 0x1C 0 32,
            cro 0x20 0 4 4, kept s fn 0x20 13 19, kept s fn 0x24 0 32]
        else [])

/-- PCI Express (Endpoint; 512-byte payloads, Function Level Reset, 10-bit tags, Completion Timeout ranges A to D and no
disable, R315, R322), Power Management (D0 and D3hot), MSI-X. -/
def baseCaps (s : State) (fn : Nat) : List Field :=
  [cro 0x40 0 8 0x10, cro 0x41 0 8 0x80, cro 0x42 0 4 2, cro 0x44 0 3 2, cro 0x44 5 1 1, cro 0x44 28 1 1,
    kept s fn 0x48 5 3, kept s fn 0x48 12 3, cfl .wo 0x48 15 1 0,
    cro 0x64 0 4 0xF, cro 0x64 4 1 0, cro 0x64 16 1 1, cro 0x64 17 1 1, kept s fn 0x68 0 4, cro 0x68 4 1 0, kept s fn 0x68 12 1]
    ++ [cro 0x80 0 8 1, cro 0x81 0 8 0x90, cro 0x82 0 3 3, cro 0x82 9 2 0, cfl .rw 0x84 0 2 (if s.hp.d3.contains fn then 3 else 0), cro 0x84 3 1 1]
    ++ [cro 0x90 0 8 0x11, cro 0x91 0 8 0, cro 0x92 0 11 (vectorCount fn - 1), cfl .rw 0x92 14 1 (b2n (s.hp.msixMask.contains fn)),
      cfl .rw 0x92 15 1 (b2n (s.hp.msixOn.contains fn)), cro 0x94 0 3 4, cro 0x98 0 3 4, cro 0x98 3 29 (0x800 / 8)]

/-- AER and ARI of every function, ATS with a queue of 32 (coded 0) and translations of 4 KiB (R321). AER's status is the
PF's. -/
def commonExt (s : State) (fn : Nat) : List Field :=
  extCap 0x100 0x0001 0x148
    ++ [cfl .w1c 0x104 4 1 (b2n (fn == 0 && s.hp.aerUncorr)), kept s fn 0x108 0 32, kept s fn 0x10C 0 32,
      cfl .w1c 0x110 0 1 (b2n (fn == 0 && s.hp.aerCorr)), kept s fn 0x114 0 32]
    ++ extCap 0x148 0x000E (if fn = 0 then 0x158 else 0x1A0)
    ++ extCap 0x1A0 0x000F (if fn = 0 then 0x1A8 else 0) ++ [cro 0x1A4 0 5 0, cro 0x1A6 0 5 0, kept s fn 0x1A6 15 1]

/-- SR-IOV (R318), PASID of 20 bits (R320), PTM as a Requester with a granularity of 20 ns (R229), DOE with its Abort, GO
and write mailbox (Table 14-4). -/
def pfExt (s : State) : List Field :=
  extCap 0x158 0x0010 0x198
    ++ [cfl .rw 0x160 0 1 (b2n s.hp.vfOn), kept s 0 0x160 3 1, kept s 0 0x160 4 1, cro 0x164 0 16 63, cro 0x166 0 16 63,
      cfl .rw 0x168 0 16 s.hp.vfWant, cro 0x16C 0 16 1, cro 0x16E 0 16 1, cro 0x172 0 16 0xB041, cro 0x174 0 32 0x1F, kept s 0 0x178 0 32,
      cro 0x17C 0 4 4, kept s 0 0x17C 16 16, kept s 0 0x180 0 32, cro 0x18C 0 4 4, kept s 0 0x18C 13 19, kept s 0 0x190 0 32]
    ++ extCap 0x198 0x001B 0x1A0 ++ [cro 0x19C 1 1 0, cro 0x19C 2 1 0, cro 0x19C 8 5 20, kept s 0 0x19E 0 1]
    ++ extCap 0x1A8 0x001F 0x1C0 ++ [cro 0x1AC 0 1 1, cro 0x1AC 1 1 0, cro 0x1AC 8 8 20, kept s 0 0x1B0 0 1]
    ++ extCap 0x1C0 0x002E 0x200 ++ [cfl .wo 0x1C8 0 1 0, cfl .wo 0x1C8 31 1 0, cfl .rw 0x1D0 0 32 0]

/-- HBM training of bring-up has ended (R314). -/
def memActive (s : State) : Bool := s.pi.phase == .ready

/-- The DVSECs: CXL Device (R311, R314), Flex Bus Port, Register Locator. -/
def dvsecs (s : State) : List Field :=
  extCap 0x200 0x0023 0x240
    ++ [cro 0x204 0 16 0x1E98, cro 0x208 0 16 0, cro 0x20A 0 1 1, cro 0x20A 1 1 1, cro 0x20A 2 1 1, cro 0x20A 4 2 1, cro 0x20A 14 1 0,
      kept s 0 0x20C 0 1, kept s 0 0x20C 2 1, cro 0x216 0 4 2, cro 0x216 8 8 4,
      cro 0x218 0 32 (hbmCap s / 2 ^ 32), cro 0x21C 0 1 1, cro 0x21C 1 1 (b2n (memActive s)), cro 0x21C 2 3 0,
      cro 0x21C 28 4 (hbmCap s / 2 ^ 28)]
    ++ extCap 0x240 0x0023 0x270 ++ [cro 0x244 0 16 0x1E98, cro 0x248 0 16 7]
    ++ extCap 0x270 0x0023 0 ++ [cro 0x274 0 16 0x1E98, cro 0x278 0 16 8, cro 0x27C 0 3 2, cro 0x27C 8 8 1]

/-- The configuration space of a function. -/
def cfgFields (s : State) (fn : Nat) : List Field :=
  headerFields s fn ++ baseCaps s fn ++ commonExt s fn ++ (if fn = 0 then pfExt s ++ dvsecs s else [])

/-! ## BAR2/3 and BAR4/5 -/

/-- The component registers: RAS and HDM decoder 0 (R313, R324). -/
def componentFields (s : State) : List Field :=
  [cfl .w1c 0x1100 14 1 (b2n s.hp.rasUncorr), cro 0x1200 0 4 0, kept s barKey 0x1204 1 1,
    kept s barKey 0x1210 28 4, kept s barKey 0x1214 0 32, kept s barKey 0x1218 28 4, kept s barKey 0x121C 0 32,
    kept s barKey 0x1224 28 4, kept s barKey 0x1228 0 32,
    kept s barKey 0x1220 4 4, kept s barKey 0x1220 8 1, cfl .rw 0x1220 9 1 (b2n (s.ba.hdmCommitted || s.ba.hdmWait || s.ba.hdmError)),
    cro 0x1220 10 1 (b2n s.ba.hdmCommitted), cro 0x1220 11 1 (b2n s.ba.hdmError)]

/-- The MSI-X table and the PBA of a function. -/
def tableFields (s : State) (fn : Nat) : List Field :=
  (List.range (vectorCount fn)).flatMap fun v =>
    let x := getVector s fn v
    [cfl .rw (16 * v) 2 30 (x.addr.toNat / 4 % 2 ^ 30), cfl .rw (16 * v + 4) 0 32 (x.addr.toNat / 2 ^ 32), cfl .rw (16 * v + 8) 0 32 x.data.toNat,
      cfl .rw (16 * v + 12) 0 1 (b2n x.masked), cro 0x800 v 1 (b2n x.waits)]

/-! ## Reads -/

/-- The `n` bytes at offset `o` of a space. -/
def spaceBytes (fs : List Field) (o n : Nat) : List Byte := natLe n (bitField (fieldsValue fs) (8 * o) (8 * n))

/-- A function that exists while the link is up (R309, R318). -/
def fnThere (s : State) (fn : Nat) : Bool := s.hp.up && decide (fn ≤ s.hp.numVfs)

/-- What the host reads in configuration space, in BAR2/3 and in BAR4/5. -/
def readCfg (s : State) (fn o n : Nat) : List Byte := spaceBytes (if fnThere s fn then cfgFields s fn else []) o n
def readComponent (s : State) (o n : Nat) : List Byte := spaceBytes (if fnThere s 0 then componentFields s else []) o n
def readMsixTable (s : State) (fn o n : Nat) : List Byte := spaceBytes (if fnThere s fn then tableFields s fn else []) o n

/-! ## Writes -/

/-- A function is put in a list, or taken out. -/
def member (b : Bool) (fn : Nat) (l : List Nat) : List Nat := if b then (if l.contains fn then l else fn :: l) else l.filter (· ≠ fn)

/-- Vectors that waited in the PBA fire where nothing masks them any more. -/
def flushVectors (fn : Nat) (s : State) : State :=
  (List.range (vectorCount fn)).foldl (fun t v =>
    if (getVector t fn v).waits then msix fn v (modVector fn v (fun x => { x with waits := false }) t) else t) s

/-- The number of VFs follows VF Enable and NumVFs; a NumVFs above TotalVFs changes nothing. -/
def settleVfs (s : State) : State :=
  let n := if s.hp.vfOn then s.hp.vfWant else 0
  if 63 < n then s else setVfs n s

/-- A Function Level Reset that Device Control starts. -/
def startFlr (fn : Nat) (s : State) : State := if fn = 0 then startWarm 1 (resetConfig false s) else flrVf fn s

/-- The SPDM request that a message spells (DSP0274): version, code, two parameters, body. -/
def spdmRequest (m : List Byte) : MgmtMsg :=
  let code := leAt m 1 1
  if code = 0x84 ∨ code = 0xE1 ∨ code = 0xE3 then .spdmNegotiation true
  else if code = 0x82 then .certificate true (leAt m 2 1 % 16) (leAt m 4 2) (leAt m 6 2)
  else if code = 0x83 ∧ leAt m 2 1 = 0 then .challenge true ((m.drop 4).take 32)
  else if code = 0xE0 then .measurements true (leAt m 3 1) ((m.drop 4).take 32)
  else .spdmOther true

/-- The tile takes a data object: its vendor and type, its length in dwords, its body. CXL's table access asks for the
CDAT, and CMA carries SPDM to CH0's agent; any other object is dropped. -/
def takeObject (o : List Byte) (s : State) : State :=
  if o.length < 8 ∨ 4 * (leAt o 4 4 % 2 ^ 18) ≠ o.length then s
  else if leAt o 0 2 = 0x1E98 ∧ leAt o 2 1 = 2 then sendCdat s
  else if leAt o 0 2 = 1 ∧ leAt o 2 1 = 1 then receive (spdmRequest (o.drop 8)) s
  else s

/-- Sets what the DOE mailbox holds. -/
def putDoe (o : List Byte) (s : State) : State := { s with hp := { s.hp with doe := o } }

/-- A write reaches a field of configuration space. D1 and D2 are not supported: a write of them leaves the power state. -/
def putCfg (fn pos v : Nat) (s : State) : State :=
  let hp := s.hp
  if pos = bitPos 0x04 2 then { s with hp := { hp with master := member (v == 1) fn hp.master } }
  else if pos = bitPos 0x48 15 then startFlr fn s
  else if pos = bitPos 0x84 0 then (if v = 1 ∨ v = 2 then s else { s with hp := { hp with d3 := member (v == 3) fn hp.d3 } })
  else if pos = bitPos 0x92 14 then flushVectors fn { s with hp := { hp with msixMask := member (v == 1) fn hp.msixMask } }
  else if pos = bitPos 0x92 15 then flushVectors fn { s with hp := { hp with msixOn := member (v == 1) fn hp.msixOn } }
  else if pos = bitPos 0x104 4 then { s with hp := { hp with aerUncorr := hp.aerUncorr && fn != 0 } }
  else if pos = bitPos 0x110 0 then { s with hp := { hp with aerCorr := hp.aerCorr && fn != 0 } }
  else if pos = bitPos 0x160 0 then settleVfs { s with hp := { hp with vfOn := v == 1 } }
  else if pos = bitPos 0x168 0 then settleVfs { s with hp := { hp with vfWant := v } }
  else if pos = bitPos 0x1C8 0 then putDoe [] s
  else if pos = bitPos 0x1C8 31 then takeObject hp.doe (putDoe [] s)
  else if pos = bitPos 0x1D0 0 then putDoe (hp.doe ++ natLe 4 v) s
  else cfgSet fn pos v s

/-- The fields of decoder 0 as written: base, size, DPA Skip. -/
def decoderField (s : State) (o : Nat) : Nat := 2 ^ 28 * cfgGet s barKey (bitPos o 28) + 2 ^ 32 * cfgGet s barKey (bitPos (o + 4) 0)

/-- Commit is written: 1 commits decoder 0 as its fields stand, 0 ends the commit (R313). -/
def writeCommit (v : Nat) (s : State) : State :=
  if v = 1 then
    (if s.ba.hdmCommitted ∨ s.ba.hdmWait then s
     else commitHdm (decoderField s 0x1210) (decoderField s 0x1218) (2 ^ cfgGet s barKey (bitPos 0x1220 4)) (decoderField s 0x1224)
      (cfgGet s barKey (bitPos 0x1220 8) == 1) s)
  else uncommitHdm { s with ba := { s.ba with hdmError := false } }

/-- A write reaches a field of the component registers. The fields of a decoder that is committed and locked stay. -/
def putComponent (pos v : Nat) (s : State) : State :=
  if pos = bitPos 0x1100 14 then { s with hp := { s.hp with rasUncorr := false } }
  else if hdmLocked s ∧ bitPos 0x1210 0 ≤ pos then s
  else if pos = bitPos 0x1220 9 then writeCommit v s
  else cfgSet barKey pos v s

/-- A write reaches a field of an MSI-X table. -/
def putVector (fn pos v : Nat) (s : State) : State :=
  let k := pos / 128
  let at_ := pos % 128
  if at_ = 2 then modVector fn k (fun x => { x with addr := bv 64 (x.addr.toNat / 2 ^ 32 * 2 ^ 32 + 4 * v) }) s
  else if at_ = 32 then modVector fn k (fun x => { x with addr := bv 64 (x.addr.toNat % 2 ^ 32 + 2 ^ 32 * v) }) s
  else if at_ = 64 then modVector fn k (fun x => { x with data := bv 32 v }) s
  else flushVectors fn (modVector fn k (fun x => { x with masked := v == 1 }) s)

/-- A write of `size` bytes at offset `o` of a space: each field that it covers whole takes its part. -/
def spaceWrite (fs : List Field) (put : Nat → Nat → State → State) (o size v : Nat) (s : State) : State :=
  (fs.filter fun f => decide (8 * o ≤ f.lo) && decide (f.lo + f.w ≤ 8 * (o + size))).foldl (fun t f =>
    let x := bitField v (f.lo - 8 * o) f.w
    match f.cls with
    | .rw => put f.lo x t
    | .w1c | .wo => if x = 0 then t else put f.lo x t
    | _ => t) s

/-- Configuration accesses have 1, 2 or 4 bytes, naturally aligned; those of BAR2/3 and BAR4/5 have 4 or 8. -/
def cfgSized (o size : Nat) : Bool := (size == 1 || size == 2 || size == 4) && o % size == 0

/-- REGISTER_WRITE (R350 to R359, R238, R315 to R320): an access by a core, or by the host through a BAR or in configuration
space. -/
def execRegisterWrite (a : Agent) (addr size : Nat) (v : BitVec 64) (s : State) : Res :=
  .next (
    match a with
    | .pf => if addr + size ≤ 2 ^ 28 then writeAt a (busAddr a addr) size v s else s
    | .vf _ => if addr + size ≤ 0x10000 then writeAt a (busAddr a addr) size v s else s
    | .core _ => writeAt a addr size v s
    | .coreRead c => coreLoad c addr size s
    | .cfg fn => if fnThere s fn && cfgSized addr size then spaceWrite (cfgFields s fn) (putCfg fn) addr size v.toNat s else s
    | .bar2 => if fnThere s 0 && pageWrite addr size then spaceWrite (componentFields s) putComponent addr size v.toNat s else s
    | .bar4 fn => if fnThere s fn && pageWrite addr size then spaceWrite (tableFields s fn) (putVector fn) addr size v.toNat s else s)

end Sys2Proof.Machine
end

