-- ==== Sys2Proof/Machine/Reset.lean ====
section
/-!
DEFINITION. Rails, resets, boot, bring-up and warm reset (15_reset_and_bringup R334 to R348,
11 R239 to R243, R261, 17 R365 to R369). Commands POWER_UP, POWER_DOWN, IO_RAIL_LOSS, VAUX12_LOSS,
VAUX12_IN_RANGE, VFLASH_LOSS, VFLASH_RETURN, HRST_L, HRST_L_RELEASE, BOOT_VERIFY, RECOVERY_IMAGE, BRING_UP,
WARM_RESET.
-/
namespace Sys2Proof.Machine

/-! ## What outlives every reset -/

/-- The machine as reset leaves it, with what no reset of the tile touches: flash, the fuses, the board's rails,
the straps as sampled, the queue, what was sent, the free values taken. -/
def freshState (s : State) : State :=
  { State.reset with
    pins := { State.reset.pins with strapHost := s.pins.strapHost, strapTile := s.pins.strapTile, strapBoot := s.pins.strapBoot
                                    vaux12 := s.pins.vaux12, vflash := s.pins.vflash, flashMiB := s.pins.flashMiB }
    ch := { State.reset.ch with minSvn := s.ch.minSvn }
    flash := s.flash, pending := s.pending, out := s.out, free := s.free }

/-- The straps are sampled (R336). -/
def sampleStraps (st : Straps) (s : State) : State :=
  { s with pins := { s.pins with strapHost := st.hostMode, strapTile := st.tileId, strapBoot := st.bootSrc } }

/-- Every domain DARK. -/
def allDark : Tbl Power := (List.range 14).map fun d => (d, .dark)

/-- The power states while a reset holds the tile, or where its start-up begins: every domain supplied, but after a thermal
trip, or without VAUX12 (R20, R235, R369). -/
def startDoms (s : State) : Tbl Power := if s.pi.trip then s.pi.dom else if s.pins.vaux12 then [] else allDark

/-- Start-up begins, or waits for VAUX12 (R337 step 3, 17 corners). -/
def startPhase (s : State) : State :=
  { s with pi := { s.pi with phase := if s.pins.vaux12 then .boot else .waitVaux, dom := startDoms s } }

/-! ## Rails (R365 to R369) -/

/-- POWER_UP (R337): PWROK rises. -/
def execPowerUp (st : Straps) (s : State) : Res :=
  .next (if s.pi.pwrok then s else startPhase (sampleStraps st (freshState s)))

/-- PWROK has fallen: every regulator off, every output high-impedance (R339, R368). -/
def powerOff (s : State) : State :=
  let s1 := freshState s
  { s1 with pi := { s1.pi with pwrok := false, phase := .off, dom := allDark }
            pins := { s1.pins with outputsOn := false } }

/-- POWER_DOWN (R368). -/
def execPowerDown (s : State) : Res := .next (if s.pi.pwrok then powerOff s else s)

/-- IO_RAIL_LOSS (R369): handled as PWROK falling. -/
def execIoRailLoss (s : State) : Res := .next (if s.pi.pwrok then powerOff s else s)

/-- A core without supply is held, its firmware state gone. -/
def holdCores (s : State) : State :=
  ([0, 1, 2, 3] : List Nat).foldl (fun t c => modCore c (fun x => { x with state := .held, wdogArmed := false }) t) s

/-- A phase of start-up that VAUX12's loss ends. -/
def startingUp (x : BootPhase) : Bool := x == .boot || x == .recovery || x == .bringUp

/-- Every module regulator is off: every domain is DARK, the links drop, with source 29 for the host's, the cores lose their
state. -/
def vauxGone (s : State) : State :=
  let s1 := { s with pins := { s.pins with vaux12 := false, vaux12Lost := true }
                     pi := { s.pi with waking := [], phase := if startingUp s.pi.phase then .stopped else s.pi.phase } }
  let s2 := (List.range 14).foldl (fun u d => enterState d .dark u) (holdCores s1)
  let s3 := if s2.hp.up then
      let u := resetConfig true (linkDown s2)
      raise 29 none { u with hp := { u.hp with lost := true } }
    else s2
  let s4 := if s.pi.trip then s3 else raise 46 none s3
  ([0, 1, 2, 3] : List Nat).foldl (fun u n => portLost n u) s4

/-- VAUX12_LOSS (R369). -/
def execVaux12Loss (s : State) : Res :=
  .next (
    if s.pins.vaux12 = false then s
    else if s.pi.pwrok = false ∨ s.pins.vaux12Lost then { s with pins := { s.pins with vaux12 := false } }
    else vauxGone s)

/-- VAUX12_IN_RANGE (R369): a start-up that waits goes on; after a loss nothing restarts until the next reset. -/
def execVaux12InRange (s : State) : Res :=
  .next (
    let s1 := { s with pins := { s.pins with vaux12 := true } }
    if s.pi.phase = .waitVaux then startPhase { s1 with pins := { s1.pins with vaux12Lost := false } }
    else if s.pi.hrstLow then { s1 with pins := { s1.pins with vaux12Lost := false }, pi := { s1.pi with dom := startDoms s1 } }
    else s1)

/-- VFLASH_LOSS (R369). -/
def execVflashLoss (s : State) : Res := .next { s with pins := { s.pins with vflash := false } }

/-- VFLASH_RETURN (R369). -/
def execVflashReturn (s : State) : Res := .next { s with pins := { s.pins with vflash := true } }

/-! ## HRST_L (R334, R335) -/

/-- The Smokebox after a reset that closes its episode: SB_ESC and SB_FORCE clear (R283). -/
def clearEscalation (s : State) : State :=
  let s1 := if s.sb.epOpen then closeEpisode 0 3 s else s
  { s1 with sb := { s1.sb with escQuar := false, escHgStop := false, escAlarm := false, escSmoke := false
                               ackStale := false, escalations := 0, forceSmoke := false, forceHgStop := false } }

/-- The configuration of a source back at its default. -/
def resetSource (n : Nat) (x : Source) : Source :=
  { x with sev := (sourceDef n).sev, chan := (sourceDef n).chan, countN := 0, windowMs := (sourceDef n).windowMs }

/-- Every source configuration back at its default, its state kept. -/
def resetSources (t : Tbl Source) : Tbl Source :=
  (t.map (·.1)).foldl (fun u n => tblSet sourceDef u n (resetSource n (tblGet sourceDef u n))) t

/-- What HRST_L keeps of the Smokebox (R283). -/
def keptSmokebox (b : Smokebox) : Smokebox :=
  { ({} : Smokebox) with
    status := b.status, live := b.live, epId := b.epId, epSev := b.epSev, epMerges := b.epMerges, epTime := b.epTime
    epPlots := b.epPlots, recCorr := b.recCorr, snaps := b.snaps, recMem := b.recMem, sources := resetSources b.sources }

/-- A cold reset's start-up still runs: an HRST_L that comes then joins it (R334). -/
def coldRuns (s : State) : Bool := s.pi.resetLevel == 0 && [BootPhase.waitVaux, .boot, .bringUp].contains s.pi.phase

/-- The state that HRST_L low leaves (Table 15-2): outputs high-impedance until the release. -/
def hrstState (s : State) : State :=
  let s1 := clearEscalation (leaveAll s)
  let s2 := freshState s1
  { s2 with
    pi := { s2.pi with
      phase := .off, hrstLow := true, time := s1.pi.time, everLocked := s1.pi.everLocked, refAbsent := s1.pi.refAbsent
      health := s1.pi.health, trip := s1.pi.trip, alert := s1.pi.alert, alertSeen := s1.pi.alert, clamp := s1.pi.clamp
      tempMax := s1.pi.tempMax, dom := startDoms s1
      resetLevel := if coldRuns s then 0 else 1 }
    pins := { s2.pins with outputsOn := false, ttripLatch := s1.pins.ttripLatch, vaux12Lost := s1.pins.vaux12Lost && !s1.pins.vaux12 }
    hp := { s2.hp with lost := s1.hp.lost }
    sb := keptSmokebox s1.sb
    ba := { s2.ba with basin := s1.ba.basin, hbm := s1.ba.hbm, basinBad := s1.ba.basinBad, hbmBad := s1.ba.hbmBad }
    ch := { s2.ch with recordWant := s1.ch.recordWant, lastSnapCopied := s1.ch.lastSnapCopied } }

/-- HRST_L (R334): low for 10 µs while PWROK is high. -/
def execHrstL (s : State) : Res := .next (if s.pi.pwrok = false ∨ s.pi.hrstLow then s else hrstState s)

/-- HRST_L_RELEASE (R337): the straps are sampled, the outputs leave high impedance, start-up begins. -/
def execHrstLRelease (st : Straps) (s : State) : Res :=
  .next (
    if s.pi.pwrok = false ∨ s.pi.hrstLow = false then s
    else
      let s1 := sampleStraps st s
      startPhase { s1 with pi := { s1.pi with hrstLow := false }, pins := { s1.pins with outputsOn := true } })

/-! ## Boot (R241, R261, R337 steps 3 and 4) -/

/-- A record bank is valid (R261). -/
def recordOk (s : State) (b : Bool) : Bool :=
  let r := readFlash s (bankBase b) 65536
  s.pins.vflash && leAt r 0 4 == 0x52454344 && leAt r 4 2 == 1
    && leAt r 12 4 == (crc32c (r.take 12 ++ r.drop 16)).toNat

/-- The health map of a bank; a map of another version reads as every unit in service (R341). -/
def recordMap (s : State) (b : Bool) : BitVec 128 :=
  if leAt (readFlash s (bankBase b + 16) 2) 0 2 = 1 then bv 128 (leNat (readFlash s (bankBase b + 16) 16)) else 1

/-- The ROM reads the record banks; a cold reset loads PI_HEALTH. -/
def readRecord (s : State) : State :=
  let a := recordOk s false
  let b := recordOk s true
  let seq := fun (k : Bool) => leAt (readFlash s (bankBase k + 8) 4) 0 4
  let newest := b && (!a || decide (seq false < seq true))
  let map := if a || b then recordMap s newest else 1
  { s with
    ch := { s.ch with newest := newest, validA := a, validB := b, recordBlank := !(a || b)
                      recSeq := if a || b then bv 32 (seq newest) else 0
                      minSvn := if s.ch.minSvn < Config.minSvnFuse then Config.minSvnFuse else s.ch.minSvn }
    pi := { s.pi with health := if s.pi.resetLevel = 0 then map else s.pi.health } }

/-- The cores in service. -/
def coresIn (s : State) : BitVec 4 := bv 4 (maskOf 4 (coreIn s))

/-- A verified image starts on every core in service (Table 11-3 step 5). -/
def startImage (h body : List Byte) (s : State) : State :=
  let s1 := { s with
    ch := { s.ch with sram := memCells memDefault 0 body, image := h, mbVer := bv 16 (leAt h 16 2), imageVer := bv 32 (leAt h 8 4)
                      svn := bv 32 (leAt h 12 4) }
    pi := { s.pi with phase := .bringUp } }
  (bitList s.ch.bootCores.toNat 4).foldl (fun t c => modCore c (fun x =>
    { x with state := .running, wdogArmed := true, wdogStart := s.pi.time }) t) s1

/-- The slot tried first: the larger valid BOOT_SEQ, A when they are equal. -/
def firstSlot (s : State) : Bool :=
  let a := slotHeader s false
  let b := slotHeader s true
  seqOk b && (!seqOk a || decide (bootSeq a < bootSeq b))

/-- The fail codes of the two slots as the ROM records them: a slot that was not tried has none, but one whose
BOOT_SEQ_INV does not match counts as failed. -/
def untriedFail (s : State) (b : Bool) : Nat := if s.pins.vflash && seqOk (slotHeader s b) then 0 else slotFail s b

/-- The ROM records a slot's failure, with source 53. -/
def noteFail (b : Bool) (code : Nat) (s : State) : State :=
  let s1 := { s with ch := if b then { s.ch with failB := bv 3 code } else { s.ch with failA := bv 3 code } }
  if code = 0 then s1 else raise 53 none s1

/-- Boot from flash (R241). -/
def bootFlash (s : State) : State :=
  let k := firstSlot s
  if slotFail s k = 0 then
    startImage (slotHeader s k) (slotBody s k) { noteFail (!k) (untriedFail s (!k)) s with
      ch := { (noteFail (!k) (untriedFail s (!k)) s).ch with bootSrc := false, bootSlot := k } }
  else
    let s1 := noteFail (!k) (slotFail s (!k)) (noteFail k (slotFail s k) s)
    if slotFail s (!k) = 0 then
      startImage (slotHeader s (!k)) (slotBody s (!k)) { s1 with ch := { s1.ch with bootSrc := false, bootSlot := !k } }
    else { s1 with ch := { s1.ch with flashFail := true }, pi := { s1.pi with phase := .recovery } }

/-- BOOT_VERIFY (R240, R241): steps 3 and 4 of Table 15-3. Without CH0 no image runs (R346); after a thermal trip
nothing ignites (R235). -/
def execBootVerify (s : State) : Res :=
  .next (
    if s.pi.phase ≠ .boot ∨ s.pi.pwrok = false ∨ s.pi.trip ∨ s.pins.vaux12Lost ∨ s.pins.vaux12 = false then s
    else
      let s1 := readRecord s
      if coreIn s1 0 = false then { s1 with pi := { s1.pi with phase := .stopped, service := s1.pi.service ||| 3 } }
      else
        let s2 := { s1 with ch := { s1.ch with bootCores := coresIn s1 } }
        if s.pins.strapBoot then { s2 with pi := { s2.pi with phase := .recovery } } else bootFlash s2)

/-- RECOVERY_IMAGE (R242): an image of a header and its body; one that fails is discarded. The agent reports the
outcome: 0, the check that failed, or 7 for a component that the tile does not have. -/
def execRecoveryImage (pkg : Package) (s : State) : Res :=
  let image := pkg.image
  .next (
    if recoveryAgent s = false ∨ s.pins.vaux12Lost then s
    else if pkg.comp ≠ imageComponent then emit (.mgmt [7]) s
    else
      let h := padTo 4096 image
      let body := image.drop 4096
      let code := if image.length ≠ 4096 + bodySize h then 1 else imageFail h body s.ch.minSvn
      let s1 := emit (.mgmt (natLe 1 code)) s
      if code = 0 then startImage h body { s1 with ch := { s1.ch with bootSrc := true } } else s1)

/-! ## Bring-up (R337 step 5, R338, R344) -/

/-- Interleaves are built from PI_HEALTH. -/
def buildInterleaves (s : State) : State :=
  { s with ba := { s.ba with bankIn := bv 24 (maskOf 24 fun b => !outBit s (bankBit b))
                             stackIn := bv 8 (maskOf 8 fun k => !outBit s (stackBit k)), bankFail := 0, stackFail := 0 } }

/-- The engine mode of R337: whole where it can be; every slot as the mode makes it. -/
def setEngineMode (s : State) : State :=
  let m := !wholeOk s
  let s1 := { s with he := { s.he with mode := m, modeCur := m, pending := false, refused := false } }
  (List.range 16).foldl (fun t n => modSlot n (fun x => { zeroSlot m x with lease := none }) t) s1

/-- Plot 0 with the allocation of Table 15-4. -/
def createPlot0 (s : State) : State :=
  let s1 := modPlot 0 (fun x =>
    { x with slotMask := 0, furFirst := 0, furCount := 64, evtCount := 1024, sluiceMax := 32, state := .live, quarHw := false
             epoch := 0, flrHeld := false, basinSize := 0, resSize := 0, hbmSize := 0, mail := {} }) s
  joinRange 0 0 64 s1

/-- Bring-up ends: plot 0, PI_SERVICE, TILE_READY (R340). At MGMT_ONLY no plot is LIVE. -/
def offerService (s : State) : State :=
  let level := serviceLevel s
  let s1 := if level < 2 then createPlot0 s else s
  { s1 with pi := { s1.pi with phase := .ready, service := serviceWord s1 level }
            pins := { s1.pins with tileReady := decide (level < 2) && !s.pi.trip } }

/-- Units that fail self-test are marked out; one that is out is not tested (R342, R343). -/
def selfTest (failed : BitVec 128) (s : State) : State :=
  (unitBits.filter fun b => failed.getLsbD b && !outBit s b).foldl (fun t b => markUnit b t) s

/-- BRING_UP (R337). `failed` holds the units that fail their self-test, as PI_HEALTH places them. -/
def execBringUp (failed : BitVec 128) (s : State) : Res :=
  .next (
    if s.pi.phase ≠ .bringUp ∨ compRuns s 0 = false ∨ awake s [dChimney] = false then s
    else
      let s1 := setEngineMode (buildInterleaves (selfTest failed s))
      offerService { s1 with pi := { s1.pi with dom := [], waking := [], hclkLevel := if s1.pi.clamp then 2 else 6 } })

/-! ## Warm reset (R348) -/

/-- The PI, SC and BA rows of Table 15-2. -/
def warmLimits (s : State) : State :=
  { s with
    pi := { s.pi with clkMax := 6, clkMin := 0, powerCap := 700, tAlert := 95, modePolicy := 0, deep := 0xFF, idleBankedUs := 2
                      idleEmberUs := 200, idleDarkMs := 100, domTarget := 0, ign := [], fastEn := false, latched := [] }
    ba := { s.ba with scrubEn := true, scrubPeriod := 24 }
    hg := { s.hg with commit := false, hearthHold := false, gaugeEn := true, stallN := 16, domains := [], ctxValid := 0, ctxLost := 0
                      ctxPend := none }
    fl := { s.fl with tables := [], loadedCrc := 0 }
    sl := { s.sl with channels := [] }
    sc := { s.sc with lines := [], trans := [] } }

/-- The gang, its key and its ports off; sticky bits and counters stay. -/
def warmGang (s : State) : State :=
  let s1 := ([0, 1, 2, 3] : List Nat).foldl (fun t n => modPort n (fun p =>
    { ({} : Port) with downSeen := p.downSeen, wrongPeer := p.wrongPeer, peerId := p.peerId, replays := p.replays, crcErr := p.crcErr }) t) s
  { s1 with cn := { s1.cn with members := 0, gangPlot := 0, pair2 := false, gangKey := 0, form := false, measure := false
                               state := .idle, present := 0, heldForm := none, replies := [], exchange := none
                               colls := [], remotes := [], early := [], deaf := [], aborted := [] } }

/-- The shares, slices and quotas of a plot at their reset values. -/
def warmPlot (x : Plot) : Plot :=
  { x with quota := 1024, sharePend := 1, slicePend := 1000, share := 1, slice := 1000, shareNext := 1, sliceNext := 1000 }

/-- Every plot torn down, plot 0 with a count of its reset (Table 15-9 step 3). -/
def warmPlots (s : State) : State :=
  let ps := s.hg.plots.map (·.1)
  let s1 := ps.foldl (fun t p => if (getPlot t p).state = .none then t else teardown p t) s
  let s2 := if (getPlot s 0).state = .none then s1 else modPlot 0 (fun x => { x with resets := incHold x.resets }) s1
  ps.foldl (fun t p => modPlot p warmPlot t) s2

/-- A core goes through Table 11-4 with its keep area zeroed; a core that the ROM holds or that stopped stays. -/
def warmCore (c : Nat) (s : State) : State :=
  let x := getCore s c
  if x.state ≠ .running ∧ x.state ≠ .restarting then s
  else if (compsOf s c).all (codeOk s) = false then
    raiseUnit 49 none c (modCore c (fun x => { x with state := .stopped, codeBad := true, wdogArmed := false }) s)
  else modCore c (fun x => { x with state := .running, lastCause := 0, restarts := incHold x.restarts, wdogArmed := true
                                    wdogStart := s.pi.time }) s

/-- The Chimney: keep areas, scratch areas and the shared region zeroed, the cores restarted. -/
def warmChimney (s : State) : State :=
  let s1 := { s with ch := { s.ch with sram := tblClear 0x100000 0x200000 s.ch.sram, noticeDue := [], lists := [], pages := [], modeSeq := none } }
  flushDue (([0, 1, 2, 3] : List Nat).foldl (fun t c => warmCore c t) s1)

/-- Steps 2 to 5 of Table 15-9. -/
def warmAct (s : State) : State :=
  let s1 := warmChimney (warmGang (warmLimits (warmPlots (clearEscalation s))))
  let s2 := setEngineMode (buildInterleaves s1)
  answerHeld (offerService { s2 with pi := { s2.pi with warmDue := false } })

/-- WARM_RESET (R348): what a warm reset does after its first step. While the recovery agent waits, or where no image runs,
no plot and no component is there to reset. -/
def execWarmReset (s : State) : Res :=
  .next (
    if s.pi.warmDue = false ∨ s.pins.vaux12Lost then s
    else if s.pi.phase = .recovery ∨ s.pi.phase = .stopped then
      let s1 := warmGang (warmLimits (clearEscalation s))
      { s1 with pi := { s1.pi with warmDue := false } }
    else warmAct s)

end Sys2Proof.Machine
end

