-- ==== Sys2Proof/Machine/Dispatch.lean ====
section
/-!
DEFINITION. The meaning of every command, by name.
-/
namespace Sys2Proof.Machine

/-- What a command does to everything but the queue. -/
def exec (i : Instr) (s : State) : Host.Outcome State Fault Refusal :=
  match i with
  | .doorbell p loc tail => Sys2Proof.Machine.execDoorbell p loc tail s
  | .furrowArm a f v => Sys2Proof.Machine.execFurrowArm a f v s
  | .furrowDisarm a f v => Sys2Proof.Machine.execFurrowDisarm a f v s
  | .descriptorFetch f r => Sys2Proof.Machine.execDescriptorFetch f r s
  | .nop f => Sys2Proof.Machine.execNop f s
  | .fence f => Sys2Proof.Machine.execFence f s
  | .record f => Sys2Proof.Machine.execRecord f s
  | .wait f => Sys2Proof.Machine.execWait f s
  | .lease f => Sys2Proof.Machine.execLease f s
  | .release f => Sys2Proof.Machine.execRelease f s
  | .gemm f => Sys2Proof.Machine.execGemm f s
  | .passStart d rows flt => Sys2Proof.Machine.execPassStart d rows flt s
  | .slotRowReadout d => Sys2Proof.Machine.execSlotRowReadout d s
  | .flueElementwise f rows => Sys2Proof.Machine.execFlueElementwise f rows s
  | .flueTableFunction f rows => Sys2Proof.Machine.execFlueTableFunction f rows s
  | .flueGated f rows => Sys2Proof.Machine.execFlueGated f rows s
  | .flueNorm f rows => Sys2Proof.Machine.execFlueNorm f rows s
  | .flueSoftmax3 f rows => Sys2Proof.Machine.execFlueSoftmax3 f rows s
  | .flueSoftmax2 f rows => Sys2Proof.Machine.execFlueSoftmax2 f rows s
  | .sluiceMove f => Sys2Proof.Machine.execSluiceMove f s
  | .sluiceSegment c r => Sys2Proof.Machine.execSluiceSegment c r s
  | .slotRead f => Sys2Proof.Machine.execSlotRead f s
  | .slotWrite f => Sys2Proof.Machine.execSlotWrite f s
  | .slotSave f => Sys2Proof.Machine.execSlotSave f s
  | .slotRestore f => Sys2Proof.Machine.execSlotRestore f s
  | .invoke f r => Sys2Proof.Machine.execInvoke f r s
  | .spawn f => Sys2Proof.Machine.execSpawn f s
  | .park f => Sys2Proof.Machine.execPark f s
  | .tableLoad f => Sys2Proof.Machine.execTableLoad f s
  | .tableLoadSwap n => Sys2Proof.Machine.execTableLoadSwap n s
  | .plotCreate f => Sys2Proof.Machine.execPlotCreate f s
  | .plotAssign f => Sys2Proof.Machine.execPlotAssign f s
  | .plotReset f => Sys2Proof.Machine.execPlotReset f s
  | .plotQuarantine f => Sys2Proof.Machine.execPlotQuarantine f s
  | .plotTeardown f => Sys2Proof.Machine.execPlotTeardown f s
  | .windowMap f => Sys2Proof.Machine.execWindowMap f s
  | .governorSet f => Sys2Proof.Machine.execGovernorSet f s
  | .operationComplete f ticket => Sys2Proof.Machine.execOperationComplete f ticket s
  | .failClear p loc => Sys2Proof.Machine.execFailClear p loc s
  | .schedCommit a v => Sys2Proof.Machine.execSchedCommit a v s
  | .roundBoundary d => Sys2Proof.Machine.execRoundBoundary d s
  | .sliceExpire d => Sys2Proof.Machine.execSliceExpire d s
  | .resume d => Sys2Proof.Machine.execResume d s
  | .hearthHold a v => Sys2Proof.Machine.execHearthHold a v s
  | .ctxSave a n => Sys2Proof.Machine.execCtxSave a n s
  | .ctxRestore a n => Sys2Proof.Machine.execCtxRestore a n s
  | .ctxDiscard a n => Sys2Proof.Machine.execCtxDiscard a n s
  | .modeCtlWrite a v => Sys2Proof.Machine.execModeCtlWrite a v s
  | .modeChange => Sys2Proof.Machine.execModeChange s
  | .gaugeSpan f => Sys2Proof.Machine.execGaugeSpan f s
  | .stallScan => Sys2Proof.Machine.execStallScan s
  | .gaugeEnWrite a v => Sys2Proof.Machine.execGaugeEnWrite a v s
  | .fastEnWrite a v => Sys2Proof.Machine.execFastEnWrite a v s
  | .mbReqDb p seq => Sys2Proof.Machine.execMbReqDb p seq s
  | .hello p => Sys2Proof.Machine.execHello p s
  | .queryCaps p => Sys2Proof.Machine.execQueryCaps p s
  | .armFurrow p => Sys2Proof.Machine.execArmFurrow p s
  | .disarmFurrow p => Sys2Proof.Machine.execDisarmFurrow p s
  | .listRegister p => Sys2Proof.Machine.execListRegister p s
  | .listUnregister p => Sys2Proof.Machine.execListUnregister p s
  | .listReside p => Sys2Proof.Machine.execListReside p s
  | .stateCreate p => Sys2Proof.Machine.execStateCreate p s
  | .stateDestroy p => Sys2Proof.Machine.execStateDestroy p s
  | .coreRestart p => Sys2Proof.Machine.execCoreRestart p s
  | .svnCommit p => Sys2Proof.Machine.execSvnCommit p s
  | .schedSet p => Sys2Proof.Machine.execSchedSet p s
  | .invokeAdmit f => Sys2Proof.Machine.execInvokeAdmit f s
  | .batchClose p l r => Sys2Proof.Machine.execBatchClose p l r s
  | .residencyCopy p l => Sys2Proof.Machine.execResidencyCopy p l s
  | .residencyRelease p l => Sys2Proof.Machine.execResidencyRelease p l s
  | .coreRestartCmd a v => Sys2Proof.Machine.execCoreRestartCmd a v s
  | .wdogPet a c => Sys2Proof.Machine.execWdogPet a c s
  | .wdogExpiry c => Sys2Proof.Machine.execWdogExpiry c s
  | .unhandledTrap c => Sys2Proof.Machine.execUnhandledTrap c s
  | .coreRestartDone e => Sys2Proof.Machine.execCoreRestartDone e s
  | .persistentRecordWrite x ok1 ok2 => Sys2Proof.Machine.execPersistentRecordWrite x ok1 ok2 s
  | .smokeboxEvent n plot unit => Sys2Proof.Machine.execSmokeboxEvent n plot unit s
  | .unitFailsInService u => Sys2Proof.Machine.execUnitFailsInService u s
  | .countWindowClose n => Sys2Proof.Machine.execCountWindowClose n s
  | .graceExpiry => Sys2Proof.Machine.execGraceExpiry s
  | .sbAck a v => Sys2Proof.Machine.execSbAck a v s
  | .sbForceSmoke a => Sys2Proof.Machine.execSbForceSmoke a s
  | .sbForceHgStop a => Sys2Proof.Machine.execSbForceHgStop a s
  | .sbStatusClear a bits => Sys2Proof.Machine.execSbStatusClear a bits s
  | .smokeToggle => Sys2Proof.Machine.execSmokeToggle s
  | .registerWrite a addr size v => Sys2Proof.Machine.execRegisterWrite a addr size v s
  | .domainWakeComplete d => Sys2Proof.Machine.execDomainWakeComplete d s
  | .domainStepDown d => Sys2Proof.Machine.execDomainStepDown d s
  | .scuttleFlush => Sys2Proof.Machine.execScuttleFlush s
  | .governorTick g => Sys2Proof.Machine.execGovernorTick g s
  | .hclkChange => Sys2Proof.Machine.execHclkChange s
  | .thermalSample t => Sys2Proof.Machine.execThermalSample t s
  | .thermalTrip t => Sys2Proof.Machine.execThermalTrip t s
  | .refLoss => Sys2Proof.Machine.execRefLoss s
  | .refLock => Sys2Proof.Machine.execRefLock s
  | .timeAdj a n => Sys2Proof.Machine.execTimeAdj a n s
  | .ptmTrigger a => Sys2Proof.Machine.execPtmTrigger a s
  | .ptmPeriod => Sys2Proof.Machine.execPtmPeriod s
  | .ptmDialogueDone hostTime => Sys2Proof.Machine.execPtmDialogueDone hostTime s
  | .patrolScrub r => Sys2Proof.Machine.execPatrolScrub r s
  | .powerUp st => Sys2Proof.Machine.execPowerUp st s
  | .hrstL => Sys2Proof.Machine.execHrstL s
  | .powerDown => Sys2Proof.Machine.execPowerDown s
  | .ioRailLoss => Sys2Proof.Machine.execIoRailLoss s
  | .vaux12Loss => Sys2Proof.Machine.execVaux12Loss s
  | .bootVerify => Sys2Proof.Machine.execBootVerify s
  | .bringUp failed => Sys2Proof.Machine.execBringUp failed s
  | .warmReset => Sys2Proof.Machine.execWarmReset s
  | .recoveryImage pkg => Sys2Proof.Machine.execRecoveryImage pkg s
  | .pldmFirmwareUpdate pkg => Sys2Proof.Machine.execPldmFirmwareUpdate pkg s
  | .firmwareActivate => Sys2Proof.Machine.execFirmwareActivate s
  | .mctpControl cmd mtype => Sys2Proof.Machine.execMctpControl cmd mtype s
  | .setEndpointId eid => Sys2Proof.Machine.execSetEndpointId eid s
  | .pldmMonitoring sensor => Sys2Proof.Machine.execPldmMonitoring sensor s
  | .spdmGetCertificate slot off len => Sys2Proof.Machine.execSpdmGetCertificate slot off len s
  | .spdmChallenge nonce => Sys2Proof.Machine.execSpdmChallenge nonce s
  | .spdmGetMeasurements index nonce => Sys2Proof.Machine.execSpdmGetMeasurements index nonce s
  | .entdaa addr => Sys2Proof.Machine.execEntdaa addr s
  | .setdasa addr => Sys2Proof.Machine.execSetdasa addr s
  | .rstdaa => Sys2Proof.Machine.execRstdaa s
  | .cxlMemRead hpa => Sys2Proof.Machine.execCxlMemRead hpa s
  | .cxlMemWrite hpa bytes => Sys2Proof.Machine.execCxlMemWrite hpa bytes s
  | .cxlCacheSnoop addr => Sys2Proof.Machine.execCxlCacheSnoop addr s
  | .atsInvalidation p addr size => Sys2Proof.Machine.execAtsInvalidation p addr size s
  | .hdmCommit base size ways skip lock => Sys2Proof.Machine.execHdmCommit base size ways skip lock s
  | .vfFlr p => Sys2Proof.Machine.execVfFlr p s
  | .pfFlr => Sys2Proof.Machine.execPfFlr s
  | .hotReset => Sys2Proof.Machine.execHotReset s
  | .linkDisable => Sys2Proof.Machine.execLinkDisable s
  | .dlDown => Sys2Proof.Machine.execDlDown s
  | .busMasterDisable fn => Sys2Proof.Machine.execBusMasterDisable fn s
  | .vfRemove numVfs => Sys2Proof.Machine.execVfRemove numVfs s
  | .ucieModuleFail m => Sys2Proof.Machine.execUcieModuleFail m s
  | .linkUp lanes rate cxl modules => Sys2Proof.Machine.execLinkUp lanes rate cxl modules s
  | .completionTimeout t => Sys2Proof.Machine.execCompletionTimeout t s
  | .cnPortEnable a n v => Sys2Proof.Machine.execCnPortEnable a n v s
  | .cnPortRetrain a n => Sys2Proof.Machine.execCnPortRetrain a n s
  | .train n fl => Sys2Proof.Machine.execTrain n fl s
  | .idle n fl => Sys2Proof.Machine.execIdle n fl s
  | .nak n fl => Sys2Proof.Machine.execNak n fl s
  | .replayTimeout n => Sys2Proof.Machine.execReplayTimeout n s
  | .retrainTimeout n => Sys2Proof.Machine.execRetrainTimeout n s
  | .gangForm a => Sys2Proof.Machine.execGangForm a s
  | .gangLeave a => Sys2Proof.Machine.execGangLeave a s
  | .gangMeasure a => Sys2Proof.Machine.execGangMeasure a s
  | .form n fl => Sys2Proof.Machine.execForm n fl s
  | .formReply n fl => Sys2Proof.Machine.execFormReply n fl s
  | .formDone n fl => Sys2Proof.Machine.execFormDone n fl s
  | .formRefuse n fl => Sys2Proof.Machine.execFormRefuse n fl s
  | .timeReq n fl => Sys2Proof.Machine.execTimeReq n fl s
  | .timeResp n fl => Sys2Proof.Machine.execTimeResp n fl s
  | .collBegin n fl => Sys2Proof.Machine.execCollBegin n fl s
  | .collData n fl => Sys2Proof.Machine.execCollData n fl s
  | .collResult n fl => Sys2Proof.Machine.execCollResult n fl s
  | .collEnd n fl => Sys2Proof.Machine.execCollEnd n fl s
  | .collAbort n fl => Sys2Proof.Machine.execCollAbort n fl s
  | .leave n fl => Sys2Proof.Machine.execLeave n fl s
  | .collectivePhaseC f => Sys2Proof.Machine.execCollectivePhaseC f s
  | .hrstLRelease st => Sys2Proof.Machine.execHrstLRelease st s
  | .vaux12InRange => Sys2Proof.Machine.execVaux12InRange s
  | .vflashLoss => Sys2Proof.Machine.execVflashLoss s
  | .vflashReturn => Sys2Proof.Machine.execVflashReturn s
  | .tracePortEnable v => Sys2Proof.Machine.execTracePortEnable v s
  | .flitCrcError n => Sys2Proof.Machine.execFlitCrcError n s
  | .reservedFlitType n fl => Sys2Proof.Machine.execReservedFlitType n fl s
  | .flitForward n fl => Sys2Proof.Machine.execFlitForward n fl s
  | .canalPhyTrainingEnd n width8 => Sys2Proof.Machine.execCanalPhyTrainingEnd n width8 s
  | .hdmDecoderUncommit => Sys2Proof.Machine.execHdmDecoderUncommit s
  | .vfEnable numVfs => Sys2Proof.Machine.execVfEnable numVfs s
  | .doeCdatRead => Sys2Proof.Machine.execDoeCdatRead s
  | .pldmBaseDiscovery => Sys2Proof.Machine.execPldmBaseDiscovery s
  | .spdmNegotiation => Sys2Proof.Machine.execSpdmNegotiation s
  | .badTypeRequest p => Sys2Proof.Machine.execBadTypeRequest p s
  | .snapshotTaken f r => Sys2Proof.Machine.execSnapshotTaken f r s

end Sys2Proof.Machine
end

