-- ==== Sys2Proof/Safety.lean ====
section
/-!
DEFINITION. What a safe step is, and the canonical form that every reachable state has.
-/
namespace Sys2Proof

/-- A step that neither stops nor is refused. -/
def Safe (s : Machine.State) : Prop := ∃ t, Machine.step s = .next t

namespace Machine

/-- The byte memories are in canonical form: Basin, HBM, the Chimney's SRAM, the record memory, flash. -/
def State.memoryWf (s : State) : Bool :=
  memWf s.ba.basin && memWf s.ba.hbm && memWf s.ch.sram && memWf s.sb.recMem && tblWf flashDefault s.flash

/-- Every table of registers and queues is in canonical form, so that equal contents are equal data. -/
def State.tablesWf (s : State) : Bool :=
  tblWf furDef s.hg.furrows && tblWf plotDef s.hg.plots && tblWf domDef s.hg.domains && tblWf eventDef s.hg.events
    && tblWf fbDef s.he.fb && tblWf slotDef s.ap.slots && tblWf count64Def s.ap.readout
    && tblWf tableDef s.fl.tables && tblWf count64Def s.fl.halfElems
    && tblWf chanDef s.sl.channels && tblWf coreDef s.ch.cores && tblWf listDef s.ch.lists && tblWf pageDef s.ch.pages
    && tblWf portDef s.cn.ports && tblWf count64Def s.cn.skew && (s.cn.remotes.all fun r => tblWf partDef r.entries)
    && tblWf powerDef s.pi.dom && tblWf ignDef s.pi.ign && tblWf sourceDef s.sb.sources
    && tblWf vectorDef s.hp.vectors && tblWf cfgDef s.hp.cfg

/-- The operations of every furrow stand in their queue in the order in which they were accepted, each with an
identity of its own that was given out before. -/
def State.opsWf (s : State) : Bool :=
  s.hg.furrows.all fun kv => decide ((kv.2.queue.map (·.id)).Pairwise (· < ·)) && kv.2.queue.all fun o => decide (o.id < s.hg.nextOp)

/-- The state is in canonical form. -/
def State.wf (s : State) : Bool := s.memoryWf && s.tablesWf && s.opsWf

end Machine

end Sys2Proof
end

