-- ==== Sys2Proof/WellFormed.lean ====
section
/-!
DEFINITION. Commands whose operands lie within what the tile has: 64 plots of up to 1,024 furrows each out
of 16,384 (09_plots R196), 7 scheduling domains (Table 8-1), 16 slots (R69), 16 user tables (R116), 32
channels (R132), 4 cores (R236), 4 ports (R286), 64 sources (R263), 14 power domains (Table 1-4).
-/
namespace Sys2Proof

def Agent.wf : Agent → Bool
  | .pf => true
  | .vf p => decide (1 ≤ p) && decide (p < 64)
  | .core c | .coreRead c => decide (c < 4)
  | .cfg fn | .bar4 fn => decide (fn < 64)
  | .bar2 => true

def FailUnit.wf : FailUnit → Bool
  | .bank b => decide (b < 24)
  | .stack k => decide (k < 8)
  | .flueHalf h => decide (h < 2)
  | .stats => true
  | .basinWord w => decide (w < 24 * 2 ^ 22)
  | .hbmWord w => decide (w < 24 * 2 ^ 30)
  | .slotEntry s i => decide (s < 16) && decide (i < 131072)
  | .tableBank n b => decide (n < 16) && decide (b < 2)

def PassFault.wf : PassFault → Bool
  | .none => true
  | .parity q => decide (q < 4)
  | .lockstep n => decide (1 ≤ n) && decide (n < 4)

def isPlot (p : Nat) : Bool := decide (p < 64)
def isLocal (i : Nat) : Bool := decide (i < 1024)
def isFurrow (f : Nat) : Bool := decide (f < 16384)
def isDomain (d : Nat) : Bool := decide (d < 7)
def isSlot (s : Nat) : Bool := decide (s < 16)
def isChannel (c : Nat) : Bool := decide (c < 32)
def isCore (c : Nat) : Bool := decide (c < 4)
def isPort (n : Nat) : Bool := decide (n < 4)
def isSource (n : Nat) : Bool := decide (n < 64)
/-- Sources whose every event names a plot (Table 12-1); an event of 18 or 21 names one where an operation met it. -/
def namesPlot (n : Nat) : Bool := decide (n ≤ 6) || (decide (8 ≤ n) && decide (n ≤ 11)) || [14, 25, 30, 55].contains n
def isPower (d : Nat) : Bool := decide (d < 14)
def isSize (n : Nat) : Bool := n == 1 || n == 2 || n == 4 || n == 8
/-- A flit carries at most 240 payload bytes, and LEN says no more (R288). -/
def Flit.wf (fl : Flit) : Bool := decide (fl.payload.length ≤ 240) && decide (fl.len.toNat ≤ 240)

def TimedOut.wf : TimedOut → Bool
  | .ringFetch f => isFurrow f
  | .snapshot f => isFurrow f
  | .segment c => isChannel c

/-- The operands of a command lie in their ranges. -/
def Instr.wf : Instr → Bool
  | .doorbell p i _ => isPlot p && isLocal i
  | .furrowArm a f _ => a.wf && isFurrow f
  | .furrowDisarm a f _ => a.wf && isFurrow f
  | .descriptorFetch f _ => isFurrow f
  | .nop f => isFurrow f
  | .fence f => isFurrow f
  | .record f => isFurrow f
  | .wait f => isFurrow f
  | .lease f => isFurrow f
  | .release f => isFurrow f
  | .gemm f => isFurrow f
  | .passStart d _ flt => isDomain d && flt.wf
  | .slotRowReadout d => isDomain d
  | .flueElementwise f _ => isFurrow f
  | .flueTableFunction f _ => isFurrow f
  | .flueGated f _ => isFurrow f
  | .flueNorm f _ => isFurrow f
  | .flueSoftmax3 f _ => isFurrow f
  | .flueSoftmax2 f _ => isFurrow f
  | .sluiceMove f => isFurrow f
  | .sluiceSegment c _ => isChannel c
  | .slotRead f => isFurrow f
  | .slotWrite f => isFurrow f
  | .slotSave f => isFurrow f
  | .slotRestore f => isFurrow f
  | .invoke f _ => isFurrow f
  | .spawn f => isFurrow f
  | .park f => isFurrow f
  | .tableLoad f => isFurrow f
  | .tableLoadSwap n => isSlot n
  | .plotCreate f => isFurrow f
  | .plotAssign f => isFurrow f
  | .plotReset f => isFurrow f
  | .plotQuarantine f => isFurrow f
  | .plotTeardown f => isFurrow f
  | .windowMap f => isFurrow f
  | .governorSet f => isFurrow f
  | .operationComplete f _ => isFurrow f
  | .failClear p i => isPlot p && isLocal i
  | .schedCommit a _ => a.wf
  | .roundBoundary d => isDomain d
  | .sliceExpire d => isDomain d
  | .resume d => isDomain d
  | .hearthHold a _ => a.wf
  | .ctxSave a s => a.wf && isSlot s
  | .ctxRestore a s => a.wf && isSlot s
  | .ctxDiscard a s => a.wf && isSlot s
  | .modeCtlWrite a _ => a.wf
  | .modeChange => true
  | .gaugeSpan f => isFurrow f
  | .stallScan => true
  | .gaugeEnWrite a _ => a.wf
  | .fastEnWrite a _ => a.wf
  | .mbReqDb p _ => isPlot p
  | .hello p => isPlot p
  | .queryCaps p => isPlot p
  | .armFurrow p => isPlot p
  | .disarmFurrow p => isPlot p
  | .listRegister p => isPlot p
  | .listUnregister p => isPlot p
  | .listReside p => isPlot p
  | .stateCreate p => isPlot p
  | .stateDestroy p => isPlot p
  | .coreRestart p => isPlot p
  | .svnCommit p => isPlot p
  | .schedSet p => isPlot p
  | .invokeAdmit f => isFurrow f
  | .batchClose p _ _ => isPlot p
  | .residencyCopy p _ => isPlot p
  | .residencyRelease p _ => isPlot p
  | .coreRestartCmd a _ => a.wf
  | .wdogPet a c => a.wf && isCore c
  | .wdogExpiry c => isCore c
  | .unhandledTrap c => isCore c
  | .coreRestartDone e => isCore e.core
  | .persistentRecordWrite _ _ _ => true
  | .smokeboxEvent n plot _ => isSource n && (!namesPlot n || plot.isSome) && plot.all isPlot
  | .unitFailsInService u => u.wf
  | .countWindowClose n => isSource n
  | .graceExpiry => true
  | .sbAck a _ => a.wf
  | .sbForceSmoke a => a.wf
  | .sbForceHgStop a => a.wf
  | .sbStatusClear a _ => a.wf
  | .smokeToggle => true
  | .registerWrite a _ size _ => a.wf && isSize size
  | .domainWakeComplete d => isPower d
  | .domainStepDown d => isPower d
  | .scuttleFlush => true
  | .governorTick _ => true
  | .hclkChange => true
  | .thermalSample _ => true
  | .thermalTrip _ => true
  | .refLoss => true
  | .refLock => true
  | .timeAdj a _ => a.wf
  | .ptmTrigger a => a.wf
  | .ptmPeriod => true
  | .ptmDialogueDone _ => true
  | .patrolScrub _ => true
  | .powerUp _ => true
  | .hrstL => true
  | .powerDown => true
  | .ioRailLoss => true
  | .vaux12Loss => true
  | .bootVerify => true
  | .bringUp _ => true
  | .warmReset => true
  | .recoveryImage _ => true
  | .pldmFirmwareUpdate _ => true
  | .firmwareActivate => true
  | .mctpControl _ _ => true
  | .setEndpointId _ => true
  | .pldmMonitoring _ => true
  | .spdmGetCertificate slot _ _ => decide (slot < 8)
  | .spdmChallenge _ => true
  | .spdmGetMeasurements _ _ => true
  | .entdaa _ => true
  | .setdasa _ => true
  | .rstdaa => true
  | .cxlMemRead _ => true
  | .cxlMemWrite _ _ => true
  | .cxlCacheSnoop _ => true
  | .atsInvalidation p _ _ => isPlot p
  | .hdmCommit _ _ _ _ _ => true
  | .vfFlr p => isPlot p
  | .pfFlr => true
  | .hotReset => true
  | .linkDisable => true
  | .dlDown => true
  | .busMasterDisable fn => isPlot fn
  | .vfRemove numVfs => decide (numVfs < 64)
  | .ucieModuleFail m => decide (m < 4)
  | .linkUp _ _ _ _ => true
  | .completionTimeout t => t.wf
  | .cnPortEnable a n _ => a.wf && isPort n
  | .cnPortRetrain a n => a.wf && isPort n
  | .train n fl => isPort n && fl.wf
  | .idle n fl => isPort n && fl.wf
  | .nak n fl => isPort n && fl.wf
  | .replayTimeout n => isPort n
  | .retrainTimeout n => isPort n
  | .gangForm a => a.wf
  | .gangLeave a => a.wf
  | .gangMeasure a => a.wf
  | .form n fl => isPort n && fl.wf
  | .formReply n fl => isPort n && fl.wf
  | .formDone n fl => isPort n && fl.wf
  | .formRefuse n fl => isPort n && fl.wf
  | .timeReq n fl => isPort n && fl.wf
  | .timeResp n fl => isPort n && fl.wf
  | .collBegin n fl => isPort n && fl.wf
  | .collData n fl => isPort n && fl.wf
  | .collResult n fl => isPort n && fl.wf
  | .collEnd n fl => isPort n && fl.wf
  | .collAbort n fl => isPort n && fl.wf
  | .leave n fl => isPort n && fl.wf
  | .collectivePhaseC f => isFurrow f
  | .hrstLRelease _ => true
  | .vaux12InRange => true
  | .vflashLoss => true
  | .vflashReturn => true
  | .tracePortEnable _ => true
  | .flitCrcError n => isPort n
  | .reservedFlitType n fl => isPort n && fl.wf
  | .flitForward n fl => isPort n && fl.wf
  | .canalPhyTrainingEnd n _ => isPort n
  | .hdmDecoderUncommit => true
  | .vfEnable numVfs => decide (numVfs < 64)
  | .doeCdatRead => true
  | .pldmBaseDiscovery => true
  | .spdmNegotiation => true
  | .badTypeRequest p => isPlot p
  | .snapshotTaken f _ => isFurrow f

end Sys2Proof
end

