-- ==== Sys2Proof/Certificates/Slice0/Obligations.lean ====
section
/-!
DEFINITION. The statements for the provers: what each command does, what it leaves as it was, and what holds
of the whole machine. `Ends c s P` says that the command completes in a next state of which `P` holds.
-/

namespace Sys2Proof.Claims
open Sys2Proof Sys2Proof.Machine

/-- The command answers a next state, and `P` holds of it. -/
def Ends (c : Instr) (s : State) (P : State → Prop) : Prop := ∃ t, exec c s = .next t ∧ P t

/-- No operation of furrow `f` with this identity is open any more; while it stays queued it is complete with
reason `r`. -/
def Closed (t : State) (f id r : Nat) : Prop :=
  ∀ x ∈ (getFur t f).queue, x.id = id → x.phase = .done ∧ x.reason = bv 8 r

/-- Every operation of furrow `f` with this identity is in phase `ph`, and there is one. -/
def InPhase (t : State) (f id : Nat) (ph : Phase) : Prop := ∃ x, findOp t f id = some x ∧ x.phase = ph

/-- Furrows other than `f` are as they were, but for the progress counters of one parked on it (R189). -/
def OthersKeep (s t : State) (f : Nat) : Prop :=
  ∀ g, g ≠ f → (getFur t g = getFur s g
    ∨ (parkerOf s f = some g ∧ { getFur t g with progress := 0, slicesIdle := 0 } = { getFur s g with progress := 0, slicesIdle := 0 }))

/-- The Sluice channels of `s` with those that ran operation `id` free. -/
def freed (s : State) (id : Nat) : Sluices :=
  { s.sl with channels := s.sl.channels.filter fun kv => !(kv.2.busy && kv.2.op == id) }

/-- What completing an operation of furrow `f` that holds no engine may change: the furrow table, and the
channel that ran it. -/
def OnlyFurrow (s t : State) (f id : Nat) : Prop :=
  t = { s with hg := { s.hg with furrows := t.hg.furrows }, sl := freed s id } ∧ OthersKeep s t f

/-- Every byte of Basin and HBM outside `n` bytes from physical address `a` of one of them reads as before. -/
def BytesKeep (hbm : Bool) (a n : Nat) (s t : State) : Prop :=
  t.ba.basin = (if hbm then s.ba.basin else t.ba.basin) ∧ t.ba.hbm = (if hbm then t.ba.hbm else s.ba.hbm)
    ∧ ∀ x, x < a ∨ a + n ≤ x → readMem hbm t x 1 = readMem hbm s x 1

/-- An agent's write of `size` bytes at setup offset `off` reaches register `r` at once: power is good, the register's
block is awake, the agent may write there (16_register_map R350, R351; 11_chimney_firmware R238). -/
def Permits (s : State) (a : Agent) (r : Reg) (off size : Nat) : Prop :=
  s.pi.pwrok = true ∧ awake s (blockOf r) = true ∧
    match a with
    | .pf => s.hp.up = true ∧ hostNone r = false
    | .vf _ => False
    | .core c => (getCore s c).state = .running ∧ coreIn s c = true ∧ coreReach s c (setupBase + off) size = true
    | .coreRead _ | .cfg _ | .bar2 | .bar4 _ => False

/-- The furrow table changes at furrow `f` alone. -/
def OnlyAt (s t : State) (f : Nat) (x : Furrow) : Prop :=
  getFur t f = x ∧ (∀ g, g ≠ f → getFur t g = getFur s g) ∧ t = { s with hg := { s.hg with furrows := t.hg.furrows } }

/-- The first operation of a furrow with an opcode that waits and may go on. -/
def goesOn (s : State) (f code : Nat) (ready : State → Op → Bool) : Option Op :=
  (getFur s f).queue.find? fun o => o.phase == .waiting && o.opcode == code && ready s o

/-- Both ways in which an operation that occupies no engine comes to act: it waited and may go on, or its turn has
come, it passes its checks, and it may act at once. -/
def Acts (s : State) (f code : Nat) (needs : List Nat) (check : State → Op → Nat) (ready : State → Op → Bool) (o : Op) : Prop :=
  (goesOn s f code ready = some o ∧ (getPlot s (furPlot s f)).state = .live ∧ awake s [dFront] = true)
    ∨ (goesOn s f code ready = none ∧ ∃ u, beginDispatch f (fun x => x.opcode == code) needs s = .ok (o, u)
        ∧ windowStep u f o (check u o) = 0 ∧ ready (modOp f o.id (fun x => { x with phase := .waiting }) u) o = true)

/-- Its turn has come and it passes its checks, but it has to wait. -/
def Waits (s : State) (f code : Nat) (needs : List Nat) (check : State → Op → Nat) (ready : State → Op → Bool) (o : Op) : Prop :=
  goesOn s f code ready = none ∧ ∃ u, beginDispatch f (fun x => x.opcode == code) needs s = .ok (o, u)
    ∧ windowStep u f o (check u o) = 0 ∧ ready (modOp f o.id (fun x => { x with phase := .waiting }) u) o = false

/-- No byte of memory changes. -/
def SameBytes (s t : State) : Prop :=
  t.ba.basin = s.ba.basin ∧ t.ba.hbm = s.ba.hbm ∧ t.ch.sram = s.ch.sram ∧ t.flash = s.flash

end Sys2Proof.Claims

open Sys2Proof Sys2Proof.Machine Sys2Proof.Claims

/-! ## The whole machine -/

/-- A step takes the command at the front of the queue and runs it with the rest of the queue. On an empty queue one Pilot
clock passes (log 1, the model's choice): tile time advances by one of 19, 20 and 21 ns after the first lock and by 20
before it, the pulses of SB_LIVE end, a Stoker that was saving a context is idle; nothing passes while PWROK is low. -/
def Obligations.StepRunsFrontOrIdles : Prop :=
  (∀ (s : State) (c : Instr) (rest : List Instr), s.pending = c :: rest → step s = exec c { s with pending := rest })
    ∧ (∀ s : State, s.pending = [] →
    (s.pi.pwrok = false → step s = .next s)
    ∧ (s.pi.pwrok = true → ∃ n t, step s = .next t
        ∧ t = { s with pi := { s.pi with time := s.pi.time + bv 64 n, stepSeed := t.pi.stepSeed, stepPos := t.pi.stepPos
                                         stepLeft := t.pi.stepLeft }
                       sb := { s.sb with live := 0 }, he := { s.he with fb := t.he.fb }, free := s.free + 1 }
        ∧ (s.tablesWf = true → ∀ q, getFb t q
            = { getFb s q with runState := if q < 4 ∧ (getFb s q).runState = 4 then 0 else (getFb s q).runState })
        ∧ (s.pi.everLocked = false → n = 20) ∧ (n = 19 ∨ n = 20 ∨ n = 21)))

/-- No command changes the queue. -/
def Obligations.CommandsKeepQueue : Prop :=
  ∀ (c : Instr) (s t : State), exec c s = .next t → t.pending = s.pending

/-- Every byte memory is in canonical form after every step from a state in which it is. -/
def Obligations.MemoryStaysCanonical : Prop :=
  ∀ s t : State, s.memoryWf = true → step s = .next t → t.memoryWf = true

/-- Every table of registers and queues is in canonical form after every step from a state in which it is. -/
def Obligations.TablesStayCanonical : Prop :=
  ∀ s t : State, s.tablesWf = true → step s = .next t → t.tablesWf = true

/-- Operations keep identities of their own, in the order of acceptance, in every step. -/
def Obligations.OperationsStayDistinct : Prop :=
  ∀ s t : State, s.opsWf = true → step s = .next t → t.opsWf = true

/-- No step stops: every command answers a next state in every state. A mailbox request that 11_chimney_firmware R250 calls
undefined, one that firmware would serve, after HELLO, that follows a VERSION response or has another format version,
touches no other plot: of the plots' registers only the sender's mailbox may change. -/
def Obligations.NoStepStops : Prop :=
  (∀ s : State, ∃ t, step s = .next t)
    ∧ (∀ (s : State) (p : Nat) (c : Instr), s.wf = true → (getPlot s p).mail.helloDone = true → p ≠ 0 →
      ((getPlot s p).mail.versionSent = true ∨ msgVer (getPlot s p).mail.held ≠ s.ch.mbVer.toNat) →
      (c = .queryCaps p ∨ c = .coreRestart p ∨ c = .svnCommit p ∨ c = .schedSet p ∨ c = .badTypeRequest p) →
      Ends c s fun t => (∀ q, q ≠ p → getPlot t q = getPlot s q) ∧ (∃ m, getPlot t p = { getPlot s p with mail := m })
        ∧ SameBytes s t ∧ t.hg.furrows = s.hg.furrows ∧ t.ap = s.ap ∧ t.fl = s.fl)

/-- The state after reset is in canonical form. Registers after reset, by their cards: the limits of PI_GOV_LIMIT, the service level NOT_READY, the stall
gauge, shares, slices and quotas, the scrubber, watchdogs, the Smokebox's configuration, ports and the gang off. -/
def Obligations.ResetIsAsTheCardsSay : Prop :=
  (State.reset.wf = true)
    ∧ (regValue State.reset .govLimit = 6 + 2 ^ 16 * 700 + 2 ^ 32 * 95 + 2 ^ 48 * 0xFF + 2 ^ 64 * 2 + 2 ^ 80 * 200 + 2 ^ 96 * 100
    ∧ regValue State.reset .service = 3
    ∧ regValue State.reset .schedCtl = 4 + 2 ^ 8 * 16
    ∧ (∀ p, p < 64 → regValue State.reset (.schedPlot p) = 1 + 2 ^ 8 * 1000 + 2 ^ 32 * 1 + 2 ^ 40 * 1000
        ∧ regValue State.reset (.quota p) = 1024)
    ∧ regValue State.reset .scrubCtl = 1 + 2 ^ 8 * 24
    ∧ (∀ c, c < 4 → regValue State.reset (.wdog c) = 100)
    ∧ regValue State.reset .sbCtl = 2 * 3 + 2 ^ 4 * 1 + 2 ^ 7 + 2 ^ 8
    ∧ regValue State.reset .sbGrace = 100000
    ∧ regValue State.reset .sbAction = 4 + 2 ^ 4 * 5 + 2 ^ 8 * 0xE
    ∧ regValue State.reset .sbStatus = 0
    ∧ (∀ n, n < 4 → regValue State.reset (.portCtl n) = 0)
    ∧ regValue State.reset .gangCfg = 0 ∧ regValue State.reset .gangCtl = 0
    ∧ regValue State.reset .modeCtl = 0)
/-! ## Furrows -/

/-- DOORBELL (07_furrows_and_descriptors R151) on local furrow `i` of a LIVE plot `p` while FRONT is awake: the
tail is replaced; an armed furrow takes no tail of 2^SIZE_LOG2 or more and sets BAD_TAIL; domains may ignite,
nothing else changes. While FRONT sleeps the write is latched. A furrow that is not ACTIVE starts nothing. -/
def Obligations.DoorbellReplacesTail : Prop :=
  ∀ (s : State) (p i f : Nat) (tail : BitVec 16), s.wf = true → globalFur s p i = some f → pageOpen s p = true →
    s.hp.up = true → s.pi.trip = false →
    let x := getFur s f
    (awake s [dFront] = true → (x.arm = false ∨ tail.toNat < 2 ^ x.sizeLog2.toNat) →
      Ends (.doorbell p i tail) s fun t =>
        ∃ ws, OnlyAt { s with pi := { s.pi with waking := ws } } t f { x with tail := tail }
          ∧ (x.state ≠ .active → ws = s.pi.waking))
    ∧ (awake s [dFront] = true → x.arm = true → 2 ^ x.sizeLog2.toNat ≤ tail.toNat →
      Ends (.doorbell p i tail) s fun t => OnlyAt s t f { x with badTail := true })
    ∧ (awake s [dFront] = false →
      Ends (.doorbell p i tail) s fun t => ∃ ws h,
        t = { s with pi := { s.pi with waking := ws, latched := s.pi.latched ++ [h] } }
          ∧ h.v.toNat = tail.toNat ∧ h.addr = doorbellAddr p i)

/-- FURROW_ARM and FURROW_DISARM (07_furrows_and_descriptors R149) by an agent that may write HG_FUR_CFG: the write
stores SIZE_LOG2 and KIND and arms an unarmed furrow where R149 allows it, with TAIL = HEAD, the tickets at LAST and
an empty queue, else it sets ARM_REFUSED; a write of ARM = 0 that repeats SIZE_LOG2 and KIND takes an armed furrow out
of service, what was not dispatched is gone from its queue. Other furrows are as before. -/
def Obligations.ArmAndDisarm : Prop :=
  (∀ (s : State) (a : Agent) (f : Nat) (v : BitVec 32), s.wf = true → f < 16384 → v.getLsbD 7 = true → (getFur s f).arm = false →
      Permits s a (.furCfg f) (0x300008 + 0x40 * f) 4 →
      let y := { getFur s f with sizeLog2 := bv 5 v.toNat, kind := bv 2 (v.toNat / 32) }
      let r := armRefused (setFur s f y) f || y.draining
      Ends (.furrowArm a f v) s fun t => OnlyAt s t f (if r then { y with armRefused := true } else armedFurrow y))
    ∧ (∀ (s : State) (a : Agent) (f : Nat) (v : BitVec 32), s.wf = true → f < 16384 → v.getLsbD 7 = false → (getFur s f).arm = true →
      bv 5 v.toNat = (getFur s f).sizeLog2 → bv 2 (v.toNat / 32) = (getFur s f).kind →
      Permits s a (.furCfg f) (0x300008 + 0x40 * f) 4 →
      Ends (.furrowDisarm a f v) s fun t =>
        (getFur t f).arm = false ∧ (∀ o ∈ (getFur t f).queue, o ∈ (getFur s f).queue ∧ o.phase ≠ .accepted ∧ o.phase ≠ .snapshot)
          ∧ (∀ g, g ≠ f → getFur t g = getFur s g)
          ∧ t = { s with hg := { s.hg with furrows := t.hg.furrows, domains := t.hg.domains } })

/-- DESCRIPTOR_FETCH (07_furrows_and_descriptors R152, R160, R161) of a furrow that may fetch. The bytes are what the
host answers, or for an INNER furrow the Basin's; no entry at the tail is fetched. An accepted descriptor joins the queue,
HEAD passes its entries and LAST is its ticket; one with a ticket not above LAST is dropped and counted; one that fails a
check, or cannot be read, halts the furrow with its reason, HEAD unchanged; one whose second entry lies at the tail waits.
No byte of memory changes. -/
def Obligations.FetchChecksDescriptor : Prop :=
  ∀ (s : State) (f : Nat) (r : HostResp) (b : List Byte), s.wf = true → canFetch s f = true →
    let x := getFur s f
    let e := innerEntry s f
    ((x.kind ≠ 2 ∧ ∃ bytes pages, hostAnswer s x.plot.toNat r = .data bytes pages ∧ b = (fetchDesc x bytes pages s).bytes
        ∧ (scuttleUsed s x.plot.toNat = false → b = padTo (fetchSize x (padTo 128 bytes)) bytes))
      ∨ (x.kind = 2 ∧ readBad false s e.1 e.2 = false ∧ b = readMem false s e.1 e.2)) →
    (fetchCheck x b = .wait → Ends (.descriptorFetch f r) s fun t => t.hg = s.hg ∧ SameBytes s t) ∧
    (fetchCheck x b = .accept → Ends (.descriptorFetch f r) s fun t =>
      (∃ o : Op, (getFur t f).queue = x.queue ++ [o] ∧ o.id = s.hg.nextOp ∧ o.opcode = descOpcode b ∧ o.ticket = descTicket b
          ∧ o.bytes = padTo (128 * opcodeEntries (descOpcode b)) b ∧ o.phase = .accepted)
        ∧ (getFur t f).head = x.advance (opcodeEntries (descOpcode b)) ∧ (getFur t f).last = descTicket b
        ∧ t.hg.nextOp = s.hg.nextOp + 1 ∧ OthersKeep s t f ∧ SameBytes s t)
    ∧ (fetchCheck x b = .drop → Ends (.descriptorFetch f r) s fun t =>
      getFur t f = { x with drops := incHold x.drops, head := x.advance (opcodeEntries (descOpcode b)) }
        ∧ (∀ g, g ≠ f → getFur t g = getFur s g) ∧ SameBytes s t)
    ∧ (∀ h, fetchCheck x b = .halt h → Ends (.descriptorFetch f r) s fun t =>
      getFur t f = { x with state := .halted, haltReason := bv 8 h, privSeen := x.privSeen || h == hPriv }
        ∧ (∀ g, g ≠ f → getFur t g = getFur s g) ∧ SameBytes s t)

/-- NOP, FENCE and WAIT (07_furrows_and_descriptors R154, R162): each completes with reason 0 and changes nothing but its
furrow; FENCE once every earlier operation of the furrow is complete, WAIT once its event has reached VALUE; until
then they wait, and later descriptors with them. RECORD (07_furrows_and_descriptors R162) sets its counter to VALUE when that is greater, leaves every other counter,
and completes. -/
def Obligations.OrderOpcodesAndEvents : Prop :=
  ((∀ (s : State) (f : Nat) (o : Op), s.wf = true → Acts s f 0x00 [] (fun _ _ => 0) (fun _ _ => true) o →
      Ends (.nop f) s fun t => Closed t f o.id 0 ∧ OnlyFurrow s t f o.id)
    ∧ (∀ (s : State) (f : Nat) (o : Op), s.wf = true → Acts s f 0x01 [] (fun _ _ => 0) (allEarlierDone f) o →
      Ends (.fence f) s fun t => Closed t f o.id 0 ∧ OnlyFurrow s t f o.id)
    ∧ (∀ (s : State) (f : Nat) (o : Op), s.wf = true → Waits s f 0x01 [] (fun _ _ => 0) (allEarlierDone f) o →
      Ends (.fence f) s fun t => InPhase t f o.id .waiting ∧ nextUndispatched (getFur t f).queue = none)
    ∧ (∀ (s : State) (f : Nat) (o : Op), s.wf = true →
      Acts s f 0x03 [] (fun u o => if eventOk u f (evtOf o.bytes) then 0 else rEvent)
        (fun u o => decide (valueOf o.bytes ≤ (getEvent u (furPlot u f) (evtOf o.bytes)).toNat)) o →
      Ends (.wait f) s fun t => Closed t f o.id 0 ∧ OnlyFurrow s t f o.id)
    ∧ (∀ (s : State) (f : Nat) (o : Op), s.wf = true →
      Waits s f 0x03 [] (fun u o => if eventOk u f (evtOf o.bytes) then 0 else rEvent)
        (fun u o => decide (valueOf o.bytes ≤ (getEvent u (furPlot u f) (evtOf o.bytes)).toNat)) o →
      Ends (.wait f) s fun t => InPhase t f o.id .waiting ∧ nextUndispatched (getFur t f).queue = none))
    ∧ (∀ (s : State) (f : Nat) (o : Op), s.wf = true →
    Acts s f 0x02 [] (fun u o => if eventOk u f (evtOf o.bytes) then 0 else rEvent) (allEarlierDone f) o →
    Ends (.record f) s fun t =>
      getEvent t (furPlot s f) (evtOf o.bytes)
          = (if (getEvent s (furPlot s f) (evtOf o.bytes)).toNat < valueOf o.bytes then bv 64 (valueOf o.bytes)
             else getEvent s (furPlot s f) (evtOf o.bytes))
        ∧ (∀ k, k ≠ 1024 * furPlot s f + evtOf o.bytes → tblGet eventDef t.hg.events k = tblGet eventDef s.hg.events k)
        ∧ Closed t f o.id 0 ∧ SameBytes s t ∧ t.hg.plots = s.hg.plots ∧ t.ap = s.ap)

/-- LEASE and RELEASE (04_ashpan R80): LEASE gives a slot of the plot to the furrow, zeroed whole unless the furrow holds it
already; RELEASE, once every earlier operation on the slot is complete, frees it and makes its record invalid. Other
slots and all memory are as before. -/
def Obligations.LeasesChangeHands : Prop :=
  (∀ (s : State) (f : Nat) (o : Op), s.wf = true →
      Acts s f 0x04 (hearthNeeds s (match turnOp s f with | some o => leaseSlot o.bytes | none => 0)) (leaseCheck f)
        (fun _ _ => true) o →
      Ends (.lease f) s fun t =>
        getSlot t (leaseSlot o.bytes)
            = (if (getSlot s (leaseSlot o.bytes)).lease = some f then getSlot s (leaseSlot o.bytes)
               else { zeroSlot s.he.modeCur (getSlot s (leaseSlot o.bytes)) with lease := some f })
          ∧ (∀ n, n ≠ leaseSlot o.bytes → getSlot t n = getSlot s n) ∧ Closed t f o.id 0 ∧ t.ba = s.ba ∧ t.sb = s.sb ∧ t.he = s.he)
    ∧ (∀ (s : State) (f : Nat) (o : Op), s.wf = true → Acts s f 0x05 [] (releaseCheck f) (releaseReady f) o →
      Ends (.release f) s fun t =>
        getSlot t (leaseSlot o.bytes) = { getSlot s (leaseSlot o.bytes) with lease := none }
          ∧ t.hg.ctxValid.getLsbD (leaseSlot o.bytes) = false
          ∧ (∀ n, n ≠ leaseSlot o.bytes → getSlot t n = getSlot s n) ∧ Closed t f o.id 0 ∧ t.ba = s.ba ∧ t.sb = s.sb ∧ t.he = s.he)

/-- SPAWN (07_furrows_and_descriptors R163, R164): COUNT entries are copied into the inner ring from its tail on, wrapping,
the tail advances by COUNT, and SPAWN completes. Every Basin byte outside the ring is as before. PARK (07_furrows_and_descriptors R165): the furrow is PARKED on the inner furrow that it names, until its event
reaches VALUE; one whose event has come already completes. -/
def Obligations.SpawnCopiesAndParkWaits : Prop :=
  (∀ (s : State) (f g : Nat) (o : Op), s.wf = true → Acts s f 0x0C [dBasin] (spawnCheck f) (fun _ _ => true) o →
    globalFur s (furPlot s f) (targetOf o.bytes) = some g → s.ba.bankFail = 0 →
    let p := furPlot s f
    let n := spawnCount o.bytes
    let x := getFur s g
    let size := 2 ^ x.sizeLog2.toNat
    readBad false s (basinAddr s p (spawnBase o.bytes)) (128 * n) = false → x.tail.toNat < size → x.head.toNat < size →
    n ≤ x.room →
    Ends (.spawn f) s fun t =>
      (getFur t g).tail.toNat = (x.tail.toNat + n) % size
        ∧ (∀ j, j < n → readMem false t (basinAddr s p (x.base.toNat * 4096 + 128 * ((x.tail.toNat + j) % size))) 128
            = readMem false s (basinAddr s p (spawnBase o.bytes + 128 * j)) 128)
        ∧ BytesKeep false (basinAddr s p (x.base.toNat * 4096)) (128 * size) s t
        ∧ Closed t f o.id 0)
    ∧ ((∀ (s : State) (f : Nat) (o : Op), s.wf = true → Acts s f 0x0D [] (parkCheck f) (fun _ _ => true) o →
      (getEvent s (furPlot s f) (parkEvent o.bytes)).toNat < valueOf o.bytes →
      Ends (.park f) s fun t =>
        (getFur t f).state = .parked ∧ (getFur t f).parkedOn = globalFur s (furPlot s f) (targetOf o.bytes)
          ∧ InPhase t f o.id .waiting ∧ (∀ g, g ≠ f → getFur t g = getFur s g)
          ∧ t = { s with hg := { s.hg with furrows := t.hg.furrows } })
    ∧ (∀ (s : State) (f : Nat) (o : Op), s.wf = true → Acts s f 0x0D [] (parkCheck f) (fun _ _ => true) o →
      valueOf o.bytes ≤ (getEvent s (furPlot s f) (parkEvent o.bytes)).toNat →
      Ends (.park f) s fun t => Closed t f o.id 0 ∧ (getFur t f).state ≠ .parked ∧ SameBytes s t))

/-- OPERATION_COMPLETE and FAIL_CLEAR (07_furrows_and_descriptors R169 to R171): an operation that is over completes with its
reason; alone in its furrow it retires, DONE_TICKET is its ticket, and a failure is reported while FAIL is 0. Clearing
FAIL lets retirement go on. -/
def Obligations.CompletionRetires : Prop :=
  (∀ (s : State) (f : Nat) (o : Op), s.wf = true → (getFur s f).queue.find? (fun x => x.phase == .ended && x.ticket == o.ticket) = some o →
      awake s [dFront] = true →
      Ends (.operationComplete f o.ticket) s fun t =>
        Closed t f o.id o.reason.toNat ∧ (s.ch.modeSeq = none → SameBytes s t ∧ t.ap = s.ap)
          ∧ ((getFur s f).queue = [o] → (o.reason = 0 ∨ (getFur s f).fail = false) →
            (getFur t f).queue = [] ∧ (getFur t f).doneTicket = o.ticket
              ∧ (o.reason ≠ 0 → (getFur t f).fail = true ∧ (getFur t f).failTicket = o.ticket ∧ (getFur t f).failReason = o.reason)))
    ∧ (∀ (s : State) (p i f : Nat), s.wf = true → globalFur s p i = some f → s.hp.up = true → (p = 0 ∨ p ≤ s.hp.numVfs) →
      (getPlot s p).state = .live →
      Ends (.failClear p i) s fun t =>
        OthersKeep s t f ∧ t = { s with hg := { s.hg with furrows := t.hg.furrows } }
          ∧ ((∀ o ∈ (getFur s f).queue, o.reason = 0) → (getFur t f).fail = false)
          ∧ (∀ o rest, (getFur s f).queue = o :: rest → o.phase ≠ .done ∨ (getFur t f).queue.length ≤ rest.length))

/-- GAUGE_SPAN and STALL_SCAN (08_headgate_and_stokers R189, R190): a span in which a live furrow made no progress counts one
more idle slice, up to 255, and STALLED sets when the count reaches the threshold; while GAUGE_EN is 0 nothing counts. The
scan reports each furrow at or above the threshold that it has not reported since it last saw it below, and no other:
where a plot has one such furrow and room in its notice ring, one stall notice with the furrow's gauge; a plot that has
none keeps its mailbox as it was. -/
def Obligations.StallGaugeCounts : Prop :=
  (∀ (s : State) (f : Nat), s.hg.gaugeEn = false → exec (.gaugeSpan f) s = .next s)
    ∧ (∀ (s : State) (f : Nat), s.wf = true → s.hg.gaugeEn = true → (getFur s f).alloc = true →
      let x := getFur s f
      let idle := if furLive s f ∧ x.gaugeProgress = x.progress then incHold x.slicesIdle else x.slicesIdle
      Ends (.gaugeSpan f) s fun t =>
        OnlyAt s t f { x with slicesIdle := idle, gaugeProgress := x.progress
                              stalled := x.stalled || (decide (x.slicesIdle.toNat < stallN s) && decide (stallN s ≤ idle.toNat)) })
    ∧ (∀ s : State, s.wf = true → s.hg.gaugeEn = true → compRuns s 1 = true →
      let due := fun f => (getFur s f).alloc = true ∧ (getFur s f).reported = false ∧ stallN s ≤ (getFur s f).slicesIdle.toNat
      Ends .stallScan s fun t =>
        (∀ f, (getFur s f).alloc = true →
            getFur t f = { getFur s f with reported := decide (stallN s ≤ (getFur s f).slicesIdle.toNat) })
          ∧ (∀ f, (getFur s f).alloc = false → getFur t f = getFur s f) ∧ SameBytes s t
          ∧ (∀ p, (∀ f, due f → (getFur s f).plot.toNat ≠ p) → getPlot t p = getPlot s p)
          ∧ (∀ f, due f → (∀ g, due g → (getFur s g).plot = (getFur s f).plot → g = f) →
              let p := (getFur s f).plot.toNat
              let m := (getPlot s p).mail
              let x := getFur s f
              m.ntcTail - m.ntcHead ≠ 32 →
                getPlot t p = { getPlot s p with mail := { m with
                  ntcTail := m.ntcTail + 1
                  ntcRing := tblSet ringDef m.ntcRing (m.ntcTail.toNat % 32) (noticeBytes s 0x8001 m.ntcTail
                    (natLe 2 x.localIdx.toNat ++ natLe 1 x.slicesIdle.toNat ++ [0] ++ natLe 4 x.progress.toNat)) } }))

/-! ## Hearth, Ashpan, Flue -/

namespace Sys2Proof.Claims

/-- Every stored word that the engines read is good. -/
def AllGood (s : State) : Prop :=
  s.ba.basinBad = [] ∧ s.ba.hbmBad = [] ∧ s.ba.bankFail = 0 ∧ s.ba.stackFail = 0 ∧ (∀ n, (getSlot s n).bad = [])
    ∧ (∀ n, (getTable s n).bad = [])

/-- The running GEMM of a domain, with its descriptor and geometry. -/
def RunsGemm (s : State) (d f : Nat) (o : Op) : Prop :=
  runningOp s d = some (f, o) ∧ o.opcode = 0x08 ∧ o.phase = .running

/-- The weights of output column `c` in a pass: those that the cells hold once its block is loaded, before that the ones
that Basin holds (R52, R53, R58). -/
def passWeights (s : State) (f : Nat) (o : Op) (c : Nat) (pa : Pass) : List Ext :=
  let g := gemmDesc o.bytes
  let q := geoOf o.quad g
  let work := (widest [q.act, q.w]).par
  if o.prog.loaded then cellCol q work (cellRows s g.slot) (c - pa.t * q.nb)
  else (weightCodes s (furPlot s f) g q c (pa.kb * q.kb) (blockK q g pa.kb)).map fun v => Ext.ofL q.w.par work (weightDecode q.w v)

/-- What an activation row and an output column of a pass fold into a slot entry that reads `x` (R50, R66 to R75). -/
def foldInto (s : State) (f : Nat) (o : Op) (m c : Nat) (pa : Pass) (k : WordKind) (x : Acc) : Acc :=
  let g := gemmDesc o.bytes
  let q := geoOf o.quad g
  let work := (widest [q.act, q.w]).par
  (foldRuns k x (runSums q.exact work (actRow s (furPlot s f) g q work m (pa.kb * q.kb) (blockK q g pa.kb))
    (passWeights s f o c pa))).1

/-- The code of output element (m, n) of a read-out of plot `p` whose entry holds `v`: scale, fusion, epilogue (R83, R109). -/
def readCode (s : State) (p : Nat) (r : ReadDesc) (epi : Nat) (binds : List (Nat × Nat)) (m n : Nat) (v : Acc) : Nat :=
  let out := fmtOr r.outFmt
  let fz := (fmtOr r.fuseFmt).size
  let scale := if r.scaleEn then leNat (readMem false s (basinAddr s p (r.scaleBase + 2 * n)) 2) else 0x4008
  let fused := if r.fuseOp = 0 then 0 else leNat (readMem false s (basinAddr s p (r.fuseBase + m * r.fuseStride + n * fz)) fz)
  let e := readoutElem out.par v.src (lDecode parL16 scale)
    (if r.fuseOp = 1 then .add else if r.fuseOp = 2 then .mul else .none) (fmtOr r.fuseFmt).par (lDecode (fmtOr r.fuseFmt).par fused)
  (epiElem s binds epi out e.1).getD out.par.nan

/-- The address of output element (m, n) of a read-out. -/
def outAt (s : State) (p : Nat) (r : ReadDesc) (m n : Nat) : Nat :=
  basinAddr s p (r.outBase + m * r.outStride + n * (fmtOr r.outFmt).size)

/-- A range of a plot's Basin window, by physical address. -/
def Covers (s : State) (p : Nat) (r : Range) (x : Nat) : Prop := basinAddr s p r.a ≤ x ∧ x < basinAddr s p r.a + r.n

/-- The content that a slot read converts at an entry: the named slot's, or the tree over the partners (R76). -/
def slotValue (s : State) (d : SlotDesc) (i : Nat) : Acc :=
  let part := fun q => if bitAt d.partners q then some (entryAcc (getSlot s (4 * q + d.slot % 4)) i, false) else none
  if d.partners = 0 then entryAcc (getSlot s d.slot) i
  else ((combine4 (getSlot s d.slot).word (part 0) (part 1) (part 2) (part 3)).getD (.empty, false)).1

/-- The commands of the Flue, by class (05_flue Table 5-4); a reserved code comes with the element-wise ones. -/
def flueInstr (k : FlueClass) (f rows : Nat) : Instr :=
  match k with
  | .simple => .flueElementwise f rows
  | .reserved => .flueElementwise f rows
  | .table => .flueTableFunction f rows
  | .gated => .flueGated f rows
  | .norm => .flueNorm f rows
  | .softmax3 => .flueSoftmax3 f rows
  | .softmax2 => .flueSoftmax2 f rows

/-- The function codes that a command of the Flue takes. -/
def flueTakes (k : FlueClass) (o : Op) : Bool :=
  o.opcode == 0x09 && (match k with
    | .simple => flueClass (flueDesc o.bytes).fn == .simple || flueClass (flueDesc o.bytes).fn == .reserved
    | .reserved => flueClass (flueDesc o.bytes).fn == .simple || flueClass (flueDesc o.bytes).fn == .reserved
    | c => flueClass (flueDesc o.bytes).fn == c)

/-- The source bytes of a segment of `n` elements from address `s0`; none where a host side fails. -/
def segSource (s : State) (p : Nat) (d : SluiceDesc) (r : HostResp) (s0 n : Nat) : Option (List Byte) :=
  if d.src = 0 then (match hostAnswer s p r with | .data b _ => some (padTo (n * d.srcSize) b) | _ => none)
  else if d.dst = 0 ∧ hostAnswer s p r = .error then none
  else some (readMem (d.src == 2) s s0 (n * d.srcSize))

end Sys2Proof.Claims

/-- GEMM (03_hearth R62 to R64): one whose turn has come in its domain and that passes every check of Table 7-10 runs;
without ACC its slot takes the word kind and shape of its operand formats, its flag is 0, and the entries it will use are
empty; with ACC the slot stands. One that fails a check completes with the first code that fails, its slot as it was. -/
def Obligations.GemmStarts : Prop :=
  ∀ (s u : State) (f : Nat) (o : Op), s.wf = true →
    beginEngine (nextDomain s f) f (fun x => x.opcode == 0x08) (gemmNeedsNext s f) s = .ok (o, u) →
    let g := gemmDesc o.bytes
    let q := geoOf s.he.modeCur g
    let code := windowStep u f o (gemmCheck u f o)
    (code = 0 → s.hg.ctxValid.getLsbD g.slot = false ∨ s.hg.ctxLost.getLsbD g.slot = false → Ends (.gemm f) s fun t =>
        InPhase t f o.id .running ∧ t.hg.ctxValid.getLsbD g.slot = false
          ∧ (g.accum = true → getSlot t g.slot = getSlot s g.slot)
          ∧ (g.accum = false → (getSlot t g.slot).word = (if q.exact then .a96 else .e96) ∧ (getSlot t g.slot).lanes = bv 2 q.lanes
              ∧ (getSlot t g.slot).quad = s.he.modeCur ∧ (getSlot t g.slot).sat = false ∧ (getSlot t g.slot).lease = some f
              ∧ ∀ i, i < min g.m q.rows * q.cols → entryAcc (getSlot t g.slot) i = .empty)
          ∧ (∀ n, n ≠ g.slot → getSlot t n = getSlot s n)
          ∧ (g.hold = true ∨ g.out.reduce = .none ∨ g.accum = true → SameBytes s t))
    ∧ (code ≠ 0 → Ends (.gemm f) s fun t => Closed t f o.id code ∧ t.ap = s.ap ∧ SameBytes s t)

/-- PASS_START (03_hearth R58 to R61; 04_ashpan R66 to R75): one activation row of the current pass of a running GEMM
folds its run sums into the entry of every column of the N tile; the row counts, and after the pass's last row the next
pass is due. The weights are those that the cells took from Basin when the pass's block was loaded (R52, R53, R58): a pass's
first row reads them from Basin, later rows from the cells. No byte of memory changes, and no other slot. A pass that meets
a weight-parity mismatch as its block is loaded, or a lockstep mismatch of a follower (03_hearth R59;
08_headgate_and_stokers R181) ends its operation with HW_ERROR; the slot rows that the operation uses are empty. A parity
mismatch of a Firebox that loads nothing for the operation cannot be. -/
def Obligations.PassFoldsRowOrStopsGemm : Prop :=
  (∀ (s : State) (d f : Nat) (o : Op), s.wf = true → RunsGemm s d f o → AllGood s →
    let g := gemmDesc o.bytes
    let q := geoOf o.quad g
    let pa := passAt q g o.prog.pass
    let m := pa.m0 + o.prog.row
    let x := getSlot s g.slot
    o.prog.pass < passCount q → o.prog.row < pa.rows → rowBlocked q o.prog.await m pa.t = false →
    q.w.isWeight = true → tblWf (entryDef x.word) x.entries = true →
    Ends (.passStart d 1 .none) s fun t =>
      (∀ c ∈ tileCols q g pa.t,
          let i := (m % q.rows) * q.cols + c % q.cols
          tblGet (entryDef x.word) (getSlot t g.slot).entries i
            = bv 96 (encodeWord x.word (foldInto s f o m c pa x.word
                (if pa.kb = 0 ∧ firstUse q m pa.t = false then .empty else entryAcc x i))))
        ∧ (∀ n, n ≠ g.slot → getSlot t n = getSlot s n)
        ∧ (∃ o', findOp t f o.id = some o'
            ∧ (o.prog.row + 1 < pa.rows → o'.prog.pass = o.prog.pass ∧ o'.prog.row = o.prog.row + 1 ∧ o'.prog.loaded = true)
            ∧ (o.prog.row + 1 = pa.rows → o'.prog.pass = o.prog.pass + 1 ∧ o'.prog.row = 0 ∧ o'.prog.loaded = false)
            ∧ o'.prog.await = o.prog.await ++ (if pa.kb + 1 = q.kTiles ∧ g.hold = false then [⟨m, pa.t⟩] else []))
        ∧ SameBytes s t)
    ∧ (∀ (s : State) (d f : Nat) (o : Op) (flt : PassFault), s.wf = true → RunsGemm s d f o →
    o.prog.pass < passCount (geoOf o.quad (gemmDesc o.bytes)) →
    (∀ q, flt = .parity q → (o.prog.loaded = true ∨ q ∉ slotFbs s (gemmDesc o.bytes).slot) → exec (.passStart d 1 flt) s = .next s)
    ∧ (((∃ q, flt = .parity q ∧ o.prog.loaded = false ∧ q ∈ slotFbs s (gemmDesc o.bytes).slot)
        ∨ (∃ n, 1 ≤ n ∧ n ≤ 3 ∧ flt = .lockstep n ∧ s.he.modeCur = false)) →
    Ends (.passStart d 1 flt) s fun t =>
      (∃ o', findOp t f o.id = some o' ∧ o'.phase = .ended ∧ o'.reason = bv 8 rHwError)
        ∧ (∀ i, i < gemmRows (getSlot s (gemmDesc o.bytes).slot) (gemmDesc o.bytes) * (getSlot s (gemmDesc o.bytes).slot).cols →
            entryAcc (getSlot t (gemmDesc o.bytes).slot) i = .empty)
        ∧ (∀ n, flt = .lockstep n → (getFb t n).lockErr = incHold (getFb s n).lockErr)
        ∧ SameBytes s t))

/-- SLOT_ROW_READOUT (04_ashpan R60, R83, R85; 05_flue R109): the oldest row that awaits read-out of a running GEMM leaves
the list; every output element of the row in its N tile is the conversion of its entry under scale, fusion and epilogue,
and each element updates the reduction record that it belongs to, that of its column or, in order, that of its row. Slot
entries stay, and every byte outside the row's elements and the records. A GEMM whose passes are all issued ends with its
last row. The ranges of the read-out lie apart, as its OVERLAP check has it. -/
def Obligations.ReadoutWritesRow : Prop :=
  ∀ (s : State) (d f : Nat) (o : Op) (a : AwaitRow) (rest : List AwaitRow), s.wf = true → RunsGemm s d f o → AllGood s →
    o.prog.await = a :: rest →
    let g := gemmDesc o.bytes
    let q := geoOf o.quad g
    let p := furPlot s f
    let r := g.out
    let size := (fmtOr r.outFmt).size
    let x := getSlot s g.slot
    let code := fun c => readCode s p r g.epiFn o.binds a.m c (entryAcc x ((a.m % q.rows) * q.cols + c % q.cols))
    let el := fun c => El.acc ⟨fmtOr r.outFmt, code c⟩
    let record := fun (u : State) j => readMem false u (basinAddr u p (r.statBase + j * r.reduce.size)) r.reduce.size
    a.m < g.m → readApart r [readScaleRange r] = true →
    Ends (.slotRowReadout d) s fun t =>
      (∃ o', findOp t f o.id = some o' ∧ o'.prog.await = rest
          ∧ (rest = [] ∧ passCount q ≤ o.prog.pass → o'.phase = .ended)
          ∧ (rest ≠ [] ∨ o.prog.pass < passCount q → o'.phase = .running))
        ∧ (getSlot t g.slot).entries = x.entries ∧ (∀ n, n ≠ g.slot → getSlot t n = getSlot s n)
        ∧ (∀ c ∈ tileCols q g a.t, readMem false t (outAt s p r a.m c) size = natLe size (code c))
        ∧ (r.axisCol = true → r.reduce ≠ .none → ∀ c ∈ tileCols q g a.t, record t c = (recordStep r.reduce (record s c) (el c)).1)
        ∧ (r.axisCol = false → r.reduce ≠ .none →
            record t a.m = (tileCols q g a.t).foldl (fun b c => (recordStep r.reduce b (el c)).1) (record s a.m))
        ∧ (∀ y, (∀ c ∈ tileCols q g a.t, y < outAt s p r a.m c ∨ outAt s p r a.m c + size ≤ y) → ¬ Covers s p (readStatRange r) y →
            readMem false t y 1 = readMem false s y 1)
        ∧ t.ba.hbm = s.ba.hbm

/-- The six commands of the Flue (05_flue R94 to R114): a FLUE operation of the class whose turn has come and that passes its
checks runs, bound to the active banks of its tables; one that fails a check completes with its code. -/
def Obligations.FlueStarts : Prop :=
  ∀ (s u : State) (f rows : Nat) (k : FlueClass) (o : Op), s.wf = true → runningOp s 5 = none →
    beginEngine 5 f (flueTakes k) (flueNeeds s) s = .ok (o, u) →
    let code := windowStep u f o (flueCheck u (furPlot u f) [] (flueDesc o.bytes) o.snapshot)
    (code = 0 → Ends (flueInstr k f rows) s fun t =>
        (∃ o', findOp t f o.id = some o' ∧ o'.phase = .running ∧ o'.binds = bindsFor s (flueDesc o.bytes).fn ∧ o'.prog = {})
          ∧ SameBytes s t ∧ t.ap = s.ap ∧ t.fl = s.fl)
    ∧ (code ≠ 0 → Ends (flueInstr k f rows) s fun t => Closed t f o.id code ∧ SameBytes s t ∧ t.ap = s.ap ∧ t.fl = s.fl)

/-- A row of a running FLUE operation (05_flue R96, R100 to R114): its output bytes are those of the class's function
on the row's operands, the row counts, and the operation ends with its last row. Every other byte is as before. -/
def Obligations.FlueWritesRow : Prop :=
  ∀ (s : State) (f : Nat) (k : FlueClass) (o : Op), s.wf = true → runningOp s 5 = some (f, o) → o.phase = .running →
    flueTakes k o = true → AllGood s →
    let d := flueDesc o.bytes
    let r := o.prog.flueRow
    let a := basinAddr s (furPlot s f) (d.outBase + r * d.outStride)
    let bytes := ((flueRow s (furPlot s f) d o.snapshot (tableFor s o.binds d.fn) r).take d.cols).flatMap (natLe (fmtOr d.outFmt).size)
    Ends (flueInstr k f 1) s fun t =>
      readMem false t a bytes.length = bytes ∧ BytesKeep false a bytes.length s t
        ∧ (∃ o', findOp t f o.id = some o' ∧ o'.prog.flueRow = r + 1
            ∧ (r + 1 = d.rows → o'.phase = .ended) ∧ (r + 1 ≠ d.rows → o'.phase = .running))
        ∧ t.ap = s.ap

/-- TABLE_LOAD and TABLE_LOAD_SWAP (05_flue R117, R118): a load that passes its checks waits for the inactive bank; once no
operation in flight is bound to it, the bank takes the image (or is emptied) and becomes the active one, LOADED_CRC follows,
and the load completes; an image that fails its checks completes with TABLE_IMAGE and the slot as it was. -/
def Obligations.TableLoadSwapsBanks : Prop :=
  (∀ (s u : State) (f : Nat) (o : Op), s.wf = true → beginDispatch f (fun x => x.opcode == 0x10) (flueNeeds s) s = .ok (o, u) →
      let code := windowStep u f o (tableLoadCheck f u o)
      (code = 0 → Ends (.tableLoad f) s fun t => InPhase t f o.id .waiting ∧ t.fl = s.fl ∧ SameBytes s t)
      ∧ (code ≠ 0 → Ends (.tableLoad f) s fun t => Closed t f o.id code ∧ t.fl = s.fl ∧ SameBytes s t))
    ∧ (∀ (s : State) (n f : Nat) (o : Op), s.wf = true → firstOp (pendingLoads s n) = some (f, o) →
      bankBound s n (idleBank s n) = false → awake s (flueNeeds s) = true →
      let a := basinAddr s (furPlot s f) (tlBase o.bytes)
      let b := readMem false s a 4096
      (tlClear o.bytes = true → Ends (.tableLoadSwap n) s fun t =>
          (getTable t n).cur = none ∧ (getTable t n).active = !(getTable s n).active ∧ t.fl.loadedCrc = loadedCrc t
            ∧ (∀ j, j ≠ n → getTable t j = getTable s j) ∧ Closed t f o.id 0 ∧ SameBytes s t)
      ∧ (tlClear o.bytes = false → readBad false s a 4096 = false → tableImageOk b = true → Ends (.tableLoadSwap n) s fun t =>
          (getTable t n).cur = some b ∧ (getTable t n).active = !(getTable s n).active ∧ t.fl.loadedCrc = loadedCrc t
            ∧ (∀ j, j ≠ n → getTable t j = getTable s j) ∧ Closed t f o.id 0 ∧ SameBytes s t)
      ∧ (tlClear o.bytes = false → readBad false s a 4096 = false → tableImageOk b = false → Ends (.tableLoadSwap n) s fun t =>
          t.fl = s.fl ∧ Closed t f o.id rTableImage ∧ SameBytes s t))

/-! ## Sluices and slot transfers -/

/-- SLUICE_MOVE (06_basin_and_sluices R132 to R134): a MOVE whose turn has come, that passes its checks, takes the lowest
free channel and runs; one that fails a check completes with its code. No byte moves yet. -/
def Obligations.MoveTakesChannel : Prop :=
  ∀ (s u : State) (f : Nat) (o : Op), s.wf = true → turnOp s f = some o → badForm o = false →
    (∃ o', beginEngine 6 f (fun x => x.opcode == 0x0A && moveForm x.bytes == 0) (moveNeeds (bytesOfNext s f)) s = .ok (o', u)) →
    let code := windowStep u f o (moveCheck u f o)
    (∀ c, code = 0 → freeChannel u = some c → Ends (.sluiceMove f) s fun t =>
        getChan t c = { busy := true, plot := bv 6 (furPlot s f), furrow := bv 14 f, op := o.id }
          ∧ (∀ k, k ≠ c → getChan t k = getChan s k) ∧ InPhase t f o.id .running ∧ SameBytes s t ∧ t.ap = s.ap)
    ∧ (code ≠ 0 → Ends (.sluiceMove f) s fun t => Closed t f o.id code ∧ SameBytes s t ∧ t.ap = s.ap)

/-- SLUICE_SEGMENT (06_basin_and_sluices R135 to R137): one segment of the MOVE on channel `c`, of as many elements as lie
before the row's end and the next 4 KiB boundary on either side. Its destination takes the converted source bytes: in
Basin or HBM, or as one write to host memory; a host side carries the plot's function and PASID (01_the_tile R16). Every
other byte is as before, and the MOVE's place advances. -/
def Obligations.SegmentMovesBytes : Prop :=
  ∀ (s : State) (c f : Nat) (o : Op) (r : HostResp) (x : Nat), s.wf = true → channelOp s c = some (f, o) →
    awake s (moveNeeds o.bytes) = true → AllGood s →
    let d := sluiceDesc o.bytes
    let p := furPlot s f
    spacesOk d.src d.dst = true → (if o.prog.segElem ≠ 0 then o.prog.row = x else rowStart s p o d o.prog.segRow = .ok x) →
    let sa := spaceAddr s p d.src (rowAt d 1 o.prog.segRow x)
    let da := spaceAddr s p d.dst (rowAt d 2 o.prog.segRow x)
    let n := segLen d sa da o.prog.segElem
    let s0 := sa + o.prog.segElem * d.srcSize
    let d0 := da + o.prog.segElem * d.dstSize
    hostBeyond d s0 d0 (n * d.srcSize) (n * d.dstSize) = false →
    ∀ src, segSource s p d r s0 n = some src →
      let out := (convertRun d src).take (n * d.dstSize)
      Ends (.sluiceSegment c r) s fun t =>
        (d.dst = 0 → t.out = s.out ++ [.hostWrite p (pasidOf s p) d0 out] ∧ SameBytes s t)
          ∧ (d.dst ≠ 0 → readMem (d.dst == 2) t d0 out.length = out ∧ BytesKeep (d.dst == 2) d0 out.length s t
              ∧ t.out = if d.src = 0 then s.out ++ [.hostRead p (pasidOf s p) s0 (n * d.srcSize)] else s.out)
          ∧ (∃ o', findOp t f o.id = some o'
              ∧ (o.prog.segElem + n < d.rowLen → o'.prog.segRow = o.prog.segRow ∧ o'.prog.segElem = o.prog.segElem + n ∧ o'.phase = .running)
              ∧ (d.rowLen ≤ o.prog.segElem + n → o'.prog.segRow = o.prog.segRow + 1 ∧ o'.prog.segElem = 0
                  ∧ (o.prog.segRow + 1 = d.rows → o'.phase = .ended) ∧ (o.prog.segRow + 1 ≠ d.rows → o'.phase = .running)))
          ∧ t.ap = s.ap

/-- A descriptor that cannot be read halts its furrow with FETCH_FAULT, HEAD unchanged: DESCRIPTOR_FETCH and
COMPLETION_TIMEOUT of a ring fetch (07_furrows_and_descriptors Table 7-3; 14_host_port_and_management R322). A host
that answers with an error, a timeout or poison to a snapshot rejects the operation with CBUF_FAULT: SNAPSHOT_TAKEN and
COMPLETION_TIMEOUT of a snapshot. SNAPSHOT_TAKEN (07_furrows_and_descriptors R159): the constant buffer is copied once, the operation may be
dispatched, and LAUNCH_TICKET is its ticket. A host that answers a read segment with an error, a timeout or poison ends the MOVE with HOST_FAULT and no byte written
(06_basin_and_sluices R139): SLUICE_SEGMENT, and COMPLETION_TIMEOUT of a segment. -/
def Obligations.HostAnswersAreTaken : Prop :=
  ((∀ (s : State) (f : Nat) (r : HostResp), s.wf = true → canFetch s f = true → (getFur s f).kind ≠ 2 →
      (∀ b g, hostAnswer s (getFur s f).plot.toNat r ≠ .data b g) →
      Ends (.descriptorFetch f r) s fun t => OnlyAt s t f { getFur s f with state := .halted, haltReason := bv 8 hFetchFault })
    ∧ (∀ (s : State) (f : Nat), s.wf = true → canFetch s f = true → (getFur s f).kind ≠ 2 →
      Ends (.completionTimeout (.ringFetch f)) s fun t =>
        OnlyAt s t f { getFur s f with state := .halted, haltReason := bv 8 hFetchFault })
    ∧ (∀ (s : State) (f : Nat) (r : HostResp), s.wf = true → canFetch s f = true → (getFur s f).kind = 2 →
      readBad false s (innerEntry s f).1 (innerEntry s f).2 = true →
      Ends (.descriptorFetch f r) s fun t =>
        getFur t f = { getFur s f with state := .halted, haltReason := bv 8 hFetchFault } ∧ (∀ g, g ≠ f → getFur t g = getFur s g)
          ∧ SameBytes s t)
    ∧ (∀ (s : State) (f : Nat) (r : HostResp) (o : Op), s.wf = true → (getFur s f).queue.find? (·.phase == .snapshot) = some o →
      (getPlot s (furPlot s f)).state = .live → (∀ b g, hostAnswer s (furPlot s f) r ≠ .data b g) →
      Ends (.snapshotTaken f r) s fun t => Closed t f o.id rCbufFault ∧ SameBytes s t)
    ∧ (∀ (s : State) (f : Nat) (o : Op), s.wf = true → (getFur s f).queue.find? (·.phase == .snapshot) = some o →
      (getPlot s (furPlot s f)).state = .live →
      Ends (.completionTimeout (.snapshot f)) s fun t => Closed t f o.id rCbufFault ∧ SameBytes s t))
    ∧ (∀ (s : State) (f : Nat) (r : HostResp) (o : Op) (b : List Byte) (pages : List Nat), s.wf = true →
    (getFur s f).queue.find? (·.phase == .snapshot) = some o → (getPlot s (furPlot s f)).state = .live →
    hostAnswer s (furPlot s f) r = .data b pages →
    let x := (fetchHost (furPlot s f) (descCbufAddr o.bytes) (descCbufLen o.bytes) b pages s).bytes
    (scuttleUsed s (furPlot s f) = false → x = padTo (descCbufLen o.bytes) b)
      ∧ Ends (.snapshotTaken f r) s fun t =>
      findOp t f o.id = some { o with phase := .accepted, snapTaken := true, snapshot := x }
        ∧ (getFur t f).launchTicket = o.ticket ∧ (∀ g, g ≠ f → getFur t g = getFur s g)
        ∧ t = { s with hg := { s.hg with furrows := t.hg.furrows }, sc := t.sc, out := t.out })
    ∧ (∀ (s : State) (f : Nat) (r : HostResp), (getPlot s (furPlot s f)).state ≠ .live → exec (.snapshotTaken f r) s = .next s)
    ∧ (∀ (s : State) (c f : Nat) (o : Op), s.wf = true → channelOp s c = some (f, o) → awake s (moveNeeds o.bytes) = true →
    (sluiceDesc o.bytes).src = 0 →
    (o.prog.segElem ≠ 0 ∨ ∃ x, rowStart s (furPlot s f) o (sluiceDesc o.bytes) o.prog.segRow = .ok x) →
    (∀ r, (∀ b g, hostAnswer s (furPlot s f) r ≠ .data b g) → Ends (.sluiceSegment c r) s fun t =>
        (∃ o', findOp t f o.id = some o' ∧ o'.phase = .ended ∧ o'.reason = bv 8 rHostFault) ∧ SameBytes s t)
    ∧ Ends (.completionTimeout (.segment c)) s fun t =>
        (∃ o', findOp t f o.id = some o' ∧ o'.phase = .ended ∧ o'.reason = bv 8 rHostFault) ∧ SameBytes s t)

/-- SLOT_READ, SLOT_WRITE, SLOT_SAVE and SLOT_RESTORE (04_ashpan R76, R82 to R90) whose turn has come and that pass their
checks run whole. A read writes every element, the conversion of its entry or of the tree over the partners' entries, and
leaves every entry; a write sets word kind and shape, stores every element converted, leaves the other entries empty, and
the flag tells of a clamp; a save writes the full-width image at its base; a restore takes the image's word kind, shape,
flag and entries. One that fails a check completes with its code, the slots as they were, but for a restore whose header
cannot be read: that slot is zeroed whole. -/
def Obligations.SlotTransfersRun : Prop :=
  ∀ (s u : State) (f : Nat) (o : Op), s.wf = true → AllGood s →
    let begun := fun (form : Nat) => beginEngine (nextDomain s f) f (fun x => x.opcode == 0x0A && moveForm x.bytes == form)
      (slotNeedsNext s f) s = .ok (o, u)
    let d := slotDesc o.bytes
    let p := furPlot s f
    let a := basinAddr s p d.base
    let r := d.out
    let size := (fmtOr r.outFmt).size
    let code := fun check => windowStep u f o (check u f o)
    let cols := (getSlot s d.slot).cols
    let stored := fun m n => storeElem d.word (El.lin ⟨fmtOr d.fmt,
      leNat (readMem false s (basinAddr s p (d.base + m * d.stride + n * (fmtOr d.fmt).size)) (fmtOr d.fmt).size)⟩)
    s.hg.ctxValid = 0 →
    (begun 1 → code slotReadCheck = 0 → isCollective s f = false → Ends (.slotRead f) s fun t =>
        InPhase t f o.id .ended ∧ (∀ n, (getSlot t n).entries = (getSlot s n).entries ∧ (getSlot t n).word = (getSlot s n).word)
          ∧ (r.cols * size ≤ r.outStride ∨ r.rows = 1 → ∀ m n, m < r.rows → n < r.cols →
              readMem false t (outAt s p r m n) size = natLe size (readCode s p r 0xFF [] m n (slotValue s d (m * cols + n))))
          ∧ (∀ y, ¬ Covers s p (readOutRange r) y → ¬ Covers s p (readStatRange r) y → readMem false t y 1 = readMem false s y 1)
          ∧ t.ba.hbm = s.ba.hbm)
    ∧ (begun 2 → code slotWriteCheck = 0 → Ends (.slotWrite f) s fun t =>
        let y := getSlot t d.slot
        InPhase t f o.id .ended ∧ y.word = d.word ∧ y.lanes = bv 2 d.lanes ∧ y.quad = s.he.modeCur ∧ y.lease = some f
          ∧ (∀ m n, m < r.rows → n < r.cols →
              tblGet (entryDef d.word) y.entries (m * y.cols + n) = bv 96 (encodeWord d.word (stored m n).1))
          ∧ (∀ i, (∀ m n, m < r.rows → n < r.cols → i ≠ m * y.cols + n) → tblGet (entryDef d.word) y.entries i = emptyWord d.word)
          ∧ (y.sat = true ↔ ∃ m n, m < r.rows ∧ n < r.cols ∧ (stored m n).2 = true)
          ∧ (∀ n, n ≠ d.slot → getSlot t n = getSlot s n) ∧ SameBytes s t)
    ∧ (begun 3 → code saveCheck = 0 → Ends (.slotSave f) s fun t =>
        InPhase t f o.id .ended ∧ readMem false t a imageSize = slotImage (getSlot s d.slot) ∧ BytesKeep false a imageSize s t
          ∧ (∀ n, getSlot t n = getSlot s n))
    ∧ (begun 4 → code restoreCheck = 0 → Ends (.slotRestore f) s fun t =>
        InPhase t f o.id .ended
          ∧ (∀ x, imageShape (readMem false s a 64) = some x →
              getSlot t d.slot = { x with lease := some f
                                          entries := imageEntries x.word slotEntries (readMem false s (a + 64) (12 * slotEntries)) })
          ∧ (∀ n, n ≠ d.slot → getSlot t n = getSlot s n) ∧ SameBytes s t)
    ∧ (∀ form c check, (form, c, check) ∈ [(2, Instr.slotWrite f, slotWriteCheck), (3, .slotSave f, saveCheck), (4, .slotRestore f, restoreCheck)] →
        begun form → code check ≠ 0 → code check ≠ rHwError → Ends c s fun t =>
          Closed t f o.id (code check) ∧ t.ap = s.ap ∧ SameBytes s t)

/-! ## Firing lists and invocations -/

namespace Sys2Proof.Claims

/-- The image and the batch that an INVOKE of furrow `f` admitted now would join or make: the furrow whose operations its
layers are, and the batch (07_furrows_and_descriptors R167; 11_chimney_firmware R255, R256). -/
def admission (s : State) (f : Nat) (o : Op) (l : FiringList) : Nat × Batch :=
  let d := invokeDesc o.bytes
  let fresh : Batch := { members := [(f, o.id, d.rows)], res := resNow l
                         page := if hdrState l.head = 0 then none else (getPage s d.statePage).map (·.base)
                         pageId := d.statePage }
  match l.opened with
  | some b => if hdrBatchable l.head && hdrState l.head == 0 && decide (b.rows + d.rows ≤ hdrMaxRows l.head) then (b.fur, b) else (f, fresh)
  | none => (f, fresh)

/-- The INVOKE of furrow `f` that CH2 may admit now: the first that waits for its list. -/
def Admissible (s : State) (f : Nat) (o : Op) : Prop :=
  (getFur s f).queue.find? (fun x => x.phase == .waiting && x.opcode == 0x0B && x.prog.pass == 0) = some o
    ∧ (getPlot s (furPlot s f)).state = .live ∧ compRuns s 2 = true ∧ awake s [dFront] = true
    ∧ (nextAdmitted s (furPlot s f) (invokeDesc o.bytes).listId).map (fun x => (x.1, x.2.id)) = some (f, o.id)

/-- A request of plot `p` of a type that firmware serves now, with body `b` (11_chimney_firmware R249, R250). -/
def Served (s : State) (p type : Nat) (plot0 : Bool) (comps needs : List Nat) (b : List Byte) : Prop :=
  requestReady p (fun t => t == type) s = true ∧ (getPlot s p).mail.helloDone = true ∧ (getPlot s p).mail.versionSent = false
    ∧ msgVer (getPlot s p).mail.held = s.ch.mbVer.toNat ∧ (plot0 = true → p = 0) ∧ comps.all (compRuns s) = true
    ∧ awake s needs = true ∧ b = (getPlot s p).mail.held.drop 16 ∧ (getPlot s p).mail.held.length = 16 + b.length

/-- Plot `p`'s request is answered with status `st` and body `b`. -/
def Answered (s t : State) (p st : Nat) (b : List Byte) : Prop :=
  (getPlot t p).mail.pending = false ∧ (getPlot t p).mail.respSeq = (getPlot s p).mail.lastSeq
    ∧ leAt (getPlot t p).mail.respBuf 8 2 = st ∧ leAt (getPlot t p).mail.respBuf 4 2 = b.length
    ∧ ((getPlot t p).mail.respBuf.drop 16).take b.length = b

/-- Plot `p`'s mailbox and notices may change and no other plot register; an interrupt may leave, or wait in the table of
MSI-X vectors. -/
def OnlyMail (s t : State) (p : Nat) : Prop :=
  (∀ q, q ≠ p → getPlot t q = getPlot s q) ∧ (∃ m, getPlot t p = { getPlot s p with mail := m })
    ∧ t = { s with hg := { s.hg with plots := t.hg.plots }, hp := { s.hp with vectors := t.hp.vectors }, out := t.out }

/-- The request is answered and nothing else of the tile changes than that mailbox, and an interrupt may leave. -/
def OnlyAnswered (s t : State) (p st : Nat) (b : List Byte) : Prop := Answered s t p st b ∧ OnlyMail s t p

/-- A list of plot `p` becomes resident at offset `r`, or is released: LEVEL follows by the image's size, and one above MARK
sets NOTICE (06_basin_and_sluices R130). -/
def LevelFollows (s t : State) (p : Nat) (l : FiringList) (up : Bool) : Prop :=
  let k := bv 14 (roundUp (hdrTotal l.head) resUnit / resUnit)
  let lv := if up then (getPlot s p).resLevel + k else (getPlot s p).resLevel - k
  (∃ m, getPlot t p = { getPlot s p with resLevel := lv, mail := m
                                         resNotice := (getPlot s p).resNotice || (up && decide ((getPlot s p).resMark < lv)) })
    ∧ (∀ q, q ≠ p → getPlot t q = getPlot s q)

/-- The room that list `l`'s image would take in its plot's residency region. -/
def roomFor (s : State) (p : Nat) (l : FiringList) : Option Nat := freePlace s p (roundUp (hdrTotal l.head) resUnit)

/-- The bytes of list `l`'s image lie at offset `r` of its plot's Basin window, every other Basin byte and HBM as before. -/
def ImageCopied (s t : State) (p : Nat) (l : FiringList) (r : Nat) : Prop :=
  readMem false t (basinAddr s p r) (hdrTotal l.head) = readMem true s (hbmAddr s p l.base) (hdrTotal l.head)
    ∧ BytesKeep false (basinAddr s p r) (hdrTotal l.head) s t

end Sys2Proof.Claims

/-- INVOKE and INVOKE_ADMIT (07_furrows_and_descriptors R166, R167; 11_chimney_firmware R255): an INVOKE whose turn has come
waits for its admission under the windows that it finds then (09_plots R199); CH2 admits it, bound to the active tables, as
a member of a batch of its list, or completes it with the first code that its own fields, its list or a layer fails under
those windows. No byte of memory changes. -/
def Obligations.InvokeIsAdmitted : Prop :=
  (∀ (s u : State) (f : Nat) (r : List HostResp) (o : Op), s.wf = true → headInvoke s f = none →
      beginDispatch f (fun x => x.opcode == 0x0B) [dFront] s = .ok (o, u) →
      Ends (.invoke f r) s fun t =>
        (∃ x, findOp t f o.id = some x ∧ x.phase = .waiting ∧ x.basinSize = basinWin s (furPlot s f) ∧ x.hbmSize = hbmWin s (furPlot s f))
          ∧ (∀ g, g ≠ f → getFur t g = getFur s g) ∧ SameBytes s t ∧ t.ch = s.ch)
    ∧ (∀ (s : State) (f : Nat) (o : Op), s.wf = true → Admissible s f o → namedList s (furPlot s f) (invokeDesc o.bytes).listId = none →
      Ends (.invokeAdmit f) s fun t => Closed t f o.id (invokeCode s f none o) ∧ SameBytes s t ∧ t.ch = s.ch)
    ∧ (∀ (s : State) (f : Nat) (o : Op) (l : FiringList), s.wf = true → AllGood s → Admissible s f o →
      namedList s (furPlot s f) (invokeDesc o.bytes).listId = some l →
      awake s (if (resNow l).isSome then [dBasin] else [dBasin, dHbm]) = true →
      let w := underWindow l.plot o.basinSize o.hbmSize s
      let own := windowStep s f o (invokeCode w f (some l) o)
      let parts := layersCode w (admission s f o l).1 l (admission s f o l).2
      (own ≠ 0 → Ends (.invokeAdmit f) s fun t => Closed t f o.id own ∧ t.ch.lists = s.ch.lists ∧ SameBytes s t)
      ∧ (own = 0 → parts ≠ 0 → Ends (.invokeAdmit f) s fun t => Closed t f o.id parts ∧ t.ch.lists = s.ch.lists ∧ SameBytes s t)
      ∧ (own = 0 → parts = 0 → Ends (.invokeAdmit f) s fun t =>
          findOp t f o.id = some { o with binds := allBinds s, prog := { o.prog with pass := 1 } }
            ∧ (∃ l', getList t (invokeDesc o.bytes).listId = some l'
                ∧ l' = { l with opened := l'.opened, closed := l'.closed, lastUse := s.hg.nextOp }
                ∧ (∃ b ∈ l'.opened.toList ++ l'.closed, (f, o.id, (invokeDesc o.bytes).rows) ∈ b.members)
                ∧ (hdrBatchable l.head = true → hdrState l.head = 0 → ∀ b, l'.opened = some b → b.rows < hdrMaxRows l.head))
            ∧ (∀ k, k ≠ (invokeDesc o.bytes).listId → getList t k = getList s k)
            ∧ SameBytes s t))

/-- BATCH_CLOSE and INVOKE at the head of a list (07_furrows_and_descriptors R167; 11_chimney_firmware R256): the open batch
whose wait has passed closes behind those that closed before; the invocation at the head runs and every member of its
batch completes; the list's next invocation comes to its head; no other list changes. An invocation of one member runs its
input bindings, then its layers in order, then its output bindings, and completes with the reason of the first that fails,
0 where none does; the bytes are those that these leave. Nothing runs while HG_STOP is taken. -/
def Obligations.HeadInvocationRuns : Prop :=
  ∀ (s : State) (p id : Nat) (r : List HostResp) (l : FiringList), s.wf = true → getList s id = some l → l.plot = p →
    (getPlot s p).state = .live →
    let shuts := l.opened.isSome && compRuns s 2
    let shut : FiringList := { l with closed := l.closed ++ l.opened.toList, opened := none }
    let now := if shuts then shut else l
    let runs := fun (b : Batch) => s.sb.escHgStop = false ∧ s.pi.trip = false ∧ awake s (imageAwake b) = true
      ∧ awake s (batchNeeds s l b) = true ∧ batchFree s l b = true
    let after := fun (b : Batch) (l' : FiringList) (t : State) =>
      (∀ m ∈ b.members, ∃ c, Closed t m.1 m.2.1 c) ∧ (∀ k, k ≠ id → getList t k = getList s k)
        ∧ getList t id = if l.doomed && !l'.inUse then none else some l'
    (shuts = true → s.sb.escHgStop = true → Ends (.batchClose p id r) s fun t => t = setList s id (some shut))
    ∧ (l.closed = [] → shuts = false → exec (.batchClose p id r) s = .next s)
    ∧ (∀ (b : Batch) (rest : List Batch), now.closed = b :: rest → runs b →
        Ends (.batchClose p id r) s (after b { now with closed := rest }))
    ∧ ∀ (b : Batch) (rest : List Batch), l.closed = b :: rest → runs b →
      (∀ f, headInvoke s f = some (id, l) → Ends (.invoke f r) s (after b { l with closed := rest }))
      ∧ (∀ f o k inv, headInvoke s f = some (id, l) → b.members = [(f, o, k)] → findOp s f o = some inv →
          let mem : Member := ⟨f, o, 0, k, 0⟩
          let ins := runBinds l false mem s r
          let run := if ins.reason = 0 then runLayers l b inv ins.s else ins
          let outs := if run.reason = 0 then runBinds l true mem run.s ins.resp else run
          Ends (.invoke f r) s fun t => Closed t f o outs.reason ∧ SameBytes outs.s t)

/-- RESIDENCY_COPY and RESIDENCY_RELEASE (06_basin_and_sluices R129 to R132; 11_chimney_firmware R258): an AUTO list whose
plot's residency region has room, and for whose copy a Sluice channel is free, becomes resident, its image's bytes in Basin,
LEVEL more by its size, above MARK with NOTICE; where there is no room the AUTO list not in use that was invoked least
recently is released for it; where there is none nothing changes. A list that no invocation uses and that is not pinned is
released; a pinned one, or one in use, is not. Nothing happens to a plot that is not LIVE. -/
def Obligations.ResidencyFollowsLists : Prop :=
  (∀ (s : State) (p id : Nat) (l : FiringList), s.wf = true → AllGood s → getList s id = some l → l.plot = p → l.mode = 1 →
      l.doomed = false → l.resident = none → compRuns s 2 = true → awake s copyNeeds = true → (getPlot s p).state = .live →
      (sluiceFree s p = false → exec (.residencyCopy p id) s = .next s)
      ∧ (sluiceFree s p = true →
        (∀ r, roomFor s p l = some r → Ends (.residencyCopy p id) s fun t =>
          getList t id = some { l with resident := some r } ∧ (∀ k, k ≠ id → getList t k = getList s k)
            ∧ ImageCopied s t p l r ∧ LevelFollows s t p l true)
        ∧ (roomFor s p l = none → oldestAuto s p id = none → exec (.residencyCopy p id) s = .next s)
        ∧ (∀ k x r, roomFor s p l = none → oldestAuto s p id = some (k, x) → roomFor (dropResident k x s) p l = some r →
          Ends (.residencyCopy p id) s fun t =>
            getList t id = some { l with resident := some r } ∧ getList t k = some { x with resident := none }
              ∧ (∀ j, j ≠ id → j ≠ k → getList t j = getList s j) ∧ ImageCopied s t p l r)))
    ∧ (∀ (s : State) (p id r : Nat) (l : FiringList), s.wf = true → getList s id = some l → l.plot = p → compRuns s 2 = true →
      (getPlot s p).state = .live → l.resident = some r →
      (l.mode ≠ 2 → l.inUse = false → Ends (.residencyRelease p id) s fun t =>
        getList t id = some { l with resident := none } ∧ (∀ k, k ≠ id → getList t k = getList s k)
          ∧ LevelFollows s t p l false ∧ SameBytes s t)
      ∧ (l.mode = 2 ∨ l.inUse = true → exec (.residencyRelease p id) s = .next s))
    ∧ (∀ (s : State) (p id : Nat), (getPlot s p).state ≠ .live →
      exec (.residencyCopy p id) s = .next s ∧ exec (.residencyRelease p id) s = .next s)

/-- LIST_REGISTER (11_chimney_firmware R253): a request within its ranges whose image passes the checks gets the next
identifier and its list is held as registered; with RESIDE = PIN, once a Sluice channel is free, it is resident too where
its plot's region has room, else the answer is NO_SPACE and the list is not held. A request out of its ranges answers BAD_ARG,
an image that fails a check INVALID_LIST, a 65th list NO_SPACE. -/
def Obligations.ListRegisters : Prop :=
  ∀ (s : State) (p : Nat) (b : List Byte), s.wf = true → AllGood s → Served s p 0x0020 false [2] copyNeeds b → b.length = 16 →
    let off := leAt b 0 8
    let work := leAt b 8 4
    let mode := leAt b 12 1
    let h := readMem true s (hbmAddr s p off) 64
    let img := readMem true s (hbmAddr s p off) (hdrTotal h)
    let ranges := mode ≤ 2 ∧ leAt b 14 2 ≤ 1000 ∧ off % 64 = 0 ∧ off + 64 ≤ hbmWin s p
    let sound := off + hdrTotal h ≤ hbmWin s p ∧ imageListOk s work img = true
    let free := bufferFree s p ⟨work, hdrBuf h⟩ = true
    let made : FiringList := { plot := p, head := img.take (64 + 32 * hdrNio h), base := off, workBase := work, waitUs := leAt b 14 2
                               mode := mode, resident := none, opened := none, closed := [], lastUse := 0, doomed := false }
    (¬ ranges → Ends (.listRegister p) s fun t => OnlyAnswered s t p stBadArg [])
    ∧ (ranges → headOk h = false → Ends (.listRegister p) s fun t => OnlyAnswered s t p stInvalidList [])
    ∧ (ranges → headOk h = true → hbmWin s p < off + hdrTotal h → Ends (.listRegister p) s fun t => OnlyAnswered s t p stBadArg [])
    ∧ (ranges → headOk h = true → off + hdrTotal h ≤ hbmWin s p → imageListOk s work img = false →
        Ends (.listRegister p) s fun t => OnlyAnswered s t p stInvalidList [])
    ∧ (ranges → headOk h = true → sound → ¬ free → Ends (.listRegister p) s fun t => OnlyAnswered s t p stBadArg [])
    ∧ (ranges → headOk h = true → sound → free → 64 ≤ (listsOf s p).length →
        Ends (.listRegister p) s fun t => OnlyAnswered s t p stNoSpace [])
    ∧ (ranges → headOk h = true → sound → free → (listsOf s p).length < 64 →
      (mode ≠ 2 → Ends (.listRegister p) s fun t =>
        Answered s t p stOk (natLe 4 s.ch.nextList) ∧ t.ch.nextList = s.ch.nextList + 1 ∧ SameBytes s t
          ∧ getList t s.ch.nextList = some made ∧ (∀ k, k ≠ s.ch.nextList → getList t k = getList s k))
      ∧ (mode = 2 → sluiceFree s p = false → exec (.listRegister p) s = .next s)
      ∧ (mode = 2 → sluiceFree s p = true →
        let s0 := setList s s.ch.nextList none
        (∀ r, roomFor s0 p made = some r → Ends (.listRegister p) s fun t =>
          Answered s t p stOk (natLe 4 s.ch.nextList) ∧ getList t s.ch.nextList = some { made with resident := some r }
            ∧ (∀ k, k ≠ s.ch.nextList → getList t k = getList s k) ∧ ImageCopied s t p made r)
        ∧ (roomFor s0 p made = none → Ends (.listRegister p) s fun t =>
          Answered s t p stNoSpace [] ∧ getList t s.ch.nextList = none
            ∧ (∀ k, k ≠ s.ch.nextList → getList t k = getList s k) ∧ SameBytes s t)))

/-- LIST_UNREGISTER, LIST_RESIDE, STATE_CREATE and STATE_DESTROY (11_chimney_firmware R251, R257, R258): a list that nothing
uses goes, with its residency, and the INVOKEs that waited for it complete with LIST; one that an invocation uses is
withdrawn, and the response waits; RESIDE changes, and PIN makes the list resident or answers NO_SPACE; a state page of
the list's STATE_SIZE is made under the next identifier where its range is free, else BAD_ARG, and goes when no invocation
uses it, until then the response waits. An identifier that is not the plot's answers NOT_FOUND. -/
def Obligations.ListRequestsServed : Prop :=
  (∀ (s : State) (p : Nat) (b : List Byte) (l : FiringList), s.wf = true → Served s p 0x0021 false [2] [dFront] b → b.length = 4 →
      (getPlot s p).mail.begun = false → namedList s p (leAt b 0 4) = some l →
      (l.inUse = false → Ends (.listUnregister p) s fun t =>
        getList t (leAt b 0 4) = none ∧ Answered s t p stOk [] ∧ (∀ k, k ≠ leAt b 0 4 → getList t k = getList s k)
          ∧ (∀ x ∈ unadmitted s p (leAt b 0 4), Closed t x.1 x.2.id rList) ∧ SameBytes s t)
      ∧ (l.inUse = true → Ends (.listUnregister p) s fun t =>
        (∃ l', getList t (leAt b 0 4) = some l' ∧ l' = { l with doomed := true, opened := l'.opened, closed := l'.closed }
            ∧ l'.closed = l.closed.take 1)
          ∧ (getPlot t p).mail.pending = true ∧ (getPlot t p).mail.begun = true
          ∧ (∀ x ∈ unadmitted s p (leAt b 0 4), Closed t x.1 x.2.id rList) ∧ SameBytes s t))
    ∧ (∀ (s : State) (p : Nat) (b : List Byte) (l : FiringList), s.wf = true → Served s p 0x0022 false [2] [dFront] b → b.length = 5 →
      namedList s p (leAt b 0 4) = some l →
      (2 < leAt b 4 1 → Ends (.listReside p) s fun t => OnlyAnswered s t p stBadArg [])
      ∧ (leAt b 4 1 ≤ 2 → (leAt b 4 1 ≠ 2 ∨ l.resident ≠ none) → Ends (.listReside p) s fun t =>
        getList t (leAt b 0 4) = some { l with mode := leAt b 4 1 } ∧ (∀ k, k ≠ leAt b 0 4 → getList t k = getList s k)
          ∧ Answered s t p stOk [] ∧ SameBytes s t)
      ∧ (leAt b 4 1 = 2 → l.resident = none → AllGood s → awake s copyNeeds = true → sluiceFree s p = true →
        (∀ r, roomFor s p l = some r → Ends (.listReside p) s fun t =>
          getList t (leAt b 0 4) = some { l with mode := 2, resident := some r } ∧ Answered s t p stOk [] ∧ ImageCopied s t p l r)
        ∧ (roomFor s p l = none → Ends (.listReside p) s fun t => OnlyAnswered s t p stNoSpace [])))
    ∧ (∀ (s : State) (p : Nat) (b : List Byte) (l : FiringList), s.wf = true → Served s p 0x0030 false [2] [dFront] b → b.length = 8 →
      namedList s p (leAt b 0 4) = some l →
      let free := hdrState l.head ≠ 0 ∧ leAt b 4 4 % 64 = 0 ∧ bufferFree s p ⟨leAt b 4 4, hdrState l.head⟩ = true
      (free → (pagesOf s p).length < 4096 → Ends (.stateCreate p) s fun t =>
        getPage t s.ch.nextPage = some { plot := p, base := leAt b 4 4, size := hdrState l.head, list := leAt b 0 4 }
          ∧ (∀ k, k ≠ s.ch.nextPage → getPage t k = getPage s k)
          ∧ t.ch.nextPage = s.ch.nextPage + 1 ∧ Answered s t p stOk (natLe 4 s.ch.nextPage) ∧ SameBytes s t)
      ∧ (free → 4096 ≤ (pagesOf s p).length → Ends (.stateCreate p) s fun t => OnlyAnswered s t p stNoSpace [])
      ∧ (¬ free → Ends (.stateCreate p) s fun t => OnlyAnswered s t p stBadArg []))
    ∧ (∀ (s : State) (p : Nat) (b : List Byte) (g : StatePage), s.wf = true → Served s p 0x0031 false [2] [dFront] b → b.length = 4 →
      getPage s (leAt b 0 4) = some g → g.plot = p →
      (pageInUse s (leAt b 0 4) = false → Ends (.stateDestroy p) s fun t =>
        getPage t (leAt b 0 4) = none ∧ (∀ k, k ≠ leAt b 0 4 → getPage t k = getPage s k) ∧ Answered s t p stOk [] ∧ SameBytes s t)
      ∧ (pageInUse s (leAt b 0 4) = true → exec (.stateDestroy p) s = .next s))
    ∧ (∀ (s : State) (p : Nat) (b : List Byte), s.wf = true →
      (Served s p 0x0021 false [2] [dFront] b → b.length = 4 → (getPlot s p).mail.begun = false → namedList s p (leAt b 0 4) = none →
        Ends (.listUnregister p) s fun t => OnlyAnswered s t p stNotFound [])
      ∧ (Served s p 0x0022 false [2] [dFront] b → b.length = 5 → namedList s p (leAt b 0 4) = none →
        Ends (.listReside p) s fun t => OnlyAnswered s t p stNotFound [])
      ∧ (Served s p 0x0030 false [2] [dFront] b → b.length = 8 → namedList s p (leAt b 0 4) = none →
        Ends (.stateCreate p) s fun t => OnlyAnswered s t p stNotFound [])
      ∧ (Served s p 0x0031 false [2] [dFront] b → b.length = 4 → (∀ g, getPage s (leAt b 0 4) = some g → g.plot ≠ p) →
        Ends (.stateDestroy p) s fun t => OnlyAnswered s t p stNotFound []))

/-! ## The mailbox and the cores -/

/-- MB_REQ_DB (11_chimney_firmware R249): a doorbell with the last SEQ changes nothing; one while a request other than a HELLO
would overrun a held request sets OVERRUN; any other copies the request, holds it and takes its SEQ. HELLO, QUERY_CAPS, and types that Table 11-8 does not list (11_chimney_firmware R250, R251): HELLO answers OK where MB_VER
lies in the driver's range, else VERSION, and sets HELLO_DONE; QUERY_CAPS answers the capability words and PI_SERVICE;
an unknown type answers BAD_TYPE. -/
def Obligations.MailboxTakesAndAnswers : Prop :=
  (∀ (s : State) (p : Nat) (seq : BitVec 16), s.wf = true → s.hp.up = true → pageOpen s p = true →
    let m := (getPlot s p).mail
    (seq = m.lastSeq → exec (.mbReqDb p seq) s = .next s)
    ∧ (seq ≠ m.lastSeq → m.pending = true → msgType m.reqBuf ≠ 1 → Ends (.mbReqDb p seq) s fun t =>
        getPlot t p = { getPlot s p with mail := { m with overrun := true } } ∧ (∀ q, q ≠ p → getPlot t q = getPlot s q)
          ∧ t = { s with hg := { s.hg with plots := t.hg.plots } })
    ∧ (seq ≠ m.lastSeq → (m.pending = false ∨ msgType m.reqBuf = 1) → Ends (.mbReqDb p seq) s fun t =>
        getPlot t p = { getPlot s p with mail := { m with held := padTo (min bufSize (16 + msgLen m.reqBuf)) m.reqBuf, pending := true
                                                          begun := false, lastSeq := seq } }
          ∧ (∀ q, q ≠ p → getPlot t q = getPlot s q)
          ∧ ∃ ws, t = { s with hg := { s.hg with plots := t.hg.plots }, pi := { s.pi with waking := ws } }))
    ∧ ((∀ (s : State) (p : Nat), s.wf = true → requestReady p (fun t => t == 1) s = true →
      let b := (getPlot s p).mail.held.drop 16
      let ok := decide (leAt b 0 2 ≤ s.ch.mbVer.toNat) && decide (s.ch.mbVer.toNat ≤ leAt b 2 2)
      Ends (.hello p) s fun t =>
        OnlyAnswered s t p (if ok then stOk else stVersion) (natLe 2 s.ch.mbVer.toNat ++ natLe 1 p ++ [0] ++ natLe 4 s.ch.imageVer.toNat)
          ∧ (getPlot t p).mail.helloDone = true ∧ (getPlot t p).mail.versionSent = !ok)
    ∧ (∀ (s : State) (p : Nat) (b : List Byte), s.wf = true → Served s p 0x0002 false [] [] b → b.length = 0 →
      Ends (.queryCaps p) s fun t =>
        OnlyAnswered s t p stOk (natLe 4 (heCap s) ++ natLe 4 (apCap s) ++ natLe 4 (flCap s) ++ natLe 4 (scCap s) ++ natLe 8 (baCap s)
          ++ natLe 8 (baSize s) ++ natLe 4 s.pi.service.toNat))
    ∧ (∀ (s : State) (p : Nat), s.wf = true → requestReady p (fun t => !typeKnown t) s = true → (getPlot s p).mail.helloDone = true →
      (getPlot s p).mail.versionSent = false → msgVer (getPlot s p).mail.held = s.ch.mbVer.toNat →
      Ends (.badTypeRequest p) s fun t => OnlyAnswered s t p stBadType [])
    ∧ (∀ (s : State) (p : Nat), s.wf = true → (getPlot s p).mail.helloDone = false →
      (requestReady p (fun t => t == 2) s = true → Ends (.queryCaps p) s fun t => OnlyAnswered s t p stNoHello [])
      ∧ (requestReady p (fun t => !typeKnown t) s = true → Ends (.badTypeRequest p) s fun t => OnlyAnswered s t p stNoHello [])))

/-- ARM_FURROW, DISARM_FURROW, SCHED_SET, CORE_RESTART and SVN_COMMIT (11_chimney_firmware R244, R251): the request's own effect
and its answer OK. SCHED_SET is answered once its COMMIT clears. SVN_COMMIT raises MIN_SVN to the running image's SVN where
that is greater, and never lowers it. -/
def Obligations.ControlRequestsServed : Prop :=
  (∀ (s : State) (p f : Nat) (b : List Byte), s.wf = true → Served s p 0x0010 false [1] [dFront] b → b.length = 24 →
      globalFur s p (leAt b 0 2) = some f → (getFur s f).arm = false → leAt b 3 1 < 32 → leAt b 8 8 % 4096 = 0 → leAt b 16 8 < 2 ^ 48 →
      (leAt b 2 1 = 0 ∨ leAt b 2 1 = 2 ∨ armKind p (leAt b 0 2) (leAt b 2 1) = 1) →
      let y := { getFur s f with base := bv 52 (leAt b 8 8 / 4096), sizeLog2 := bv 5 (leAt b 3 1)
                                 kind := bv 2 (armKind p (leAt b 0 2) (leAt b 2 1)), head := bv 16 (leAt b 4 2), last := bv 48 (leAt b 16 8) }
      let r := armRefused (setFur s f y) f || y.draining
      Ends (.armFurrow p) s fun t =>
        getFur t f = (if r then { y with armRefused := true } else armedFurrow y) ∧ (∀ g, g ≠ f → getFur t g = getFur s g)
          ∧ Answered s t p (if r then stDenied else stOk) [] ∧ SameBytes s t)
    ∧ (∀ (s : State) (p f : Nat) (b : List Byte), s.wf = true → Served s p 0x0011 false [1] [dFront] b → b.length = 2 →
      globalFur s p (leAt b 0 2) = some f →
      Ends (.disarmFurrow p) s fun t =>
        (getFur t f).arm = false ∧ (∀ g, g ≠ f → getFur t g = getFur s g) ∧ Answered s t p stOk [] ∧ SameBytes s t)
    ∧ (∀ (s : State) (b : List Byte), s.wf = true → Served s 0 0x0042 true [1] [dFront] b → b.length = 6 →
      ((getPlot s 0).mail.begun = false → leAt b 0 1 < 64 → Ends (.schedSet 0) s fun t =>
        (getPlot t (leAt b 0 1)).sharePend = bv 8 (leAt b 2 1)
          ∧ (getPlot t (leAt b 0 1)).slicePend = bv 13 (max 4 (min 8000 (leAt b 4 2)))
          ∧ t.hg.commit = true ∧ (getPlot t 0).mail.pending = true ∧ (getPlot t 0).mail.begun = true ∧ SameBytes s t)
      ∧ ((getPlot s 0).mail.begun = true → s.hg.commit = false → Ends (.schedSet 0) s fun t => OnlyAnswered s t 0 stOk []))
    ∧ (∀ (s : State) (b : List Byte), s.wf = true → Served s 0 0x0040 true [] [] b → b.length = 1 → 1 ≤ leAt b 0 1 → leAt b 0 1 ≤ 3 →
      (getCore s (leAt b 0 1)).state = .running → Ends (.coreRestart 0) s fun t =>
        getCore t (leAt b 0 1) = { getCore s (leAt b 0 1) with state := .restarting, lastCause := 2, wdogArmed := false }
          ∧ (∀ c, c ≠ leAt b 0 1 → getCore t c = getCore s c) ∧ Answered s t 0 stOk [] ∧ SameBytes s t)
    ∧ (∀ (s : State) (b : List Byte), s.wf = true → Served s 0 0x0041 true [] [] b → b.length = 0 →
      let m := if s.ch.minSvn < s.ch.svn then s.ch.svn else s.ch.minSvn
      Ends (.svnCommit 0) s fun t => t.ch = { s.ch with minSvn := m } ∧ Answered s t 0 stOk (natLe 4 m.toNat) ∧ SameBytes s t)

/-- CORE_RESTART_CMD, WDOG_EXPIRY, UNHANDLED_TRAP and CORE_RESTART_DONE (11_chimney_firmware R245, R246, R252;
08_headgate_and_stokers R191; 15_reset_and_bringup R334): a running core stops with its cause, but while a warm reset runs,
which restarts every core; after its compartment is checked it runs again, RESTARTS one more, its scratch area zero; where it
runs CH2's component the registrations that it could not rebuild are gone, each with a LIST_LOST notice, and no other; where
it runs CH1's every gauge at or above the threshold is reported. A compartment that does not match stops the core with
CODE_BAD and source 49. WDOG_PET starts the watchdog's period again. -/
def Obligations.CoresRestart : Prop :=
  (∀ (s : State) (a : Agent) (v : BitVec 32), s.wf = true → Permits s a .coreCtl 0xB00010 4 →
      Ends (.coreRestartCmd a v) s fun t =>
        (∀ c, 1 ≤ c → c ≤ 3 → v.getLsbD c = true → (getCore s c).state = .running → s.pi.warmDue = false →
            getCore t c = { getCore s c with state := .restarting, lastCause := 2, wdogArmed := false })
          ∧ (∀ c, c = 0 ∨ 3 < c ∨ v.getLsbD c = false ∨ (getCore s c).state ≠ .running ∨ s.pi.warmDue = true → getCore t c = getCore s c)
          ∧ t = { s with ch := { s.ch with cores := t.ch.cores } })
    ∧ (∀ (s : State) (a : Agent) (c : Nat), s.wf = true → c < 4 → Permits s a (.wdogPet c) (0xB00108 + 0x10 * c) 4 →
      Ends (.wdogPet a c) s fun t =>
        getCore t c = { getCore s c with wdogStart := s.pi.time } ∧ (∀ k, k ≠ c → getCore t k = getCore s k)
          ∧ t = { s with ch := { s.ch with cores := t.ch.cores } })
    ∧ (∀ (s : State) (c : Nat), s.wf = true → (getCore s c).state = .running → s.pi.warmDue = false →
      let stopped := fun (cause : BitVec 3) (t : State) =>
        getCore t c = { getCore s c with state := .restarting, lastCause := cause, wdogArmed := false }
          ∧ (∀ k, k ≠ c → getCore t k = getCore s k) ∧ (getSrc t 47).events = incHold (getSrc s 47).events
          ∧ t.sb.status.getLsbD 47 = (s.sb.status.getLsbD 47 || decide ((getSrc s 47).chan ≠ 0)) ∧ t.hg = s.hg ∧ SameBytes s t
      ((getCore s c).wdogArmed = true → (getCore s c).wdogMs ≠ 0 → Ends (.wdogExpiry c) s (stopped 1))
      ∧ ((getCore s c).wdogArmed = false ∨ (getCore s c).wdogMs = 0 → exec (.wdogExpiry c) s = .next s)
      ∧ Ends (.unhandledTrap c) s (stopped 4))
    ∧ (∀ (s : State) (c : Nat) (lost : List Nat), s.pi.warmDue = true →
      exec (.wdogExpiry c) s = .next s ∧ exec (.unhandledTrap c) s = .next s ∧ exec (.coreRestartDone ⟨c, lost⟩) s = .next s)
    ∧ (∀ (s : State) (c : Nat) (lost : List Nat), s.wf = true → (getCore s c).state = .restarting → s.pi.warmDue = false →
      s.ch.markDue = [] →
      ((compsOf s c).all (codeOk s) = true → Ends (.coreRestartDone ⟨c, lost⟩) s fun t =>
        (getCore t c).state = .running ∧ (getCore t c).restarts = incHold (getCore s c).restarts ∧ (getCore t c).wdogArmed = true
          ∧ (getCore t c).wdogStart = s.pi.time
          ∧ (∀ k ∈ compsOf s c, ∀ a, (dataRegion k).1 + (dataRegion k).2 / 2 ≤ a → a < (dataRegion k).1 + (dataRegion k).2 →
              tblGet memDefault t.ch.sram a = 0)
          ∧ (∀ id l, getList s id = some l → l.doomed = false → l.inUse = false → 2 ∈ compsOf s c → id ∈ lost → getList t id = none)
          ∧ (∀ id, 2 ∉ compsOf s c ∨ id ∉ lost → getList t id = getList s id)
          ∧ (1 ∈ compsOf s c → s.hg.gaugeEn = true → ∀ f, (getFur s f).alloc = true →
              (getFur t f).reported = decide (stallN s ≤ (getFur s f).slicesIdle.toNat))
          ∧ (s.ch.modeSeq = none → t.ba.basin = s.ba.basin) ∧ t.ba.hbm = s.ba.hbm)
      ∧ (∀ id l, compsOf s c = [2] → codeOk s 2 = true → lost = [id] → getList s id = some l → l.doomed = false →
          coreIn s c = true → s.ch.noticeDue = [] → (getPlot s l.plot).mail.ntcHead = (getPlot s l.plot).mail.ntcTail →
          Ends (.coreRestartDone ⟨c, lost⟩) s fun t =>
            let q := (getPlot s l.plot).mail.ntcTail
            tblGet ringDef (getPlot t l.plot).mail.ntcRing (q.toNat % 32) = noticeBytes s 0x8002 q (natLe 4 id))
      ∧ ((compsOf s c).all (codeOk s) = false → Ends (.coreRestartDone ⟨c, lost⟩) s fun t =>
        (getCore t c).state = .stopped ∧ (getCore t c).codeBad = true ∧ (getSrc t 49).events = incHold (getSrc s 49).events
          ∧ SameBytes s t))

/-- PERSISTENT_RECORD_WRITE (11_chimney_firmware R259 to R261; 12_smokebox R279, R280): a wanted record, or one that follows a
change of the calibration values, whose write verifies goes to the bank that does not hold the newest, which becomes the
newest, SEQ one more than the last, with the calibration in force, and a snapshot of the record memory that was not copied
as its newest; the other bank and the slots stay. One that verifies on neither try leaves the newest record in force and sets
WRITE_FAIL; without VFLASH flash keeps its content. A corrected read of a snapshot that was not copied only counts; an
uncorrectable one sets source 63, and it is not copied. -/
def Obligations.RecordAlternatesBanks : Prop :=
  (∀ (s : State) (found : ScrubFind) (cal : Option (List Byte)) (ok1 ok2 : Bool), s.wf = true →
    (s.ch.recordWant = true ∨ cal ≠ none) → compRuns s 0 = true → awake s [dChimney] = true →
    (newestBank s = none ∨ (if s.ch.newest then s.ch.validB else s.ch.validA) = true) →
    let b := targetBank s
    let seq := match newestBank s with | some _ => s.ch.recSeq.toNat + 1 | none => 1
    let r := readRecordMem found (takeCalibration cal s)
    (s.pins.vflash = true → (ok1 || ok2) = true → Ends (.persistentRecordWrite ⟨found, cal⟩ ok1 ok2) s fun t =>
        newestBank t = some b ∧ t.ch.recSeq = bv 32 seq ∧ t.ch.recordWant = false
          ∧ readFlash t (bankBase b) 65536 = recordBytes r seq
          ∧ (∀ c, cal = some c → c.length = 8192 → t.ch.calib = some c ∧ readFlash t (bankBase b + 17408) 8192 = c)
          ∧ (∀ q, newSnap s = some q → found ≠ .uncorrectable →
              readFlash t (bankBase b + 1024) 4096 = memRead memDefault s.sb.recMem 0 4096 ∧ t.ch.lastSnapCopied = q)
          ∧ (∀ a, a < bankBase b ∨ bankBase b + 65536 ≤ a → tblGet flashDefault t.flash a = tblGet flashDefault s.flash a)
          ∧ t.ba = s.ba ∧ t.hg = s.hg ∧ t.sb = r.sb)
    ∧ (s.pins.vflash = true → (ok1 || ok2) = false → Ends (.persistentRecordWrite ⟨found, cal⟩ ok1 ok2) s fun t =>
        t.ch.writeFail = true ∧ t.ch.recordWant = false ∧ t.ch.recSeq = s.ch.recSeq ∧ newestBank t = newestBank s
          ∧ (∀ a, a < bankBase b ∨ bankBase b + 0x10000 ≤ a → tblGet flashDefault t.flash a = tblGet flashDefault s.flash a)
          ∧ t.ba = s.ba)
    ∧ (s.pins.vflash = false → Ends (.persistentRecordWrite ⟨found, cal⟩ ok1 ok2) s fun t =>
        t.ch.writeFail = true ∧ t.ch.recordWant = false ∧ t.ch.recSeq = s.ch.recSeq ∧ newestBank t = newestBank s
          ∧ t.flash = s.flash ∧ t.ba = s.ba))
    ∧ (∀ s : State, s.wf = true → (∀ found, newSnap s = none → readRecordMem found s = s)
      ∧ (∀ q, newSnap s = some q →
        readRecordMem .clean s = s
          ∧ readRecordMem .corrected s = { s with sb := { s.sb with recCorr := incHold s.sb.recCorr } }
          ∧ (getSrc (readRecordMem .uncorrectable s) 63).events = incHold (getSrc s 63).events
          ∧ (readRecordMem .uncorrectable s).sb.status.getLsbD 63 = decide ((getSrc s 63).chan ≠ 0)
          ∧ (readRecordMem .uncorrectable s).ch.lastSnapCopied = q
          ∧ SameBytes s (readRecordMem .uncorrectable s)))

/-! ## Plots, the governor's limits -/

namespace Sys2Proof.Claims

/-- It is the turn of a PLOT_CTL of furrow `f` whose OP is `op`. -/
def PlotTurn (s : State) (f op : Nat) (o : Op) (u : State) : Prop :=
  beginDispatch f (fun o => o.opcode == 0x11 && ((plotCtl o.bytes).op == op
      || !(decide (1 ≤ (plotCtl o.bytes).op) && decide ((plotCtl o.bytes).op ≤ 5)))) [dFront] s = .ok (o, u)
    ∧ (plotCtl o.bytes).op = op

/-- Bytes that lie in the new window of a plot and not in its old one read 0; every other byte reads as before. -/
def Entered (unit ob os nb ns : Nat) (m m' : Memory) : Prop :=
  ∀ x, tblGet memDefault m' x
    = (if (nb * unit ≤ x ∧ x < (nb + ns) * unit) ∧ ¬ (ob * unit ≤ x ∧ x < (ob + os) * unit) then 0 else tblGet memDefault m x)

end Sys2Proof.Claims

/-- PLOT_CREATE, PLOT_ASSIGN and PLOT_TEARDOWN (09_plots R195, R196, R207). CREATE makes a plot in NONE LIVE with the body's
configuration, EPOCH 0, its furrows joined with zero completion entries, its events 0, its slots zeroed without a holder.
ASSIGN gives the new configuration; furrows and slots that join are fresh, the leases of furrows that leave end
(04_ashpan R80), event counters past EVT_COUNT are 0.
TEARDOWN leaves the plot in NONE, without furrows, slots, lists or windows, its slots zeroed without a holder; of a plot in
NONE it only completes. One that fails its conditions changes nothing. -/
def Obligations.PlotsAreMadeAndUnmade : Prop :=
  (∀ (s u : State) (f : Nat) (o : Op), s.wf = true → PlotTurn s f 1 o u →
      let c := plotCtl o.bytes
      ((c.plot ≠ 0 ∧ (getPlot s c.plot).state = .none ∧ rangesOk s c = true) → Ends (.plotCreate f) s fun t =>
        getPlot t c.plot = { setConfig c (getPlot s c.plot) with epoch := 0, mail := {}, state := .live }
          ∧ (∀ q, q ≠ c.plot → getPlot t q = getPlot s q)
          ∧ (∀ i, i < c.furCount → c.furFirst + i ≠ f →
              getFur t (c.furFirst + i) = joinFurrow c.plot i 0 (getFur s (c.furFirst + i)))
          ∧ (∀ e, e < 1024 → getEvent t c.plot e = 0)
          ∧ (∀ n, getSlot t n = if n < 16 ∧ c.slotMask.getLsbD n = true
              then { zeroSlot s.he.modeCur (getSlot s n) with lease := none } else getSlot s n)
          ∧ Closed t f o.id 0 ∧ SameBytes s t)
      ∧ (¬ (c.plot ≠ 0 ∧ (getPlot s c.plot).state = .none ∧ rangesOk s c = true) → Ends (.plotCreate f) s fun t =>
        Closed t f o.id rFieldRange ∧ OnlyFurrow s t f o.id))
    ∧ (∀ (s u : State) (f : Nat) (o : Op), s.wf = true → PlotTurn s f 4 o u →
      let c := plotCtl o.bytes
      let x := getPlot s c.plot
      let keep := if c.furFirst = x.furFirst.toNat then min x.furCount.toNat c.furCount else 0
      let left := fun g => decide (x.furFirst.toNat + keep ≤ g) && decide (g < x.furFirst.toNat + x.furCount.toNat)
      (assignCheck s c = true → Ends (.plotAssign f) s fun t =>
        getPlot t c.plot = setConfig c x ∧ (∀ q, q ≠ c.plot → getPlot t q = getPlot s q)
          ∧ (∀ i, keep ≤ i → i < c.furCount → c.furFirst + i ≠ f →
              getFur t (c.furFirst + i) = joinFurrow c.plot i x.epoch (getFur s (c.furFirst + i)))
          ∧ (∀ i, keep ≤ i → i < x.furCount.toNat → x.furFirst.toNat + i ≠ f →
              (x.furFirst.toNat + i < c.furFirst ∨ c.furFirst + c.furCount ≤ x.furFirst.toNat + i) →
              getFur t (x.furFirst.toNat + i) = leaveFurrow (getFur s (x.furFirst.toNat + i)))
          ∧ (∀ e, e < 1024 → getEvent t c.plot e = if e < c.evtCount then getEvent s c.plot e else 0)
          ∧ (∀ n, getSlot t n = if n < 16 ∧ c.slotMask.getLsbD n = true ∧ x.slotMask.getLsbD n = false
              then { zeroSlot s.he.modeCur (getSlot s n) with lease := none }
              else if n < 16 ∧ (getSlot s n).lease.any left = true then { getSlot s n with lease := none } else getSlot s n)
          ∧ (∀ n, n < 16 → (getSlot s n).lease.any left = true → t.hg.ctxValid.getLsbD n = false)
          ∧ Closed t f o.id 0 ∧ SameBytes s t)
      ∧ (assignCheck s c = false → Ends (.plotAssign f) s fun t => Closed t f o.id rFieldRange ∧ OnlyFurrow s t f o.id))
    ∧ (∀ (s u : State) (f : Nat) (o : Op), s.wf = true → PlotTurn s f 3 o u →
      let p := (plotCtl o.bytes).plot
      let x := getPlot s p
      (p ≠ 0 → x.state = .none → Ends (.plotTeardown f) s fun t => Closed t f o.id 0 ∧ OnlyFurrow s t f o.id)
      ∧ (p ≠ 0 → x.state ≠ .none → Ends (.plotTeardown f) s fun t =>
        ((getPlot t p).state = .none ∧ (getPlot t p).furCount = 0 ∧ (getPlot t p).slotMask = 0 ∧ (getPlot t p).evtCount = 0
            ∧ (getPlot t p).basinSize = 0 ∧ (getPlot t p).resSize = 0 ∧ (getPlot t p).hbmSize = 0)
          ∧ (∀ q, q ≠ p → getPlot t q = getPlot s q)
          ∧ (∀ i, i < x.furCount.toNat → x.furFirst.toNat + i ≠ f →
              (getFur t (x.furFirst.toNat + i)).alloc = false ∧ (getFur t (x.furFirst.toNat + i)).state = .unarmed
                ∧ (getFur t (x.furFirst.toNat + i)).queue = [])
          ∧ (∀ n, n < 16 → x.slotMask.getLsbD n = true →
              getSlot t n = { zeroSlot s.he.modeCur (getSlot s n) with lease := none } ∧ t.hg.ctxValid.getLsbD n = false)
          ∧ (∀ id l, getList t id = some l → l.plot ≠ p)
          ∧ Closed t f o.id 0))

/-- PLOT_RESET and PLOT_QUARANTINE (09_plots R203, R204, R206). A reset plot is LIVE, EPOCH and RESETS one more, its mailbox
empty, its events 0, its lists gone, its slots zeroed without a holder and without a valid record, its furrows unarmed
and empty with HEAD and LAST as they were; while a warm reset runs it joins that (15_reset_and_bringup R334). A quarantined
plot has no operation on an engine and no channel. A RESET of a plot in NONE, a QUARANTINE of one that is not LIVE, only
completes (logs 45, 47: the model's choice). No other plot's configuration changes. -/
def Obligations.PlotsResetAndQuarantine : Prop :=
  (∀ (s u : State) (f : Nat) (o : Op), s.wf = true → PlotTurn s f 2 o u →
      let p := (plotCtl o.bytes).plot
      let x := getPlot s p
      (p ≠ 0 → (x.state = .none ∨ s.pi.warmDue = true) → Ends (.plotReset f) s fun t => Closed t f o.id 0 ∧ OnlyFurrow s t f o.id)
      ∧ (p ≠ 0 → x.state ≠ .none → s.pi.warmDue = false → Ends (.plotReset f) s fun t =>
        getPlot t p = { x with state := .live, epoch := x.epoch + 1, resets := incHold x.resets, mail := {}, resLevel := 0
                               resNotice := false, flrHeld := false }
          ∧ (∀ q, q ≠ p → getPlot t q = getPlot s q)
          ∧ (∀ i, i < x.furCount.toNat → x.furFirst.toNat + i ≠ f →
              let y := getFur t (x.furFirst.toNat + i)
              let z := getFur s (x.furFirst.toNat + i)
              y.state = .unarmed ∧ y.arm = false ∧ y.queue = [] ∧ y.epoch = z.epoch + 1 ∧ y.head = z.head ∧ y.last = z.last
                ∧ y.doneTicket = BitVec.allOnes 48 ∧ y.launchTicket = BitVec.allOnes 48 ∧ y.drops = 0 ∧ y.fail = false)
          ∧ (∀ e, e < 1024 → getEvent t p e = 0)
          ∧ (∀ n, n < 16 → x.slotMask.getLsbD n = true →
              getSlot t n = { zeroSlot s.he.modeCur (getSlot s n) with lease := none } ∧ t.hg.ctxValid.getLsbD n = false)
          ∧ (∀ id l, getList t id = some l → l.plot ≠ p)
          ∧ Closed t f o.id 0))
    ∧ (∀ (s u : State) (f : Nat) (o : Op), s.wf = true → PlotTurn s f 5 o u →
      let p := (plotCtl o.bytes).plot
      let x := getPlot s p
      (p ≠ 0 → x.state ≠ .live → Ends (.plotQuarantine f) s fun t => Closed t f o.id 0 ∧ OnlyFurrow s t f o.id)
      ∧ (p ≠ 0 → x.state = .live → Ends (.plotQuarantine f) s fun t =>
        getPlot t p = { x with state := .quarantined } ∧ (∀ q, q ≠ p → getPlot t q = getPlot s q)
          ∧ (∀ g, x.furFirst.toNat ≤ g → g < x.furFirst.toNat + x.furCount.toNat → ∀ y ∈ (getFur t g).queue, engineOp y = false)
          ∧ plotChannels t p = 0 ∧ (∀ l ∈ t.sc.lines, l.plot ≠ p) ∧ Closed t f o.id 0
          ∧ (s.ch.modeSeq = none → s.cn.colls = [] → SameBytes s t ∧ t.ap = s.ap)))
    ∧ (∀ (s u : State) (f : Nat) (o : Op), s.wf = true → (plotCtl o.bytes).plot = 0 →
      (PlotTurn s f 2 o u → Ends (.plotReset f) s fun t => Closed t f o.id rFieldRange ∧ OnlyFurrow s t f o.id)
      ∧ (PlotTurn s f 5 o u → Ends (.plotQuarantine f) s fun t => Closed t f o.id rFieldRange ∧ OnlyFurrow s t f o.id)
      ∧ (PlotTurn s f 3 o u → Ends (.plotTeardown f) s fun t => Closed t f o.id rFieldRange ∧ OnlyFurrow s t f o.id))

/-- WINDOW_MAP (09_plots R199, R200): the plot's windows become those of the body; bytes that a new window holds and the old
one did not read 0, every other byte is as before. GOVERNOR_SET (10_pilot_and_power R232): PI_GOV_LIMIT takes the body.
Each changes nothing when a check fails. -/
def Obligations.WindowsAndLimitsSet : Prop :=
  (∀ (s u : State) (f : Nat) (o : Op), s.wf = true →
      beginDispatch f (fun o => o.opcode == 0x12)
        (dFront :: dBasin :: (if (windowMapDesc (bytesOfNext s f)).hbmSize = 0 then [] else [dHbm])) s = .ok (o, u) →
      let w := windowMapDesc o.bytes
      let x := getPlot s w.plot
      (windowCheck s w = true → Ends (.windowMap f) s fun t =>
        getPlot t w.plot = { x with basinBase := bv 10 w.basinBase, basinSize := bv 10 w.basinSize, resBase := bv 10 w.resBase
                                    resSize := bv 10 w.resSize, hbmBase := bv 10 w.hbmBase, hbmSize := bv 10 w.hbmSize }
          ∧ (∀ q, q ≠ w.plot → getPlot t q = getPlot s q)
          ∧ Entered (2 ^ 20) x.basinBase.toNat x.basinSize.toNat w.basinBase w.basinSize s.ba.basin t.ba.basin
          ∧ Entered (2 ^ 28) x.hbmBase.toNat x.hbmSize.toNat w.hbmBase w.hbmSize s.ba.hbm t.ba.hbm
          ∧ Closed t f o.id 0)
      ∧ (windowCheck s w = false → Ends (.windowMap f) s fun t => Closed t f o.id rFieldRange ∧ OnlyFurrow s t f o.id))
    ∧ (∀ (s : State) (f : Nat) (o : Op), s.wf = true → Acts s f 0x13 [] govCheck (fun _ _ => true) o →
      let g := govBody o.bytes
      Ends (.governorSet f) s fun t => Closed t f o.id 0 ∧ OnlyFurrow { s with pi := { s.pi with
        clkMax := bv 3 g.clkMax, clkMin := bv 3 g.clkMin, powerCap := bv 10 g.cap, tAlert := bv 8 g.alert, modePolicy := bv 2 g.policy
        deep := bv 8 g.deep, idleBankedUs := bv 16 g.banked, idleEmberUs := bv 16 g.ember, idleDarkMs := bv 16 g.dark } } t f o.id)
    ∧ (∀ (s u : State) (f : Nat) (o : Op), s.wf = true → waitingOp s f 0x13 = none →
      beginDispatch f (fun o => o.opcode == 0x13) [] s = .ok (o, u) → govCheck s o ≠ 0 →
      Ends (.governorSet f) s fun t => Closed t f o.id rFieldRange ∧ OnlyFurrow s t f o.id)

/-! ## Slices and scheduler registers -/

/-- ROUND_BOUNDARY, SLICE_EXPIRE and RESUME (08_headgate_and_stokers R176, R178, R182, R183, R185). A boundary comes only where
the present round grants nothing; a captured table takes effect there, and every plot gets its share of credits, or, where
only plots of share 0 have work, one each in a round of their own. At a slice's end the domain passes to the furrow granted
next; a running GEMM or FLUE operation is preempted, a GEMM's slot image in its record, its weight block to be loaded again;
one that only drains keeps its engine and the slice passes on after it. A preempted operation whose slice has come runs on,
its slot holding what its record holds; one whose record cannot be read, or whose Firebox is gone, ends with HW_ERROR. -/
def Obligations.SlicesPassOn : Prop :=
  (∀ (s : State) (d : Nat), s.wf = true → awake s [dFront] = true → (domainsNow s).contains d = true →
      ((roundGrant s d false).isSome = true → exec (.roundBoundary d) s = .next s)
      ∧ (roundGrant s d false = none →
        let s1 := takeTable d s
        (nonzeroReady s1 d ≠ [] ∨ readyPlots s1 d = [] → Ends (.roundBoundary d) s fun t =>
          (∀ p, tblGet creditDef (getDom t d).credits p = if s.hg.commit then (getPlot s p).shareNext.toNat else shareIn s d p)
            ∧ (getDom t d).credits0 = (getDom s d).credits0 ∧ t.hg.furrows = s.hg.furrows ∧ SameBytes s t)
        ∧ (nonzeroReady s1 d = [] → readyPlots s1 d ≠ [] → Ends (.roundBoundary d) s fun t =>
          (∀ p, tblGet creditDef (getDom t d).credits0 p = 1) ∧ (getDom t d).credits = (getDom s d).credits
            ∧ t.hg.furrows = s.hg.furrows ∧ SameBytes s t)))
    ∧ (∀ (s : State) (d f : Nat), s.wf = true → d < 7 → awake s [dFront] = true → (getDom s d).holder = some f →
      ((getDom s d).incoming.isSome = true → exec (.sliceExpire d) s = .next s)
      ∧ ((getDom s d).incoming = none →
        (grantOf s d = none → Ends (.sliceExpire d) s fun t =>
          getDom t d = { getDom s d with holder := none } ∧ (∀ k, k ≠ d → getDom t k = getDom s k)
            ∧ t = { s with hg := { s.hg with domains := t.hg.domains } })
        ∧ (∀ g, grantOf s d = some g → g.fur = f ∨ runningOp s d = none → Ends (.sliceExpire d) s fun t =>
          (getDom t d).holder = some g.fur ∧ (getDom t d).lastPlot = g.plot ∧ t.hg.furrows = s.hg.furrows ∧ SameBytes s t)
        ∧ (∀ g h o, grantOf s d = some g → g.fur ≠ f → runningOp s d = some (h, o) → preemptible o = false →
          Ends (.sliceExpire d) s fun t =>
            (getDom t d).holder = some f ∧ (getDom t d).incoming = some g.fur ∧ (getDom t d).lastPlot = g.plot
              ∧ t.hg.furrows = s.hg.furrows ∧ SameBytes s t)
        ∧ (∀ g h o, grantOf s d = some g → g.fur ≠ f → runningOp s d = some (h, o) → preemptible o = true →
          Ends (.sliceExpire d) s fun t =>
            (getDom t d).holder = some g.fur
              ∧ (∃ x, findOp t h o.id = some x ∧ x.phase = .preempted ∧ x.prog = { o.prog with loaded := false, reload := true })
              ∧ (o.opcode = 0x09 → SameBytes s t)
              ∧ (∀ n, o.opcode = 0x08 → n = (gemmDesc o.bytes).slot → n < 16 → t.hg.ctxValid.getLsbD n = true
                  ∧ (∀ q ∈ slotFbs s n, (getFb t q).busy = false)
                  ∧ ((getSlot s n).bad = [] → s.ba.bankFail = 0 →
                      readMem false t (recordAddr s n) imageSize = slotImage (getSlot s n)
                        ∧ BytesKeep false (recordAddr s n) imageSize s t)))))
    ∧ (∀ (s s1 : State) (d f : Nat) (o : Op), s.wf = true → d < 6 → awake s [dFront] = true → sliceFur s d = some f →
      preemptedOp s d f = some o → o.coll = 0 → takeTurn d f s = some s1 →
      (d = 5 → awake s (flueNeeds s) = true → Ends (.resume d) s fun t =>
        InPhase t f o.id .running ∧ (∀ g, g ≠ f → getFur t g = getFur s g) ∧ SameBytes s t ∧ t.ap = s.ap)
      ∧ (d < 5 → ∀ n, n = (gemmDesc o.bytes).slot → n < 16 → awake s (gemmNeeds s o) = true →
        let lost := s.hg.ctxValid.getLsbD n && s.hg.ctxLost.getLsbD n
        let ended := fun (t : State) => ∃ x, findOp t f o.id = some x ∧ x.phase = .ended ∧ x.reason = bv 8 rHwError
        (slotModeOk s n = false → Ends (.resume d) s fun t => ended t ∧ SameBytes s t ∧ t.ap = s.ap)
        ∧ (slotModeOk s n = true →
          (lost = false → Ends (.resume d) s fun t =>
            InPhase t f o.id .running ∧ t.ap = s.ap ∧ t.hg.ctxValid.getLsbD n = false ∧ (∀ g, g ≠ f → getFur t g = getFur s g)
              ∧ SameBytes s t)
          ∧ (∀ x, lost = true → imageShape (readMem false s (recordAddr s n) 64) = some x →
            (readBad false s (recordAddr s n) imageSize = false → Ends (.resume d) s fun t =>
              InPhase t f o.id .running ∧ t.hg.ctxValid.getLsbD n = false ∧ SameBytes s t
                ∧ getSlot t n = { x with lease := (getSlot s n).lease
                                         entries := imageEntries x.word slotEntries (readMem false s (recordAddr s n + 64) (12 * slotEntries)) }
                ∧ (∀ k, k ≠ n → getSlot t k = getSlot s k))
            ∧ (readBad false s (recordAddr s n) imageSize = true → Ends (.resume d) s fun t =>
              ended t ∧ getSlot t n = zeroSlot s.he.modeCur (getSlot s n) ∧ t.hg.ctxValid.getLsbD n = false ∧ SameBytes s t)))))

/-- SCHED_COMMIT, HEARTH_HOLD, GAUGE_EN_WRITE, FAST_EN_WRITE, MODE_CTL_WRITE and MODE_CHANGE by an agent that may write there
(08_headgate_and_stokers R176, R187, R190; 09_plots R208, R209; 03_hearth R56, R57): HG_SCHED_CTL takes its fields, COMMIT
captures the pending table; timer 3 has one owner and a contest sets HG_CONFLICT.GAUGE; MODE waits until every Stoker is
idle, a request for the whole engine is refused while WHOLE_OK is 0; the change zeroes every slot, leases stand. A GOVERNOR_TICK
that asks for another engine mode starts CH1's sequence of Table 8-3: dispatch is held, with HEARTH_IDLE every leased slot
without a valid record is saved and MODE is written; once the change has taken effect every saved slot is restored and
dispatch resumes. -/
def Obligations.SchedulerRegistersAct : Prop :=
  (∀ (s : State) (a : Agent) (v : BitVec 32) (c : Instr), s.wf = true → Permits s a .schedCtl 0x200100 4 →
      (c = .hearthHold a v ∨ c = .gaugeEnWrite a v ∨ (c = .schedCommit a v ∧ v.getLsbD 0 = true)) →
      Ends c s fun t =>
        t.hg.hearthHold = v.getLsbD 1 ∧ t.hg.stallN = bv 8 (v.toNat / 256) ∧ t.hg.commit = (s.hg.commit || v.getLsbD 0)
          ∧ t.hg.gaugeEn = (if v.getLsbD 2 && s.pi.fastEn then s.hg.gaugeEn else v.getLsbD 2)
          ∧ t.hg.conflictGauge = (s.hg.conflictGauge || (v.getLsbD 2 && s.pi.fastEn))
          ∧ getSrc t 51 = getSrc s 51
          ∧ (∀ p, getPlot t p = if v.getLsbD 0
              then { getPlot s p with shareNext := (getPlot s p).sharePend, sliceNext := (getPlot s p).slicePend } else getPlot s p)
          ∧ t.hg.furrows = s.hg.furrows ∧ t.ap = s.ap ∧ SameBytes s t)
    ∧ (∀ (s : State) (a : Agent) (v : BitVec 32), s.wf = true → Permits s a .thermCtl 0x100124 4 →
      Ends (.fastEnWrite a v) s fun t =>
        t.pi.fastEn = v.getLsbD 0 ∧ t.hg.gaugeEn = (s.hg.gaugeEn && !v.getLsbD 0)
          ∧ t.hg.conflictGauge = (s.hg.conflictGauge || (v.getLsbD 0 && s.hg.gaugeEn))
          ∧ t.hg.furrows = s.hg.furrows ∧ t.hg.plots = s.hg.plots ∧ SameBytes s t)
    ∧ (∀ (s : State) (a : Agent) (v : BitVec 32), s.wf = true → Permits s a .modeCtl 0x500010 4 →
      let refused := !v.getLsbD 0 && !wholeOk s
      exec (.modeCtlWrite a v) s = .next { s with he := { s.he with
        mode := v.getLsbD 0 || refused, refused := s.he.refused || refused, pending := (v.getLsbD 0 || refused) != s.he.modeCur } })
    ∧ (∀ s : State, (s.he.pending = false ∨ ∃ q, q < 4 ∧ (getFb s q).busy = true) → exec .modeChange s = .next s)
    ∧ (∀ s : State, s.wf = true → s.he.pending = true → (∀ q, q < 4 → (getFb s q).busy = false) → s.ch.modeSeq = none →
      Ends .modeChange s fun t =>
        t.he = { s.he with modeCur := s.he.mode, pending := false } ∧ t.hg.ctxLost = s.hg.ctxValid
          ∧ (∀ n, getSlot t n = if n < 16 then zeroSlot s.he.mode (getSlot s n) else getSlot s n)
          ∧ (∀ d, d < 5 → (getDom t d).holder = none) ∧ t.hg.furrows = s.hg.furrows ∧ SameBytes s t)
    ∧ (∀ (s : State) (g : GovChoice) (m : Bool), s.wf = true → compRuns s 3 = true → s.pi.phase = .ready → s.pi.trip = false →
      govMode s g.mode = some m →
      (s.ch.modeSeq = some m ∨ (s.ch.modeSeq = none ∧ s.he.mode = m) → Ends (.governorTick g) s fun t =>
        t.hg = s.hg ∧ t.he = s.he ∧ t.ch = s.ch ∧ t.ap = s.ap ∧ SameBytes s t)
      ∧ (s.ch.modeSeq = none → s.he.mode ≠ m → hearthIdle s = false → Ends (.governorTick g) s fun t =>
        t.hg = { s.hg with hearthHold := true } ∧ t.ch = { s.ch with modeSeq := some m } ∧ t.he = s.he ∧ t.ap = s.ap ∧ SameBytes s t)
      ∧ (s.ch.modeSeq = none → s.he.mode ≠ m → hearthIdle s = true → compRuns s 1 = true → s.he.pending = false → s.he.modeCur ≠ m →
        awake s allFbNeeds = true → (∀ n, (getSlot s n).bad = []) → s.ba.bankFail = 0 → Ends (.governorTick g) s fun t =>
          t.he.mode = m ∧ t.he.pending = true ∧ t.hg.hearthHold = true ∧ t.ch.modeSeq = some m ∧ t.ap = s.ap
            ∧ ∀ n, n < 16 → (getSlot s n).lease ≠ none → t.hg.ctxValid.getLsbD n = true
                ∧ (s.hg.ctxValid.getLsbD n = false → readMem false t (recordAddr s n) imageSize = slotImage (getSlot s n))))
    ∧ (∀ s : State, s.wf = true → s.he.pending = true → s.ch.modeSeq = some s.he.mode → hearthIdle s = true → compRuns s 1 = true →
      awake s allFbNeeds = true → Ends .modeChange s fun t =>
        t.he = { s.he with modeCur := s.he.mode, pending := false } ∧ t.hg.hearthHold = false ∧ t.ch.modeSeq = none
          ∧ (∀ n x, n < 16 → s.hg.ctxValid.getLsbD n = true → imageShape (readMem false s (recordAddr s n) 64) = some x →
              readBad false s (recordAddr s n) imageSize = false → t.hg.ctxValid.getLsbD n = false
                ∧ getSlot t n = { x with lease := (getSlot s n).lease
                                         entries := imageEntries x.word slotEntries (readMem false s (recordAddr s n + 64) (12 * slotEntries)) })
          ∧ (∀ n, n < 16 → s.hg.ctxValid.getLsbD n = false → getSlot t n = zeroSlot s.he.mode (getSlot s n)) ∧ SameBytes s t)

/-- CTX_SAVE, CTX_RESTORE and CTX_DISCARD by an agent that may write HG_CTX_CMD (08_headgate_and_stokers R184, R185, R192): SAVE
copies the image of a leased slot on which nothing runs to its record, which is then valid; RESTORE serves a valid record;
DISCARD makes it invalid. Bytes outside the record are as before. A command that finds the slot's domain asleep wakes it and
shows BUSY until it acts as the domain wakes; one written meanwhile is ignored. That each acts whole is the model's choice
(log 17). -/
def Obligations.ContextCommandsAct : Prop :=
  (∀ (s : State) (a : Agent) (n f : Nat), s.wf = true → n < 16 → Permits s a .ctxCmd 0x200110 4 → s.hg.ctxPend = none →
      (getSlot s n).lease = some f → slotBusy s n = false →
      (awake s (hearthNeeds s n) = true → (getSlot s n).bad = [] → s.ba.bankFail = 0 → Ends (.ctxSave a n) s fun t =>
        readMem false t (recordAddr s n) imageSize = slotImage (getSlot s n) ∧ BytesKeep false (recordAddr s n) imageSize s t
          ∧ (∀ k, k < 16 → t.hg.ctxValid.getLsbD k = (decide (k = n) || s.hg.ctxValid.getLsbD k)) ∧ t.hg.ctxLost.getLsbD n = false
          ∧ t.ap = s.ap ∧ t.hg.furrows = s.hg.furrows)
      ∧ (awake s (hearthNeeds s n) = false → Ends (.ctxSave a n) s fun t => ∃ ws,
        t = { s with pi := { s.pi with waking := ws }, hg := { s.hg with ctxPend := some (1, n) } }
          ∧ regValue t .ctxStatus = regValue s .ctxStatus + 1))
    ∧ (∀ (s : State) (a : Agent) (n : Nat), s.wf = true → n < 16 → Permits s a .ctxCmd 0x200110 4 →
      ((getSlot s n).lease = none ∨ slotBusy s n = true) → exec (.ctxSave a n) s = .next s)
    ∧ (∀ (s : State) (a : Agent) (n : Nat), s.wf = true → n < 16 → Permits s a .ctxCmd 0x200110 4 → s.hg.ctxPend = none →
      (s.hg.ctxValid.getLsbD n = false → exec (.ctxRestore a n) s = .next s)
      ∧ (s.hg.ctxValid.getLsbD n = true → awake s (hearthNeeds s n) = true →
        (s.hg.ctxLost.getLsbD n = false → Ends (.ctxRestore a n) s fun t =>
          t.hg.ctxValid.getLsbD n = false ∧ t.ap = s.ap ∧ t.hg.furrows = s.hg.furrows ∧ SameBytes s t)
        ∧ (∀ x, s.hg.ctxLost.getLsbD n = true →
          imageShape (readMem false s (recordAddr s n) 64) = some x → readBad false s (recordAddr s n) imageSize = false →
          Ends (.ctxRestore a n) s fun t =>
            t.hg.ctxValid.getLsbD n = false ∧ SameBytes s t ∧ t.hg.furrows = s.hg.furrows
              ∧ getSlot t n = { x with lease := (getSlot s n).lease
                                       entries := imageEntries x.word slotEntries (readMem false s (recordAddr s n + 64) (12 * slotEntries)) }
              ∧ (∀ k, k ≠ n → getSlot t k = getSlot s k)))
      ∧ (s.hg.ctxValid.getLsbD n = true → awake s (hearthNeeds s n) = false → Ends (.ctxRestore a n) s fun t => ∃ ws,
        t = { s with pi := { s.pi with waking := ws }, hg := { s.hg with ctxPend := some (2, n) } }))
    ∧ (∀ (s : State) (a : Agent) (n : Nat), s.wf = true → n < 16 → Permits s a .ctxCmd 0x200110 4 →
      (s.hg.ctxPend = none → exec (.ctxDiscard a n) s = .next { s with hg := { s.hg with
        ctxValid := setBit s.hg.ctxValid n false, ctxLost := setBit s.hg.ctxLost n false } })
      ∧ (s.hg.ctxPend ≠ none → exec (.ctxSave a n) s = .next s ∧ exec (.ctxRestore a n) s = .next s ∧ exec (.ctxDiscard a n) s = .next s))
    ∧ (∀ (s : State) (d n f : Nat), s.wf = true → s.pi.waking.contains d = true → awake s (domNeeds d) = true →
      s.hg.ctxPend = some (1, n) → n < 16 → awake (setPower s d .stoked) (hearthNeeds s n) = true → s.pi.latched = [] →
      s.ch.modeSeq = none → (getSlot s n).lease = some f → slotBusy s n = false → (getSlot s n).bad = [] → s.ba.bankFail = 0 →
      Ends (.domainWakeComplete d) s fun t =>
        t.hg.ctxPend = none ∧ t.hg.ctxValid.getLsbD n = true ∧ readMem false t (recordAddr s n) imageSize = slotImage (getSlot s n)
          ∧ BytesKeep false (recordAddr s n) imageSize s t)

/-! ## The Smokebox -/

namespace Sys2Proof.Claims

/-- An event of a source counted in its window (12_smokebox R267). -/
def countOf (x : Source) : BitVec 8 := if x.windowOpen then incHold x.count else 1

/-- The event escalates: its count has reached COUNT_N. -/
def escalates (x : Source) : Bool := decide (x.countN ≠ 0) && decide (x.countN ≤ countOf x) && decide (x.sev < 4)

/-- The severity the event takes. -/
def effOf (x : Source) : BitVec 3 := if escalates x then x.sev + 1 else x.sev

/-- An event of source `n` is counted, captured in SB_STATUS unless the source is LOCAL only, and its severity kept when it is
the greatest so far. -/
def Counted (s t : State) (n : Nat) : Prop :=
  let x := getSrc s n
  (getSrc t n).count = countOf x ∧ (getSrc t n).events = incHold x.events ∧ (getSrc t n).windowOpen = true
    ∧ t.sb.status.getLsbD n = (s.sb.status.getLsbD n || decide (x.chan ≠ 0))
    ∧ (x.chan ≠ 0 → (getSrc t n).effSev = (if x.effSev < effOf x then effOf x else x.effSev)
        ∧ (getSrc t n).escalated = (x.escalated || escalates x))

/-- An episode opens, takes the event in, or stays closed (12_smokebox R268, R269). -/
def EpisodeTakes (s t : State) (n : Nat) (plot : Option Nat) : Prop :=
  let e := effOf (getSrc s n)
  (s.sb.epOpen = true → t.sb.epOpen = true ∧ t.sb.epMerges = incHold s.sb.epMerges ∧ t.sb.epId = s.sb.epId
      ∧ t.sb.epSev = (if s.sb.epSev < e then e else s.sb.epSev) ∧ t.sb.epPlots = s.sb.epPlots ||| plotBit plot)
    ∧ (s.sb.epOpen = false → 2 ≤ e → t.sb.epOpen = true ∧ t.sb.epSev = e ∧ t.sb.epId = s.sb.epId + 1 ∧ t.sb.epMerges = 0
      ∧ t.sb.epTime = s.pi.time ∧ t.sb.epPlots = plotBit plot)
    ∧ (s.sb.epOpen = false → e < 2 → t.sb.epOpen = false ∧ t.sb.epId = s.sb.epId)

/-- The snapshot of an episode that closes now, where source 63 is not set (12_smokebox R278, R280). -/
def SnapshotTaken (s t : State) (actions : BitVec 4) (closedBy : Nat) : Prop :=
  (s.sb.status.getLsbD 63 = false → t.sb.snaps = s.sb.snaps + 1 ∧ t.ch.recordWant = true
      ∧ memRead memDefault t.sb.recMem 0 4096 = snapshotBytes (snapshotBody s actions closedBy (s.sb.snaps + 1)))
    ∧ (s.sb.status.getLsbD 63 = true → t.sb.snaps = s.sb.snaps ∧ t.sb.recMem = s.sb.recMem)

end Sys2Proof.Claims

/-- SMOKEBOX_EVENT, UNIT_FAILS_IN_SERVICE and COUNT_WINDOW_CLOSE (12_smokebox R264 to R269; 15_reset_and_bringup R342, R343):
an event counts, sets its SB_STATUS bit unless LOCAL, and opens or joins an episode; no other source but 57 counts. A bank,
stack, Flue half or statistics unit that fails is marked out at once while CH3's component runs, with a record to write,
else once it runs again; a word that fails is uncorrectable from then on. The plot that an event names is that of the
operation it stops, else the one that the block reports, where the source names one. A window that closes zeroes its count. -/
def Obligations.EventsAreCounted : Prop :=
  (∀ (s : State) (n unit : Nat) (plot : Option Nat), s.wf = true → sourceReserved n = false → s.pi.pwrok = true →
      s.pi.hrstLow = false → (n < 36 ∨ 39 < n) →
      Ends (.smokeboxEvent n plot unit) s fun t =>
        Counted s t n ∧ (∀ m, m ≠ n → m ≠ 57 → getSrc t m = getSrc s m) ∧ SameBytes s t
          ∧ (failedUnit n unit = none → escalatedUnit n unit = none → (getSrc s n).chan ≠ 0 →
              EpisodeTakes s t n (eventPlot n plot unit s)))
    ∧ (∀ (s : State) (n unit : Nat) (plot : Option Nat), s.wf = true → 36 ≤ n → n ≤ 39 → s.pi.pwrok = true → s.pi.hrstLow = false →
      (getPort s (n - 36)).state ≠ .down →
      Ends (.smokeboxEvent n plot unit) s fun t =>
        Counted s t n ∧ (getPort t (n - 36)).state = .down ∧ (getPort t (n - 36)).downSeen = true)
    ∧ (∀ s : State, s.wf = true → s.pi.pwrok = true → s.pi.hrstLow = false → compRuns s 3 = true →
      (∀ b, s.ba.bankIn.getLsbD b = true → s.ba.bankFail.getLsbD b = false →
        Ends (.unitFailsInService (.bank b)) s fun t =>
          t.ba = { s.ba with bankFail := setBit s.ba.bankFail b true } ∧ outBit t (bankBit b) = true ∧ Counted s t 20
            ∧ t.ch.recordWant = true)
      ∧ (∀ k, s.ba.stackIn.getLsbD k = true → s.ba.stackFail.getLsbD k = false →
        Ends (.unitFailsInService (.stack k)) s fun t =>
          t.ba = { s.ba with stackFail := setBit s.ba.stackFail k true } ∧ outBit t (stackBit k) = true ∧ Counted s t 23
            ∧ t.ch.recordWant = true)
      ∧ (∀ h, h < 2 → flueIn s h = true → Ends (.unitFailsInService (.flueHalf h)) s fun t => flueIn t h = false ∧ t.ba = s.ba)
      ∧ (statsIn s = true → Ends (.unitFailsInService .stats) s fun t => statsIn t = false ∧ t.ba = s.ba))
    ∧ (∀ s : State, s.wf = true → s.pi.pwrok = true → s.pi.hrstLow = false →
      (∀ b, s.ba.bankIn.getLsbD b = true → s.ba.bankFail.getLsbD b = false → compRuns s 3 = false →
        Ends (.unitFailsInService (.bank b)) s fun t => t.pi.health = s.pi.health ∧ t.ch.markDue = s.ch.markDue ++ [bankBit b])
      ∧ (∀ w, 8 * w < basinCap s → w ∉ s.ba.basinBad →
        exec (.unitFailsInService (.basinWord w)) s = .next { s with ba := { s.ba with basinBad := w :: s.ba.basinBad } })
      ∧ (∀ w, 8 * w < hbmCap s → w ∉ s.ba.hbmBad →
        exec (.unitFailsInService (.hbmWord w)) s = .next { s with ba := { s.ba with hbmBad := w :: s.ba.hbmBad } })
      ∧ (∀ n i, n < 16 → i < slotEntries → i ∉ (getSlot s n).bad →
        Ends (.unitFailsInService (.slotEntry n i)) s fun t =>
          getSlot t n = { getSlot s n with bad := i :: (getSlot s n).bad } ∧ (∀ k, k ≠ n → getSlot t k = getSlot s k)
            ∧ t = { s with ap := { s.ap with slots := t.ap.slots } })
      ∧ (∀ n b, n < 16 → b < 2 → b ∉ (getTable s n).bad → ((getTable s n).bank b).isSome = true →
        Ends (.unitFailsInService (.tableBank n b)) s fun t =>
          getTable t n = { getTable s n with bad := b :: (getTable s n).bad } ∧ (∀ k, k ≠ n → getTable t k = getTable s k)
            ∧ t = { s with fl := { s.fl with tables := t.fl.tables } }))
    ∧ (∀ (s : State) (n : Nat), s.wf = true → n < 64 → (getSrc s n).windowOpen = true →
      Ends (.countWindowClose n) s fun t =>
        getSrc t n = { getSrc s n with windowOpen := false, count := 0 } ∧ (∀ m, m ≠ n → getSrc t m = getSrc s m)
          ∧ t = { s with sb := { s.sb with sources := t.sb.sources } })

/-- SB_ACK and GRACE_EXPIRY (12_smokebox R270 to R272, R277, R278): an acknowledgement that names the open episode and its
merges closes it with a snapshot and no action, any other sets ACK_STALE; when the grace runs out the actions of its
severity are taken, the named LIVE plots but plot 0 quarantined under QUAR, ESCALATIONS counts, and it closes. SB_FORCE_SMOKE, SB_FORCE_HG_STOP, SB_STATUS_CLEAR and SMOKE_TOGGLE (12_smokebox R272, R273, R275, R280): SMOKE and HG_STOP are
taken at once; the bits written are cleared but those whose SB_LIVE bit reads 1, with their severities, and clearing
source 63 empties the record memory; the heartbeat toggles while SMOKE is not taken. ALARM_L and the SMOKE pair follow
(R274, R275). -/
def Obligations.EpisodesCloseAndActionsAct : Prop :=
  ((∀ (s : State) (a : Agent) (v : BitVec 32), s.wf = true → Permits s a .sbAck 0xC00038 4 →
      ((s.sb.epOpen = true ∧ bv 8 v.toNat = s.sb.epId ∧ bv 8 (v.toNat / 256) = s.sb.epMerges) →
        Ends (.sbAck a v) s fun t =>
          SnapshotTaken s t 0 (match a with | .core _ => 0 | _ => 1)
            ∧ t.sb = { s.sb with epOpen := false, snaps := t.sb.snaps, recMem := t.sb.recMem }
            ∧ (∀ p, getPlot t p = { getPlot s p with mail := (getPlot t p).mail })
            ∧ (s.sb.epSev < 2 → t.hg = s.hg) ∧ t.ba = s.ba ∧ t.ap = s.ap)
      ∧ (¬ (s.sb.epOpen = true ∧ bv 8 v.toNat = s.sb.epId ∧ bv 8 (v.toNat / 256) = s.sb.epMerges) →
        exec (.sbAck a v) s = .next { s with sb := { s.sb with ackStale := true } }))
    ∧ (∀ s : State, s.sb.epOpen = false → exec .graceExpiry s = .next s)
    ∧ (∀ s : State, s.wf = true → s.sb.epOpen = true →
      let a := actionsFor s.sb s.sb.epSev
      Ends .graceExpiry s fun t =>
        t.sb.epOpen = false ∧ t.sb.escalations = incHold s.sb.escalations ∧ t.sb.escQuar = (s.sb.escQuar || a.getLsbD 0)
          ∧ (a.getLsbD 1 = true → t.sb.escHgStop = true ∧ t.pins.tileReady = false)
          ∧ t.sb.escAlarm = (s.sb.escAlarm || a.getLsbD 2) ∧ t.sb.escSmoke = (s.sb.escSmoke || a.getLsbD 3)
          ∧ (∀ p, (getPlot t p).state = (if a.getLsbD 0 = true ∧ p ≠ 0 ∧ p < 64 ∧ s.sb.epPlots.getLsbD p = true ∧ (getPlot s p).state = .live
              then .quarantined else (getPlot s p).state))
          ∧ (a.getLsbD 0 = false ∨ (s.ch.modeSeq = none ∧ s.cn.colls = []) →
              t.sb.status = s.sb.status ∧ t.sb.escHgStop = (s.sb.escHgStop || a.getLsbD 1) ∧ SnapshotTaken s t a 2)))
    ∧ ((∀ (s : State) (a : Agent), s.wf = true → Permits s a .force 0xC00044 4 →
      exec (.sbForceSmoke a) s = .next { s with sb := { s.sb with forceSmoke := true, escSmoke := true } }
        ∧ exec (.sbForceHgStop a) s
            = .next { s with sb := { s.sb with forceHgStop := true, escHgStop := true }, pins := { s.pins with tileReady := false } })
    ∧ (∀ (s : State) (a : Agent) (bits : BitVec 64), s.wf = true → Permits s a .sbStatus 0xC00000 8 →
      let gone := s.sb.status &&& bits &&& ~~~sbLive s
      Ends (.sbStatusClear a bits) s fun t =>
        t.sb.status = s.sb.status &&& ~~~gone ∧ t.sb.recMem = (if gone.getLsbD 63 then [] else s.sb.recMem)
          ∧ (∀ n, getSrc t n = if gone.getLsbD n then { getSrc s n with effSev := 0, escalated := false } else getSrc s n)
          ∧ t = { s with sb := { s.sb with status := t.sb.status, recMem := t.sb.recMem, sources := t.sb.sources } })
    ∧ (∀ s : State, s.pi.pwrok = true → s.pi.hrstLow = false → s.pins.outputsOn = true → s.sb.escSmoke = false →
      exec .smokeToggle s = .next { s with pins := { s.pins with smokeP := !s.pins.smokeP } })
    ∧ (∀ s : State, s.sb.escSmoke = true → exec .smokeToggle s = .next s)
    ∧ (∀ s : State, driven s = true →
      (alarmL s = .low ↔ s.sb.escAlarm = true ∨ ∃ n, n < 64 ∧ s.sb.status.getLsbD n = true ∧ s.sb.alarmSev ≤ (getSrc s n).effSev)
      ∧ (s.sb.escSmoke = true → smokePin false s = .low ∧ smokePin true s = .low)
      ∧ (s.sb.escSmoke = false → (smokePin false s = .high ∧ smokePin true s = .low) ∨ (smokePin false s = .low ∧ smokePin true s = .high))))

/-- REGISTER_WRITE (16_register_map R350 to R356; 11_chimney_firmware R238, R245; 14_host_port_and_management R315, R317,
R319, R324): a 4- or 8-byte aligned write reaches its register. SC_PLOT_QUOTA takes its field. SB_GRACE takes its field while
SB_CTL.CFG_LOCK is 0; while it is 1 a differing write stores nothing and raises source 51. A host write to a page that the
host may not write stores nothing and raises source 51. A write of another size or alignment to a page changes nothing. A
core writes its SRAM in any size, and reads what it may; an access outside its reach does not take place, a read returning 0:
the core restarts, with cause 3, and raises source 48, but while a warm reset runs. In configuration space Bus Master Enable
takes its bit; in BAR2/3 a 1 clears the RAS status; in BAR4/5 a vector takes its mask, and one that waited unmasked fires. The
places in configuration space and BAR2/3 are the model's choice (log 114). -/
def Obligations.RegisterWritesLand : Prop :=
  (∀ (s : State) (p : Nat) (v : BitVec 64), s.wf = true → p < 64 → s.pi.pwrok = true → s.hp.up = true → awake s [dFront] = true →
      Ends (.registerWrite .pf (0xA01000 + 8 * p) 8 v) s fun t =>
        getPlot t p = { getPlot s p with quota := bv 17 v.toNat } ∧ (∀ q, q ≠ p → getPlot t q = getPlot s q)
          ∧ t = { s with hg := { s.hg with plots := t.hg.plots } })
    ∧ (∀ (s : State) (v : BitVec 64), s.wf = true → s.pi.pwrok = true → s.hp.up = true →
      (s.sb.cfgLock = false → exec (.registerWrite .pf 0xC00018 4 v) s = .next { s with sb := { s.sb with graceUs := bv 24 v.toNat } })
      ∧ (s.sb.cfgLock = true → bv 24 v.toNat ≠ s.sb.graceUs → Ends (.registerWrite .pf 0xC00018 4 v) s fun t =>
        t.sb.graceUs = s.sb.graceUs ∧ Counted s t 51))
    ∧ (∀ (s : State) (v : BitVec 64), s.wf = true → s.pi.pwrok = true → s.hp.up = true → awake s [dFront] = true →
      (bv 1 v.toNat ≠ 0 ∨ bv 1 (v.toNat / 2) ≠ bv 1 (b2n s.hg.hearthHold)) → Ends (.registerWrite .pf 0x200100 4 v) s fun t =>
        t.hg = s.hg ∧ Counted s t 51)
    ∧ (∀ (s : State) (addr size : Nat) (v : BitVec 64), ((size ≠ 4 ∧ size ≠ 8) ∨ addr % size ≠ 0) →
      exec (.registerWrite .pf addr size v) s = .next s ∧ (∀ p, exec (.registerWrite (.vf p) addr size v) s = .next s)
        ∧ (∀ c, 0x200000 ≤ addr → coreReach s c addr size = true → exec (.registerWrite (.core c) addr size v) s = .next s))
    ∧ (∀ (s : State) (c addr size : Nat) (v : BitVec 64), s.wf = true → s.pi.pwrok = true →
      (getCore s c).state = .running → coreIn s c = true →
      (coreReach s c addr size = false → Ends (.registerWrite (.core c) addr size v) s fun t =>
        (s.pi.warmDue = false → (getCore t c).state = .restarting ∧ (getCore t c).lastCause = 3) ∧ Counted s t 48 ∧ t.hg = s.hg
          ∧ SameBytes s t)
      ∧ (coreReach s c addr size = true → addr < 0x200000 → plotOffset addr = none → Ends (.registerWrite (.core c) addr size v) s fun t =>
        memRead memDefault t.ch.sram addr size = natLe size v.toNat
          ∧ (∀ x, x < addr ∨ addr + size ≤ x → tblGet memDefault t.ch.sram x = tblGet memDefault s.ch.sram x)
          ∧ t = { s with ch := { s.ch with sram := t.ch.sram } })
      ∧ (coreReads s c addr size = true → addr < 0x200000 → exec (.registerWrite (.coreRead c) addr size v) s
          = .next { s with out := s.out ++ [.coreLoad c (memRead memDefault s.ch.sram addr size)] })
      ∧ (coreReads s c addr size = false → Ends (.registerWrite (.coreRead c) addr size v) s fun t =>
        (s.pi.warmDue = false → (getCore t c).state = .restarting ∧ (getCore t c).lastCause = 3) ∧ Counted s t 48
          ∧ Out.coreLoad c (List.replicate size 0) ∈ t.out ∧ t.hg = s.hg ∧ SameBytes s t))
    ∧ (∀ (s : State) (fn : Nat) (v : BitVec 64), s.wf = true → fnThere s fn = true →
      (Ends (.registerWrite (.cfg fn) 0x04 2 v) s fun t =>
        (fn ∈ t.hp.master ↔ v.getLsbD 2 = true) ∧ (∀ k, k ≠ fn → (k ∈ t.hp.master ↔ k ∈ s.hp.master))
          ∧ t = { s with hp := { s.hp with master := t.hp.master, cfg := t.hp.cfg } })
      ∧ (v.getLsbD 14 = true → exec (.registerWrite .bar2 0x1100 4 v) s = .next { s with hp := { s.hp with rasUncorr := false } })
      ∧ (∀ k, k < vectorCount fn → Ends (.registerWrite (.bar4 fn) (16 * k + 12) 4 v) s fun t =>
        (getVector t fn k).masked = v.getLsbD 0 ∧ (getVector t fn k).addr = (getVector s fn k).addr
          ∧ ((getVector s fn k).waits = true → v.getLsbD 0 = false → hostOpen s fn = true → fn ∈ s.hp.msixOn → fn ∉ s.hp.msixMask →
              Out.msix fn k ∈ t.out ∧ (getVector t fn k).waits = false)
          ∧ t = { s with hp := { s.hp with vectors := t.hp.vectors }, out := t.out }))

/-! ## Power, clocks, temperature -/

/-- DOMAIN_WAKE_COMPLETE, DOMAIN_STEP_DOWN and SCUTTLE_FLUSH (10_pilot_and_power R218 to R225; 01_the_tile R18 to R22): a waking
domain whose needs are STOKED becomes STOKED, and a tail latched for FRONT is stored; an idle domain within its limits
goes one state down, losing its content on entering DARK, a Firebox its quarter of the slots' entries; no other does, nor
an enabled port of a gang below BANKED (13_canals_and_gangs R305); a flush leaves the Scuttle empty, each line evicted clean. -/
def Obligations.DomainsWakeAndStepDown : Prop :=
  (∀ (s : State) (d : Nat), s.wf = true → s.pi.waking.contains d = true → awake s (domNeeds d) = true →
      Ends (.domainWakeComplete d) s fun t =>
        getPower t d = .stoked ∧ (∀ e, e ≠ d → getPower t e = getPower s e) ∧ t.pi.waking.contains d = false)
    ∧ (∀ (s : State) (p i f : Nat) (tail : BitVec 16) (g : Agent), s.wf = true → s.pi.waking.contains dFront = true → p < 64 → i < 1024 →
      s.pi.latched = [{ agent := g, addr := doorbellAddr p i, size := 4, v := tail.setWidth 64 }] →
      globalFur s p i = some f → (getPlot s p).state = .live →
      let bad := (getFur s f).arm && decide (2 ^ (getFur s f).sizeLog2.toNat ≤ tail.toNat)
      Ends (.domainWakeComplete dFront) s fun t =>
        getFur t f = (if bad then { getFur s f with badTail := true } else { getFur s f with tail := tail })
          ∧ (∀ k, k ≠ f → getFur t k = getFur s k) ∧ t.pi.latched = [])
    ∧ (∀ (s : State) (d : Nat), s.wf = true → d < 14 → s.pi.pwrok = true → s.pi.trip = false → s.pins.vaux12Lost = false →
      s.pi.waking.contains d = false → powerCode (getPower s d) < depthLimit s d → domainIdle s d = true →
      (getPower s d = .stoked → neededByNone s d = true) → (d = 0 → s.sc.flushed = true) →
      Ends (.domainStepDown d) s fun t =>
        powerCode (getPower t d) = powerCode (getPower s d) + 1 ∧ (∀ e, e ≠ d → getPower t e = getPower s e)
          ∧ (getPower t d ≠ .dark → t = { s with pi := { s.pi with dom := t.pi.dom } })
          ∧ (getPower t d = .dark → (d = 2 → t.ba.basin = []) ∧ (d = 3 → t.ba.hbm = []) ∧ (d = 1 → t.ch.sram = [])
              ∧ (d ≠ 2 → t.ba.basin = s.ba.basin) ∧ (d ≠ 3 → t.ba.hbm = s.ba.hbm) ∧ (d ≠ 1 → t.ch = s.ch)
              ∧ (∀ n i, n < 16 → i < (getSlot s n).rows * (getSlot s n).cols →
                  tblGet (entryDef (getSlot s n).word) (getSlot t n).entries i
                    = if 4 ≤ d ∧ d < 8 ∧ (s.he.modeCur = false ∨ n / 4 = d - 4) ∧ entryQuarter s.he.modeCur n (getSlot s n) i = d - 4
                      then emptyWord .a96 else tblGet (entryDef (getSlot s n).word) (getSlot s n).entries i)))
    ∧ (∀ (s : State) (d : Nat), (depthLimit s d ≤ powerCode (getPower s d) ∨ domainIdle s d = false ∨ s.pi.waking.contains d = true
        ∨ (getPower s d = .stoked ∧ neededByNone s d = false)) → exec (.domainStepDown d) s = .next s)
    ∧ (∀ (s : State) (n : Nat), n < 4 → s.cn.form = true → (getPort s n).en = true → getPower s (dCanal n) ≠ .stoked →
      exec (.domainStepDown (dCanal n)) s = .next s)
    ∧ (∀ s : State, awake s [dFront] = true → domainIdle s dFront = true → 0 < depthLimit s dFront → s.pi.trip = false →
      exec .scuttleFlush s = .next { s with sc := { lines := [], trans := [], flushed := true }
                                            out := s.out ++ s.sc.lines.map fun l => Out.evict l.plot l.addr })

namespace Sys2Proof.Claims

/-- The power of every Canal port goes: one that is OFF or DOWN stays so, one that has been ACTIVE goes DOWN, and one that has not
waits to train again (13_canals_and_gangs R291, R292). -/
def PortsLost (s t : State) : Prop :=
  ∀ n, n < 4 → (getPort t n).state =
    if (getPort s n).state = .off then .off
    else if (getPort s n).state = .down ∨ (getPort s n).wasActive = true then .down else .phyTrain

end Sys2Proof.Claims

/-- THERMAL_SAMPLE, THERMAL_TRIP, REF_LOSS and REF_LOCK (10_pilot_and_power R213, R214, R234, R235): ALERT sets at T_ALERT, with the
clamp and source 44, and clears 5 degrees below; at 115 degrees the tile trips, every domain but CHIMNEY is DARK and
CHIMNEY is EMBER, or DARK where it was, with source 45; the loss of the reference sets LOST with source 42; the lock clears
what is held against it and starts the step pattern of tile time (R228). -/
def Obligations.HeatAndReference : Prop :=
  (∀ (s : State) (t : Int), s.wf = true → s.pi.pwrok = true →
      let m : Nat := if t < 0 then 0 else if 255 < t then 255 else t.toNat
      let s1 := { s with pi := { s.pi with tempMax := bv 8 m } }
      (s.pi.tAlert.toNat ≤ m → s.pi.alert = true → exec (.thermalSample t) s = .next s1)
      ∧ (m < s.pi.tAlert.toNat → s.pi.tAlert.toNat < m + 5 → exec (.thermalSample t) s = .next s1)
      ∧ (m + 5 ≤ s.pi.tAlert.toNat → exec (.thermalSample t) s = .next { s1 with pi := { s1.pi with alert := false, clamp := false } })
      ∧ (s.pi.tAlert.toNat ≤ m → s.pi.alert = false → Ends (.thermalSample t) s fun u =>
        u.pi.alert = true ∧ u.pi.alertSeen = true ∧ u.pi.clamp = true ∧ u.pi.tempMax = bv 8 m
          ∧ u.pi.hclkLevel = (if 2 < s.pi.hclkLevel then 2 else s.pi.hclkLevel) ∧ Counted s u 44 ∧ u.hg = s.hg ∧ SameBytes s u))
    ∧ (∀ (s : State) (t : Int), s.wf = true → s.pi.pwrok = true → 115 ≤ t → s.pi.trip = false →
      Ends (.thermalTrip t) s fun u =>
        u.pi.trip = true ∧ u.pins.ttripLatch = true ∧ u.pi.waking = []
          ∧ (∀ d, d < 14 → getPower u d = if d = 1 ∧ getPower s 1 ≠ .dark then .ember else .dark)
          ∧ PortsLost s u ∧ u.ba.basin = [] ∧ u.ba.hbm = [] ∧ u.ch = { s.ch with localPend := u.ch.localPend } ∧ u.flash = s.flash
          ∧ Counted s u 45)
    ∧ (∀ (s : State) (t : Int), (t < 115 ∨ s.pi.trip = true) → exec (.thermalTrip t) s = .next s)
    ∧ (∀ s : State, s.wf = true → s.pi.pwrok = true →
      Ends .refLoss s fun u =>
        u.pi.refLocked = false ∧ u.pi.refLost = true ∧ u.pi.refAbsent = true ∧ u.pi.time = s.pi.time ∧ Counted s u 42
          ∧ u.hg = s.hg ∧ SameBytes s u)
    ∧ (∀ s : State, s.pi.pwrok = true → Ends .refLock s fun u => ∃ seed pos left,
        u = { s with pi := { s.pi with refLocked := true, everLocked := true, refAbsent := false
                                       stepSeed := seed, stepPos := pos, stepLeft := left }, free := s.free + 1 }
          ∧ (s.pi.refLocked = false → pos = 0 ∧ left = 1000000000)
          ∧ (s.pi.refLocked = true → seed = s.pi.stepSeed ∧ pos = s.pi.stepPos ∧ left = s.pi.stepLeft))

/-- GOVERNOR_TICK and HCLK_CHANGE (10_pilot_and_power R230 to R234, R385; 01_the_tile R17): the level asked for lies in
CLK_MIN to CLK_MAX unless the cap cannot be held there, is below the one in force while power is above POWER_CAP, and at most
2 under the clamp; it takes effect at a run boundary. The level, the targets and the mode are the governor's choice, operands
here. TIME_ADJ, PTM_TRIGGER, PTM_PERIOD, PTM_DIALOGUE_DONE and PATROL_SCRUB (10_pilot_and_power R228, R229;
06_basin_and_sluices R124): tile time takes the amount written at once; once locked it advances by exactly 10^9 ns over each
step pattern, in steps of 19, 20 or 21 ns, and repeats the last pattern while the lock is lost; a trigger or the period starts
a dialogue, whose end stores both times and advances SEQ, or clears VALID; the scrubber reads the next Basin word and counts
what it finds. -/
def Obligations.GovernorClockAndScrub : Prop :=
  ((∀ (s : State) (g : GovChoice), s.wf = true → compRuns s 3 = true → s.pi.phase = .ready → s.pi.trip = false → s.pi.clkMin ≤ s.pi.clkMax →
      Ends (.governorTick g) s fun t =>
        (∀ l, t.pi.hclkNext = some l → l ≤ s.pi.clkMax ∧ (s.pi.clamp = true → l ≤ 2)
            ∧ (capWins s g = false → s.pi.clamp = false → s.pi.clkMin ≤ l))
          ∧ (s.pi.powerCap < g.power → s.pi.hclkLevel ≠ 0 → ∃ l, t.pi.hclkNext = some l ∧ l < s.pi.hclkLevel)
          ∧ (s.pi.clkMin ≤ g.level → g.level ≤ s.pi.clkMax → s.pi.clamp = false → g.power ≤ s.pi.powerCap →
              t.pi.hclkNext = if g.level = s.pi.hclkLevel then none else some g.level)
          ∧ (t.pi.capped = true → capWins s g = true) ∧ t.pi.domTarget = g.target ∧ t.pi.powerW = g.power
          ∧ (govMode s g.mode = none → t = { s with pi := t.pi }))
    ∧ (∀ s : State, s.pending = [] → s.pi.pwrok = true → s.pi.everLocked = true →
      let r := patternClocks s.pi.stepSeed - s.pi.stepPos
      1 ≤ r → 19 * r ≤ s.pi.stepLeft → s.pi.stepLeft ≤ 21 * r → ∃ n t, step s = .next t ∧ t.pi.time = s.pi.time + bv 64 n
        ∧ (1 < r → t.pi.stepSeed = s.pi.stepSeed ∧ t.pi.stepPos = s.pi.stepPos + 1 ∧ t.pi.stepLeft + n = s.pi.stepLeft
            ∧ 19 * (r - 1) ≤ t.pi.stepLeft ∧ t.pi.stepLeft ≤ 21 * (r - 1))
        ∧ (r = 1 → n = s.pi.stepLeft ∧ t.pi.stepPos = 0 ∧ t.pi.stepLeft = 1000000000
            ∧ (s.pi.refLocked = false → t.pi.stepSeed = s.pi.stepSeed)))
    ∧ (∀ seed, 19 * patternClocks seed ≤ 1000000000 ∧ 1000000000 ≤ 21 * patternClocks seed)
    ∧ (∀ (s : State) (l : BitVec 3), s.pi.hclkNext = some l →
      exec .hclkChange s = .next { s with pi := { s.pi with hclkLevel := if s.pi.clamp ∧ 2 < l then 2 else l, hclkNext := none } }))
    ∧ ((∀ (s : State) (a : Agent) (n : BitVec 48), s.wf = true → Permits s a .timeAdj 0x100028 8 →
      exec (.timeAdj a n) s = .next { s with pi := { s.pi with time := s.pi.time + n.setWidth 64 } })
    ∧ (∀ (s : State) (a : Agent), s.wf = true → Permits s a .ptmCtl 0x100030 4 →
      exec (.ptmTrigger a) s = .next { s with pi := { s.pi with ptmTrigger := true } })
    ∧ (∀ s : State, s.pi.pwrok = true → s.pi.ptmPeriod ≠ 0 →
      exec .ptmPeriod s = .next { s with pi := { s.pi with ptmTrigger := true } })
    ∧ (∀ (s : State) (h : BitVec 64), s.pi.ptmTrigger = true →
      (s.hp.up = true → exec (.ptmDialogueDone (some h)) s = .next { s with pi := { s.pi with
        ptmTrigger := false, ptmHost := h, ptmTile := s.pi.time, ptmValid := true, ptmSeq := s.pi.ptmSeq + 1 } })
      ∧ exec (.ptmDialogueDone none) s = .next { s with pi := { s.pi with ptmTrigger := false, ptmValid := false } })
    ∧ (∀ (s : State) (r : ScrubFind), s.wf = true → s.ba.scrubEn = true → awake s [dBasin] = true → basinCap s ≠ 0 →
      let w := s.ba.scrubPos
      let pos := if 8 * (w + 1) < basinCap s then w + 1 else 0
      (readBad false s (8 * w) 8 = true → Ends (.patrolScrub r) s fun t =>
        t.ba = { s.ba with scrubPos := pos, basinUncorr := incHold s.ba.basinUncorr } ∧ Counted s t 18)
      ∧ (readBad false s (8 * w) 8 = false →
        (r = .clean → exec (.patrolScrub r) s = .next { s with ba := { s.ba with scrubPos := pos } })
        ∧ (r = .corrected → Ends (.patrolScrub r) s fun t =>
          t.ba = { s.ba with scrubPos := pos, basinCorr := incHold s.ba.basinCorr } ∧ Counted s t 19)
        ∧ (r = .uncorrectable → Ends (.patrolScrub r) s fun t =>
          t.ba = { s.ba with scrubPos := pos, basinBad := w :: s.ba.basinBad, basinUncorr := incHold s.ba.basinUncorr } ∧ Counted s t 18))))
/-! ## Rails, resets, start-up, management -/

namespace Sys2Proof.Claims

/-- The machine as reset leaves it, but for flash, fuses, the board's rails, the straps, and what the model itself carries. -/
def FreshOf (s t : State) (st : Straps) : Prop :=
  t = { State.reset with
        pi := { State.reset.pi with phase := if s.pins.vaux12 then .boot else .waitVaux
                                    dom := if s.pins.vaux12 then [] else allDark }
        pins := { State.reset.pins with strapHost := st.hostMode, strapTile := st.tileId, strapBoot := st.bootSrc
                                        vaux12 := s.pins.vaux12, vflash := s.pins.vflash, flashMiB := s.pins.flashMiB }
        ch := { State.reset.ch with minSvn := s.ch.minSvn }
        flash := s.flash, pending := s.pending, out := s.out, free := s.free }

/-- Every output is high-impedance. -/
def PinsFloat (t : State) : Prop :=
  alarmL t = .z ∧ thermL t = .z ∧ ttripL t = .z ∧ tileReadyPin t = .z ∧ wakeL t = .z ∧ smokePin false t = .z ∧ smokePin true t = .z

/-- CH0's agent takes management messages and can act. -/
def AgentActs (s : State) : Prop := recoveryAgent s = false ∧ agentRuns s = true

/-- The command sends one management message and does nothing else. -/
def Replies (c : Instr) (s : State) (bytes : List Byte) : Prop := exec c s = .next { s with out := s.out ++ [.mgmt bytes] }

/-- The command sends one signed SPDM response: data, a fresh nonce of 32 bytes, the device key's signature. -/
def Signs (c : Instr) (s : State) (data nonce : List Byte) : Prop :=
  Ends c s fun t => ∃ mine : List Byte, mine.length = 32
    ∧ t = { s with free := s.free + 1, out := s.out ++ [.mgmt (data ++ mine ++ Config.deviceSign (data ++ nonce ++ mine))] }

/-- A data object of the PF's DOE that carries an SPDM message of whole dwords, and the write that hands it over. -/
def spdmObject (m : List Byte) : List Byte := [1, 0, 1, 0] ++ natLe 4 (m.length / 4 + 2) ++ m
def doeGo : Instr := .registerWrite (.cfg 0) 0x1C8 4 0x80000000

/-- A verified image runs: its body in Chimney SRAM, its header held, every core in service running. -/
def ImageRuns (s1 t : State) (h body : List Byte) : Prop :=
  t.pi.phase = .bringUp ∧ t.ch.image = h ∧ t.ch.sram = memCells memDefault 0 body ∧ t.ch.svn = bv 32 (leAt h 12 4)
    ∧ t.ch.imageVer = bv 32 (leAt h 8 4) ∧ t.ch.mbVer = bv 16 (leAt h 16 2)
    ∧ ∀ c, c < 4 → s1.ch.bootCores.getLsbD c = true → (getCore t c).state = .running

end Sys2Proof.Claims

/-- POWER_UP, POWER_DOWN, IO_RAIL_LOSS, VAUX12_LOSS, VAUX12_IN_RANGE, VFLASH_LOSS, VFLASH_RETURN and TRACE_PORT_ENABLE
(15_reset_and_bringup R335 to R337, R339; 17_pins_and_electrical R365 to R369; 09_plots R208, R209): PWROK rising starts a cold
reset with the straps sampled; without it every output floats and every domain is DARK; the loss of VAUX12 leaves every
domain DARK, during HRST_L too, every core held and the link down, with source 46, and ends a start-up; its return starts a
start-up that waits for it, and nothing else before the next reset; flash and fuses stay. -/
def Obligations.RailsGovernPower : Prop :=
  (∀ (s : State) (st : Straps), s.pi.pwrok = false → Ends (.powerUp st) s fun t => FreshOf s t st)
    ∧ (∀ (s : State) (c : Instr), s.pi.pwrok = true → (c = .powerDown ∨ c = .ioRailLoss) → Ends c s fun t =>
        t.pi.pwrok = false ∧ PinsFloat t ∧ (∀ d, d < 14 → getPower t d = .dark) ∧ t.sb = State.reset.sb ∧ t.hg = State.reset.hg
          ∧ t.flash = s.flash ∧ t.ch.minSvn = s.ch.minSvn)
    ∧ (∀ s : State, s.wf = true → s.pins.vaux12 = true →
      ((s.pi.pwrok = false ∨ s.pins.vaux12Lost = true) →
        exec .vaux12Loss s = .next { s with pins := { s.pins with vaux12 := false } })
      ∧ (s.pi.pwrok = true → s.pins.vaux12Lost = false → Ends .vaux12Loss s fun t =>
        t.pins.vaux12Lost = true ∧ t.pins.vaux12 = false ∧ t.pi.waking = [] ∧ (∀ d, d < 14 → getPower t d = .dark)
          ∧ (∀ c, c < 4 → (getCore t c).state = .held) ∧ t.hp.up = false ∧ t.flash = s.flash ∧ t.ba.basin = [] ∧ t.ba.hbm = []
          ∧ t.pi.phase = (if startingUp s.pi.phase then .stopped else s.pi.phase) ∧ PortsLost s t
          ∧ (s.hp.up = true → Counted s t 29 ∧ t.hp.lost = true) ∧ (s.pi.trip = false → Counted s t 46)))
    ∧ (∀ s : State, s.pins.vaux12 = false → exec .vaux12Loss s = .next s)
    ∧ (∀ s : State,
      (s.pi.phase = .waitVaux → exec .vaux12InRange s = .next { s with
        pins := { s.pins with vaux12 := true, vaux12Lost := false }
        pi := { s.pi with phase := .boot, dom := if s.pi.trip then s.pi.dom else [] } })
      ∧ (s.pi.phase ≠ .waitVaux → s.pi.hrstLow = true → exec .vaux12InRange s = .next { s with
        pins := { s.pins with vaux12 := true, vaux12Lost := false }, pi := { s.pi with dom := if s.pi.trip then s.pi.dom else [] } })
      ∧ (s.pi.phase ≠ .waitVaux → s.pi.hrstLow = false →
        exec .vaux12InRange s = .next { s with pins := { s.pins with vaux12 := true } }))
    ∧ (∀ s : State, exec .vflashLoss s = .next { s with pins := { s.pins with vflash := false } }
        ∧ exec .vflashReturn s = .next { s with pins := { s.pins with vflash := true } })
    ∧ (∀ (s : State) (v : Bool), s.wf = true → s.pi.pwrok = true →
      ((v = false ∨ (getPort s 3).en = false) → exec (.tracePortEnable v) s = .next { s with pins := { s.pins with traceEn := v } })
      ∧ ((getPort s 3).en = true → Ends (.tracePortEnable true) s fun t =>
        t.pins.traceEn = s.pins.traceEn ∧ t.hg.conflictTrace = true ∧ Counted s t 54))

/-- HRST_L, HRST_L_RELEASE and WARM_RESET (15_reset_and_bringup R334, R335, R348; 12_smokebox R264, R283): HRST_L keeps tile
time, SB_STATUS, the conditions that last and what Table 15-2 keeps, joins a cold reset that still starts up, closes an open
episode with a snapshot, clears the actions, and leaves the rest as reset; the release samples the straps and starts up; a warm
reset tears every plot down, gives plot 0 again where the service level allows it, restores the limits, and ends the gang; what
the management port held is answered after it. While the recovery agent waits, or no image runs, a warm reset only clears the
gang and the limits. -/
def Obligations.ResetsKeepAndClear : Prop :=
  (∀ s : State, s.wf = true → s.pi.pwrok = true → s.pi.hrstLow = false →
      Ends .hrstL s fun t =>
        t.pi.hrstLow = true ∧ t.pi.resetLevel = (if coldRuns s then 0 else 1) ∧ t.pi.time = s.pi.time ∧ t.pi.health = s.pi.health ∧ t.pi.trip = s.pi.trip
          ∧ t.pins.ttripLatch = s.pins.ttripLatch ∧ PinsFloat t ∧ t.hp = { State.reset.hp with lost := s.hp.lost }
          ∧ t.pi.alert = s.pi.alert ∧ t.pi.clamp = s.pi.clamp ∧ t.pi.tempMax = s.pi.tempMax ∧ t.pi.refAbsent = s.pi.refAbsent
          ∧ t.pins.vaux12Lost = (s.pins.vaux12Lost && !s.pins.vaux12) ∧ t.pi.waking = [] ∧ t.pi.hclkLevel = State.reset.pi.hclkLevel
          ∧ t.sb.status = s.sb.status ∧ t.sb.epId = s.sb.epId
          ∧ t.sb.epOpen = false ∧ (t.sb.escQuar = false ∧ t.sb.escHgStop = false ∧ t.sb.escAlarm = false ∧ t.sb.escSmoke = false)
          ∧ (s.sb.epOpen = true → SnapshotTaken s t 0 3) ∧ (s.sb.epOpen = false → t.sb.recMem = s.sb.recMem ∧ t.sb.snaps = s.sb.snaps)
          ∧ (∀ n, (getSrc t n).events = (getSrc s n).events ∧ (getSrc t n).effSev = (getSrc s n).effSev
              ∧ (getSrc t n).sev = sourceSev n ∧ (getSrc t n).chan = sourceChan n)
          ∧ t.hg = State.reset.hg ∧ t.he = State.reset.he ∧ t.ap = State.reset.ap ∧ t.fl = State.reset.fl ∧ t.cn = State.reset.cn
          ∧ t.ba.basin = s.ba.basin ∧ t.ba.hbm = s.ba.hbm ∧ t.flash = s.flash ∧ t.ch.minSvn = s.ch.minSvn)
    ∧ (∀ s : State, (s.pi.pwrok = false ∨ s.pi.hrstLow = true) → exec .hrstL s = .next s)
    ∧ (∀ (s : State) (st : Straps), (s.pi.pwrok = false ∨ s.pi.hrstLow = false) → exec (.hrstLRelease st) s = .next s)
    ∧ (∀ (s : State) (st : Straps), s.pi.pwrok = true → s.pi.hrstLow = true →
      exec (.hrstLRelease st) s = .next { s with
        pi := { s.pi with hrstLow := false, phase := if s.pins.vaux12 then .boot else .waitVaux
                          dom := if s.pi.trip then s.pi.dom else if s.pins.vaux12 then [] else allDark }
        pins := { s.pins with strapHost := st.hostMode, strapTile := st.tileId, strapBoot := st.bootSrc, outputsOn := true } })
    ∧ (∀ s : State, s.wf = true → s.pi.warmDue = true → s.pins.vaux12Lost = false → s.pi.phase ≠ .recovery → s.pi.phase ≠ .stopped →
      Ends .warmReset s fun t =>
        t.pi.warmDue = false ∧ t.pi.phase = .ready ∧ t.pi.service = serviceWord t (serviceLevel t)
          ∧ t.pins.tileReady = (decide (serviceLevel t < 2) && !s.pi.trip) ∧ t.pi.time = s.pi.time
          ∧ (∀ p, p ≠ 0 → (getPlot t p).state = .none ∧ (getPlot t p).quota = 1024 ∧ (getPlot t p).share = 1)
          ∧ (getPlot t 0).state = (if serviceLevel t < 2 then .live else .none)
          ∧ (t.pi.clkMax = 6 ∧ t.pi.clkMin = 0 ∧ t.pi.powerCap = 700 ∧ t.pi.tAlert = 95 ∧ t.pi.fastEn = false)
          ∧ (t.sb.escQuar = false ∧ t.sb.escHgStop = false ∧ t.sb.escAlarm = false ∧ t.sb.escSmoke = false)
          ∧ t.cn.state = .idle ∧ t.cn.form = false ∧ t.cn.members = 0 ∧ (∀ n, n < 4 → (getPort t n).en = false)
          ∧ t.ba.hbm = s.ba.hbm ∧ (s.pi.mctpHeld = [] → t.flash = s.flash) ∧ t.ch.modeSeq = none
          ∧ (∀ n, n < 16 → (getSlot t n).lease = none ∧ (getTable t n).bank0 = none ∧ (getTable t n).bank1 = none))
    ∧ (∀ s : State, s.wf = true → s.pi.warmDue = true → s.pins.vaux12Lost = false → (s.pi.phase = .recovery ∨ s.pi.phase = .stopped) →
      Ends .warmReset s fun t => t.pi.warmDue = false ∧ t.pi.phase = s.pi.phase ∧ t.cn.form = false
        ∧ (t.pi.clkMax = 6 ∧ t.pi.clkMin = 0 ∧ t.pi.powerCap = 700 ∧ t.pi.tAlert = 95) ∧ t.cn.state = .idle
        ∧ (t.sb.escQuar = false ∧ t.sb.escHgStop = false ∧ t.sb.escAlarm = false ∧ t.sb.escSmoke = false) ∧ SameBytes s t)
    ∧ (∀ s : State, (s.pi.warmDue = false ∨ s.pins.vaux12Lost = true) → exec .warmReset s = .next s)

/-- BOOT_VERIFY, RECOVERY_IMAGE, BRING_UP, PLDM_FIRMWARE_UPDATE and FIRMWARE_ACTIVATE (11_chimney_firmware R239 to R244;
14_host_port_and_management R328, R330; 15_reset_and_bringup R337, R338, R341 to R344): the ROM starts the newer slot that
passes every check, the other when it fails, and waits for an image when both fail or BOOT_SRC says so; bring-up marks failed
units out, creates plot 0 and writes PI_SERVICE; an update writes only the slot that did not boot, and activation makes it the
newest; an image of another component, an update without flash and an activation without a checked slot are refused. The
answers' bytes are the model's choice (log 50). -/
def Obligations.FirmwareStarts : Prop :=
  (∀ s : State, s.wf = true → s.pi.phase = .boot → s.pi.pwrok = true → s.pi.trip = false → s.pins.vaux12Lost = false →
      s.pins.vaux12 = true →
      let s1 := readRecord s
      let s2 := { s1 with ch := { s1.ch with bootCores := coresIn s1 } }
      let k := firstSlot s
      (coreIn s1 0 = false → exec .bootVerify s = .next { s1 with pi := { s1.pi with phase := .stopped, service := s1.pi.service ||| 3 } })
      ∧ (coreIn s1 0 = true → s.pins.strapBoot = true → exec .bootVerify s = .next { s2 with pi := { s2.pi with phase := .recovery } })
      ∧ (coreIn s1 0 = true → s.pins.strapBoot = false → slotFail s1 k = 0 → Ends .bootVerify s fun t =>
        ImageRuns s2 t (slotHeader s k) (slotBody s k) ∧ t.ch.bootSlot = k ∧ t.ch.bootSrc = false ∧ t.flash = s.flash)
      ∧ (coreIn s1 0 = true → s.pins.strapBoot = false → slotFail s1 k ≠ 0 → slotFail s1 (!k) = 0 → Ends .bootVerify s fun t =>
        ImageRuns s2 t (slotHeader s (!k)) (slotBody s (!k)) ∧ t.ch.bootSlot = !k ∧ t.ch.bootSrc = false
          ∧ (if k then t.ch.failB else t.ch.failA) = bv 3 (slotFail s1 k) ∧ Counted s1 t 53)
      ∧ (coreIn s1 0 = true → s.pins.strapBoot = false → slotFail s1 k ≠ 0 → slotFail s1 (!k) ≠ 0 → Ends .bootVerify s fun t =>
        t.pi.phase = .recovery ∧ t.ch.flashFail = true ∧ t.ch.failA = bv 3 (slotFail s1 false) ∧ t.ch.failB = bv 3 (slotFail s1 true)))
    ∧ (∀ s : State, (s.pi.phase ≠ .boot ∨ s.pi.pwrok = false ∨ s.pi.trip = true ∨ s.pins.vaux12Lost = true ∨ s.pins.vaux12 = false) →
      exec .bootVerify s = .next s)
    ∧ (∀ (s : State) (b : Bool), (s.pins.vflash = false ∨ s.pins.flashMiB < 64 ∨ 256 < s.pins.flashMiB) → slotFail s b = 6)
    ∧ (∀ (s : State) (comp : BitVec 16) (image : List Byte), s.wf = true → recoveryAgent s = true → s.pins.vaux12Lost = false →
      let h := padTo 4096 image
      let code := if image.length ≠ 4096 + bodySize h then 1 else imageFail h (image.drop 4096) s.ch.minSvn
      (comp = 1 → code = 0 → Ends (.recoveryImage ⟨comp, image⟩) s fun t =>
        ImageRuns s t h (image.drop 4096) ∧ t.ch.bootSrc = true ∧ t.out = s.out ++ [.mgmt [0]] ∧ t.flash = s.flash)
      ∧ (comp = 1 → code ≠ 0 → Replies (.recoveryImage ⟨comp, image⟩) s (natLe 1 code))
      ∧ (comp ≠ 1 → Replies (.recoveryImage ⟨comp, image⟩) s [7]))
    ∧ (∀ (s : State) (comp : BitVec 16) (image : List Byte), recoveryAgent s = false → exec (.recoveryImage ⟨comp, image⟩) s = .next s)
    ∧ (∀ (s : State) (failed : BitVec 128), s.wf = true → s.pi.phase = .bringUp → compRuns s 0 = true → awake s [dChimney] = true →
      Ends (.bringUp failed) s fun t =>
        t.pi.phase = .ready ∧ t.pi.service = serviceWord t (serviceLevel t)
          ∧ t.pins.tileReady = (decide (serviceLevel t < 2) && !s.pi.trip) ∧ (∀ d, getPower t d = .stoked)
          ∧ t.he.modeCur = !wholeOk t ∧ (∀ b, b < 24 → t.ba.bankIn.getLsbD b = !outBit t (bankBit b))
          ∧ (∀ k, k < 8 → t.ba.stackIn.getLsbD k = !outBit t (stackBit k)) ∧ t.pi.hclkLevel = (if s.pi.clamp then 2 else 6)
          ∧ (compRuns s 3 = true → (∀ c, c < 4 → failed.getLsbD (coreBit c) = false) →
              ∀ b ∈ unitBits, failed.getLsbD b = true → outBit t b = true)
          ∧ (serviceLevel t < 2 → (getPlot t 0).state = .live ∧ (getPlot t 0).furFirst = 0 ∧ (getPlot t 0).furCount = 64
              ∧ (getPlot t 0).evtCount = 1024 ∧ (getPlot t 0).sluiceMax = 32 ∧ (getPlot t 0).slotMask = 0
              ∧ ∀ i, i < 64 → (getFur t i).alloc = true ∧ (getFur t i).plot = 0 ∧ (getFur t i).localIdx = bv 10 i
                  ∧ (getFur t i).state = .unarmed ∧ (getFur t i).queue = []))
    ∧ (∀ (s : State) (failed : BitVec 128), (s.pi.phase ≠ .bringUp ∨ compRuns s 0 = false ∨ awake s [dChimney] = false) →
      exec (.bringUp failed) s = .next s)
    ∧ (∀ (s : State) (comp : BitVec 16) (image : List Byte), s.wf = true → agentRuns s = true →
      let b := updateSlot s
      (comp = 1 → s.pins.vflash = true → image.length ≤ 0x01000000 →
        Ends (.pldmFirmwareUpdate ⟨comp, image⟩) s fun t => ∃ code, code ≤ 6 ∧ t.out = s.out ++ [.mgmt (natLe 1 code)]
          ∧ (∀ a, a < slotBase b ∨ slotBase b + 0x01000000 ≤ a → tblGet flashDefault t.flash a = tblGet flashDefault s.flash a)
          ∧ (code = 0 → t.ch.updSlot = some b ∧ slotFail t b = 0 ∧ readFlash t (slotBase b) image.length = image)
          ∧ (code ≠ 0 → t.ch.updSlot = none ∧ ∀ a, slotBase b ≤ a → a < slotBase b + 4096 → tblGet flashDefault t.flash a = 0xFF)
          ∧ t = { s with flash := t.flash, out := t.out, ch := { s.ch with updSlot := t.ch.updSlot } })
      ∧ (s.ch.bootSrc = false → b ≠ s.ch.bootSlot)
      ∧ (comp = 1 → s.pins.vflash = false → Replies (.pldmFirmwareUpdate ⟨comp, image⟩) s [6])
      ∧ (comp ≠ 1 → Replies (.pldmFirmwareUpdate ⟨comp, image⟩) s [7]))
    ∧ (∀ s : State, s.wf = true → agentRuns s = true →
      (∀ b, s.ch.updSlot = some b → s.pins.vflash = true → Ends .firmwareActivate s fun t =>
        bootSeq (slotHeader t b) = (largestSeq s + 1) % 2 ^ 32 ∧ seqOk (slotHeader t b) = true
          ∧ (∀ a, a < slotBase b + 608 ∨ slotBase b + 616 ≤ a → tblGet flashDefault t.flash a = tblGet flashDefault s.flash a)
          ∧ t = { s with flash := t.flash, out := s.out ++ [.mgmt [0]], ch := { s.ch with updSlot := none } })
      ∧ ((s.ch.updSlot = none ∨ s.pins.vflash = false) → Replies .firmwareActivate s [1]))

/-- The management port (14_host_port_and_management R326 to R329; 11_chimney_firmware R242, R246): ENTDAA, SETDASA and RSTDAA are
answered by the port itself while it is powered; MCTP_CONTROL, SET_ENDPOINT_ID, PLDM_BASE_DISCOVERY, PLDM_MONITORING,
SPDM_NEGOTIATION, SPDM_GET_CERTIFICATE, SPDM_CHALLENGE and SPDM_GET_MEASUREMENTS answer and change nothing else, or report an
error, or are held while CH0 restarts or CHIMNEY sleeps; the recovery agent answers control messages alone; a message of
another type raises source 31. In the PF's DOE the host writes its mailbox dword by dword and hands an object over: SPDM's
negotiation and certificate are answered there too, and a key exchange is refused. The byte layouts of the responses, the room
for held messages, and the places and codes of the DOE's registers and of SPDM are the model's choice (logs 50, 51, 114). -/
def Obligations.ManagementAnswers : Prop :=
  (∀ (s : State) (addr : BitVec 7) (c : Instr), (c = .entdaa addr ∨ c = .setdasa addr) →
      (portLive s = true → s.hp.i3c = false → exec c s = .next { s with hp := { s.hp with i3c := true, dynAddr := addr } })
      ∧ ((portLive s = false ∨ s.hp.i3c = true) → exec c s = .next s))
    ∧ (∀ s : State, (portLive s = true → exec .rstdaa s = .next { s with hp := { s.hp with i3c := false, dynAddr := 0 } })
      ∧ (portLive s = false → exec .rstdaa s = .next s))
    ∧ (∀ (s : State) (eid cmd : BitVec 8), (recoveryAgent s = true ∨ AgentActs s) →
      Replies (.mctpControl 2 0) s (controlReply 2 0 (natLe 1 s.hp.eid.toNat ++ [0, 0]))
        ∧ Replies (.mctpControl 4 0) s (controlReply 4 0 Config.mctpVersions)
        ∧ Replies (.mctpControl 5 0) s (controlReply 5 0 [3, 0, 1, 5])
        ∧ (cmd ≠ 2 → cmd ≠ 4 → cmd ≠ 5 → Replies (.mctpControl cmd 0) s (controlReply cmd 5 []))
        ∧ exec (.setEndpointId eid) s = .next { s with hp := { s.hp with eid := eid }
                                                       out := s.out ++ [.mgmt (controlReply 1 0 (natLe 1 eid.toNat))] })
    ∧ (∀ (s : State) (cmd mtype : BitVec 8), s.wf = true → (recoveryAgent s = true ∨ AgentActs s) → mtype ≠ 0 → mtype ≠ 1 → mtype ≠ 5 →
      Ends (.mctpControl cmd mtype) s fun t => Counted s t 31 ∧ t.hg = s.hg ∧ SameBytes s t)
    ∧ (∀ (s : State) (cmd mtype : BitVec 8), (mtype = 1 ∨ mtype = 5) → exec (.mctpControl cmd mtype) s = .next s)
    ∧ (∀ s : State, AgentActs s →
      Replies .pldmBaseDiscovery s ([0] ++ pldmTypes)
        ∧ (∀ n v, s.pi.phase = .ready → n ≠ 1 → sensorValue s n = some v → Replies (.pldmMonitoring n) s ([0] ++ natLe 4 v))
        ∧ (s.pi.phase = .ready → Ends (.pldmMonitoring 1) s fun t => ∃ v : BitVec 8,
            t = { s with free := s.free + 1, out := s.out ++ [.mgmt ([0] ++ natLe 4 v.toNat)] })
        ∧ (∀ n, s.pi.phase = .ready → 6 ≤ n → Replies (.pldmMonitoring n) s [0x80])
        ∧ (∀ n, s.pi.phase ≠ .ready → exec (.pldmMonitoring n) s = .next s))
    ∧ (∀ (s : State) (nonce : List Byte), AgentActs s →
      Replies .spdmNegotiation s spdmOffer
        ∧ (∀ slot off len,
            (slot = 0 → s.pins.vflash = true → off < (certChain s).length →
              Replies (.spdmGetCertificate slot off len) s (((certChain s).drop off).take len))
            ∧ ((slot ≠ 0 ∨ s.pins.vflash = false ∨ (certChain s).length ≤ off) →
              Replies (.spdmGetCertificate slot off len) s spdmError))
        ∧ (s.pins.vflash = true → Signs (.spdmChallenge nonce) s (sha384 (certChain s)) nonce)
        ∧ (s.pins.vflash = false → Replies (.spdmChallenge nonce) s spdmError)
        ∧ (∀ i b, measurements s i = some b → Signs (.spdmGetMeasurements i nonce) s b nonce)
        ∧ (∀ i, 5 < i → i ≠ 255 → Replies (.spdmGetMeasurements i nonce) s spdmError))
    ∧ (∀ (s : State) (v : BitVec 64), fnThere s 0 = true →
      exec (.registerWrite (.cfg 0) 0x1D0 4 v) s = .next { s with hp := { s.hp with doe := s.hp.doe ++ natLe 4 v.toNat } })
    ∧ (∀ (s : State) (m : List Byte), AgentActs s → fnThere s 0 = true → m.length % 4 = 0 → m.length ≤ 64 → s.hp.doe = spdmObject m →
      let out (b : List Byte) : State := { s with hp := { s.hp with doe := [] }, out := s.out ++ [.doe b] }
      (leAt m 1 1 = 0x84 → exec doeGo s = .next (out spdmOffer))
      ∧ (leAt m 1 1 = 0x82 → leAt m 2 1 = 0 → s.pins.vflash = true → leAt m 4 2 < (certChain s).length →
          exec doeGo s = .next (out (((certChain s).drop (leAt m 4 2)).take (leAt m 6 2))))
      ∧ (leAt m 1 1 = 0xE4 → exec doeGo s = .next (out spdmError)))
    ∧ (∀ (s : State) (n : Nat), recoveryAgent s = true →
      exec .pldmBaseDiscovery s = .next s ∧ exec (.pldmMonitoring n) s = .next s ∧ exec .firmwareActivate s = .next s
        ∧ exec .spdmNegotiation s = .next s)
    ∧ (∀ (s : State) (c : Instr) (m : MgmtMsg), recoveryAgent s = false → imageAgent s = true → agentRuns s = false →
      s.pi.mctpHeld.length < heldRoom →
      ((∃ n, c = .pldmMonitoring n ∧ m = .sensor n) ∨ (∃ e, c = .setEndpointId e ∧ m = .setEid e)
        ∨ (∃ k image, c = .pldmFirmwareUpdate ⟨k, image⟩ ∧ m = .update k image) ∨ (c = .firmwareActivate ∧ m = .activate)
        ∨ (c = .pldmBaseDiscovery ∧ m = .pldmDiscovery) ∨ (c = .spdmNegotiation ∧ m = .spdmNegotiation false)
        ∨ (∃ n, c = .spdmChallenge n ∧ m = .challenge false n)
        ∨ (∃ i n, c = .spdmGetMeasurements i n ∧ m = .measurements false i n)) →
      Ends c s fun t => t = { s with pi := { s.pi with mctpHeld := s.pi.mctpHeld ++ [m], waking := t.pi.waking } }
        ∧ (awake s [dChimney] = false → s.pi.trip = false → s.pins.vaux12 = true → s.pins.vaux12Lost = false →
            t.pi.waking.contains dChimney = true))

/-! ## The host port -/

namespace Sys2Proof.Claims

/-- Step 1 of a warm reset for a cause: a tile that is ready, that waits for an image or that has stopped is due a warm reset
and not ready; while one is due the new cause joins it. -/
def WarmStarts (s t : State) (cause : BitVec 3) : Prop :=
  ((s.pi.phase = .ready ∨ s.pi.phase = .recovery ∨ s.pi.phase = .stopped) → s.pi.warmDue = false →
    t.pi.warmDue = true ∧ levelOf t = 3 ∧ t.pi.warmCause = cause ∧ t.pi.resetLevel = 2 ∧ t.pi.warmCount = incHold s.pi.warmCount
      ∧ t.pins.tileReady = false)
    ∧ (s.pi.warmDue = true → t.pi.warmDue = true ∧ t.pi.warmCause = s.pi.warmCause ∧ t.pi.warmCount = s.pi.warmCount)

/-- The host's configuration of the tile is gone: SR-IOV, every function's, and under a conventional reset the HDM decoder and
what AER and RAS report too. -/
def ConfigGone (t : State) (conventional : Bool) : Prop :=
  t.hp.numVfs = 0 ∧ t.hp.vfWant = 0 ∧ t.hp.vfOn = false ∧ t.hp.master = [] ∧ t.hp.d3 = [] ∧ t.hp.msixOn = [] ∧ t.hp.msixMask = []
    ∧ t.hp.vectors = [] ∧ (conventional = true → t.hp.cfg = [] ∧ t.ba.hdmCommitted = false ∧ t.ba.hdmWait = false ∧ t.ba.hdmLock = false
      ∧ t.ba.hdmError = false)

/-- The configuration of function `p` is back at reset and no other function's has changed. -/
def FnReset (s t : State) (p : Nat) : Prop :=
  (p ∉ t.hp.master ∧ p ∉ t.hp.d3 ∧ p ∉ t.hp.msixOn ∧ p ∉ t.hp.msixMask)
    ∧ (∀ q, q ≠ p → (q ∈ t.hp.master ↔ q ∈ s.hp.master) ∧ (q ∈ t.hp.d3 ↔ q ∈ s.hp.d3) ∧ (q ∈ t.hp.msixOn ↔ q ∈ s.hp.msixOn)
        ∧ (q ∈ t.hp.msixMask ↔ q ∈ s.hp.msixMask))

end Sys2Proof.Claims

/-- CXL_MEM_READ and CXL_MEM_WRITE (06_basin_and_sluices R126 to R128; 14_host_port_and_management R313): decoder 0 maps host address base + d to
device address d; a request in a plot's HBM window reads or writes the 64-byte granule; one outside every window reads zeros,
writes nothing, counts as stray and, while SEEN was 0, raises source 56; an uncorrectable word is answered as poison with
source 21. A request that HBM cannot serve yet wakes it; one that the decoder does not take reaches nothing. CXL_CACHE_SNOOP,
ATS_INVALIDATION, HDM_COMMIT, HDM_DECODER_UNCOMMIT and DOE_CDAT_READ (10_pilot_and_power R226, R227;
14_host_port_and_management R314): a snooped line is dropped and reported; while FRONT sleeps none is held; the named
translations go; a valid commit takes effect once HBM is STOKED, any other sets Error Not Committed; the CDAT is
returned, its bytes the model's choice (log 50). -/
def Obligations.HostRequestsAnswered : Prop :=
  (∀ (s : State) (hpa : Nat), memDecoded s hpa = true → s.ba.hdmBase + deviceAddr s hpa = hpa ∧ deviceAddr s hpa < hbmCap s)
    ∧ (∀ (s : State) (hpa : Nat) (b : List Byte), memDecoded s hpa = false →
      exec (.cxlMemRead hpa) s = .next s ∧ exec (.cxlMemWrite hpa b) s = .next s)
    ∧ (∀ (s : State) (hpa : Nat), s.wf = true → memDecoded s hpa = true → hbmServes s = true →
      let a := granule (deviceAddr s hpa)
      (inSomeWindow s a = true → readBad true s a 64 = false → Ends (.cxlMemRead hpa) s fun t => ∃ ws,
        t = { s with pi := { s.pi with waking := ws }, out := s.out ++ [.cxlData (readMem true s a 64) false] })
      ∧ (inSomeWindow s a = true → readBad true s a 64 = true → Ends (.cxlMemRead hpa) s fun t =>
        (∃ b, t.out.getLast? = some (.cxlData b true)) ∧ t.ba.hbmUncorr = incHold s.ba.hbmUncorr ∧ Counted s t 21 ∧ SameBytes s t)
      ∧ (inSomeWindow s a = false → Ends (.cxlMemRead hpa) s fun t =>
        t.out.getLast? = some (.cxlData (List.replicate 64 0) false) ∧ t.ba.strayCount = incHold s.ba.strayCount ∧ t.ba.straySeen = true
          ∧ (s.ba.straySeen = false → Counted s t 56) ∧ (s.ba.straySeen = true → t.sb = s.sb) ∧ SameBytes s t))
    ∧ (∀ (s : State) (hpa : Nat) (b : List Byte), s.wf = true → memDecoded s hpa = true → hbmServes s = true →
      let a := granule (deviceAddr s hpa)
      (inSomeWindow s a = true → s.ba.stackFail = 0 → Ends (.cxlMemWrite hpa b) s fun t =>
        readMem true t a 64 = padTo 64 b ∧ BytesKeep true a 64 s t ∧ t.out = s.out ++ [.cxlDone] ∧ t.hg = s.hg)
      ∧ (inSomeWindow s a = false → Ends (.cxlMemWrite hpa b) s fun t =>
        t.ba.strayCount = incHold s.ba.strayCount ∧ t.ba.straySeen = true ∧ t.out.getLast? = some .cxlDone
          ∧ (s.ba.straySeen = false → Counted s t 56) ∧ SameBytes s t))
    ∧ (∀ (s : State) (hpa : Nat) (b : List Byte), s.wf = true → memDecoded s hpa = true → hbmServes s = false →
      (Ends (.cxlMemRead hpa) s fun t => ∃ ws, t = { s with pi := { s.pi with waking := ws } })
        ∧ (Ends (.cxlMemWrite hpa b) s fun t => ∃ ws, t = { s with pi := { s.pi with waking := ws } }))
    ∧ (∀ (s : State) (addr : Nat), s.pi.pwrok = true → s.hp.up = true → s.hp.cxl = true →
      (awake s [dFront] = true → exec (.cxlCacheSnoop addr) s = .next { s with
        sc := { s.sc with lines := s.sc.lines.filter fun l => l.addr != granule addr }
        out := s.out ++ [.snoopResp (s.sc.lines.any fun l => l.addr == granule addr)] })
      ∧ (awake s [dFront] = false → exec (.cxlCacheSnoop addr) s = .next { s with out := s.out ++ [.snoopResp false] }))
    ∧ (∀ (s : State) (addr : Nat), (s.hp.up = false ∨ s.hp.cxl = false) → exec (.cxlCacheSnoop addr) s = .next s)
    ∧ (∀ (s : State) (p addr size : Nat), s.pi.pwrok = true → s.hp.up = true →
      (p ≤ s.hp.numVfs → Ends (.atsInvalidation p addr size) s fun t =>
        (∀ l, l ∈ t.sc.trans ↔ l ∈ s.sc.trans ∧ ¬ (l.plot = p ∧ overlaps l.page 4096 addr size = true))
          ∧ t = { s with sc := { s.sc with trans := t.sc.trans }, out := s.out ++ [.atsDone p] })
      ∧ (s.hp.numVfs < p → exec (.atsInvalidation p addr size) s = .next s))
    ∧ (∀ (s : State) (base size : Nat) (lock : Bool), s.wf = true → s.hp.up = true →
      (s.ba.hdmLock = false ∨ (s.ba.hdmCommitted = false ∧ s.ba.hdmWait = false)) →
      (∀ ways skip, hdmOk s base size ways skip = false → exec (.hdmCommit base size ways skip lock) s
        = .next { s with ba := { s.ba with hdmWait := false, hdmCommitted := false, hdmError := true } })
      ∧ (s.hp.cxl = true → size = hbmCap s → size ≠ 0 → base % 2 ^ 28 = 0 → size % 2 ^ 28 = 0 →
        Ends (.hdmCommit base size 1 0 lock) s fun t =>
          t.ba.hdmBase = base ∧ t.ba.hdmSize = size ∧ t.ba.hdmLock = lock ∧ t.ba.hdmError = false
            ∧ t.ba.hdmCommitted = awake s [dHbm] ∧ t.ba.hdmWait = !awake s [dHbm] ∧ t.hg = s.hg ∧ SameBytes s t)
      ∧ exec .hdmDecoderUncommit s = .next { s with ba := { s.ba with hdmWait := false, hdmCommitted := false } })
    ∧ (∀ (s : State) (base size ways skip : Nat) (lock : Bool), s.ba.hdmLock = true → (s.ba.hdmCommitted = true ∨ s.ba.hdmWait = true) →
      exec (.hdmCommit base size ways skip lock) s = .next s ∧ exec .hdmDecoderUncommit s = .next s)
    ∧ (∀ s : State, s.pi.pwrok = true →
      (s.hp.up = true → exec .doeCdatRead s = .next { s with out := s.out ++ [.doe (cdat s)] })
      ∧ (s.hp.up = false → exec .doeCdatRead s = .next s))

/-- VF_FLR, PF_FLR, HOT_RESET, LINK_DISABLE, DL_DOWN, BUS_MASTER_DISABLE, VF_ENABLE, VF_REMOVE, UCIE_MODULE_FAIL and LINK_UP
(14_host_port_and_management R307, R308, R316, R318, R325; 09_plots R203, R206; 15_reset_and_bringup R334, R348): a Function Level
Reset sets the function's configuration back, resets a LIVE plot, waits on a quarantined one, and joins a warm reset; the resets
of the physical function and of the link start a warm reset with their cause; a link that is lost, by its last module too,
raises source 29; the link runs on the lowest-numbered 4, 2 or 1 modules that work. What each reset clears of configuration
space is the model's choice (log 60). -/
def Obligations.FunctionsAndLink : Prop :=
  (∀ (s : State) (p : Nat), s.wf = true → s.hp.up = true → 1 ≤ p → p ≤ s.hp.numVfs →
      (((getPlot s p).state = .none ∨ s.pi.warmDue = true) → Ends (.vfFlr p) s fun t =>
        FnReset s t p ∧ t = { s with hp := { t.hp with up := s.hp.up, numVfs := s.hp.numVfs }, out := s.out ++ [.flrDone p] })
      ∧ ((getPlot s p).state = .quarantined → s.pi.warmDue = false → Ends (.vfFlr p) s fun t =>
        FnReset s t p ∧ getPlot t p = { getPlot s p with flrHeld := true } ∧ (∀ q, q ≠ p → getPlot t q = getPlot s q) ∧ t.out = s.out)
      ∧ ((getPlot s p).state = .live → s.pi.warmDue = false → Ends (.vfFlr p) s fun t =>
        FnReset s t p ∧ (getPlot t p).state = .live ∧ (getPlot t p).epoch = (getPlot s p).epoch + 1
          ∧ (getPlot t p).resets = incHold (getPlot s p).resets
          ∧ (getPlot t p).mail = {} ∧ (∀ q, q ≠ p → getPlot t q = getPlot s q) ∧ Out.flrDone p ∈ t.out))
    ∧ (∀ (s : State) (p : Nat), (s.hp.up = false ∨ p = 0 ∨ s.hp.numVfs < p) → exec (.vfFlr p) s = .next s)
    ∧ (∀ s : State, s.wf = true → s.hp.up = true →
      (Ends .pfFlr s fun t => ConfigGone t false ∧ WarmStarts s t 1 ∧ t.hp.up = true ∧ SameBytes s t)
      ∧ (Ends .hotReset s fun t => ConfigGone t true ∧ WarmStarts s t 2 ∧ t.hp.up = true ∧ SameBytes s t)
      ∧ (Ends .linkDisable s fun t => ConfigGone t true ∧ WarmStarts s t 3 ∧ t.hp.up = false ∧ t.hp.downSeen = true ∧ SameBytes s t)
      ∧ (s.pi.pwrok = true → Ends .dlDown s fun t =>
        ConfigGone t true ∧ WarmStarts s t 4 ∧ t.hp.up = false ∧ t.hp.downSeen = true ∧ t.hp.lost = true ∧ Counted s t 29
          ∧ SameBytes s t))
    ∧ (∀ s : State, s.hp.up = false → exec .pfFlr s = .next s ∧ exec .hotReset s = .next s ∧ exec .linkDisable s = .next s
        ∧ exec .dlDown s = .next s)
    ∧ (∀ (s : State) (fn : Nat), s.hp.up = true → fn ≤ s.hp.numVfs →
      exec (.busMasterDisable fn) s = .next { s with hp := { s.hp with master := s.hp.master.filter (· ≠ fn) } })
    ∧ (∀ (s : State) (n : Nat), s.wf = true → s.hp.up = true →
      (n ≤ 63 → s.hp.numVfs < n → exec (.vfEnable n) s = .next { s with hp := { s.hp with numVfs := n, vfWant := n, vfOn := true } })
      ∧ ((63 < n ∨ n ≤ s.hp.numVfs) → exec (.vfEnable n) s = .next s)
      ∧ (s.hp.numVfs ≤ n → exec (.vfRemove n) s = .next s)
      ∧ (n < s.hp.numVfs → Ends (.vfRemove n) s fun t =>
        t.hp.numVfs = n ∧ t.hp.vfWant = n ∧ t.hp.vfOn = decide (n ≠ 0)
          ∧ (∀ k, n < k → k ≤ s.hp.numVfs → k ∉ t.hp.master ∧ k ∉ t.hp.msixOn)
          ∧ (∀ k, k ≤ n → (k ∈ t.hp.master ↔ k ∈ s.hp.master) ∧ (k ∈ t.hp.msixOn ↔ k ∈ s.hp.msixOn))
          ∧ (∀ p, p ≤ n ∨ s.hp.numVfs < p → getPlot t p = getPlot s p)
          ∧ (∀ p, n < p → p ≤ s.hp.numVfs → (getPlot s p).state = .live → s.pi.warmDue = false →
              (getPlot t p).state = .live ∧ (getPlot t p).epoch = (getPlot s p).epoch + 1)))
    ∧ (∀ (s : State) (m : Nat), s.wf = true → s.hp.up = true → s.pins.strapHost = 0 → m < 4 → s.hp.modules.getLsbD m = true →
      let rest := setBit s.hp.modules m false
      (rest ≠ 0 → Ends (.ucieModuleFail m) s fun t =>
        t.hp = { s.hp with modules := rest, carry := linkModules rest, lanes := bv 8 (16 * moduleSet rest), vectors := t.hp.vectors }
          ∧ Counted s t 58 ∧ (compRuns s 3 = true → outBit t (moduleBit m) = true) ∧ SameBytes s t)
      ∧ (rest = 0 → Ends (.ucieModuleFail m) s fun t =>
        t.hp.up = false ∧ t.hp.lost = true ∧ WarmStarts s t 4 ∧ Counted s t 29 ∧ ConfigGone t true
          ∧ (getSrc t 58).events = (getSrc s 58).events ∧ (compRuns s 3 = true → outBit t (moduleBit m) = true)))
    ∧ (∀ v : BitVec 4, popCount (linkModules v).toNat 4 = moduleSet v ∧ moduleSet v ≠ 3
        ∧ (∀ i j, i < j → j < 4 → (linkModules v).getLsbD j = true → v.getLsbD i = true → (linkModules v).getLsbD i = true))
    ∧ (∀ (s : State) (lanes : BitVec 8) (rate : BitVec 3) (cxl : Bool) (ms : BitVec 4), phyCan s = true →
      (s.pins.strapHost = 0 → ms &&& modulesIn s ≠ 0 → rate = 5 → Ends (.linkUp lanes rate cxl ms) s fun t =>
        t = { s with hp := { s.hp with up := true, cxl := cxl, lanes := bv 8 (16 * moduleSet (ms &&& modulesIn s)), rate := rate
                                       modules := ms &&& modulesIn s, carry := linkModules (ms &&& modulesIn s), lost := false } })
      ∧ (s.pins.strapHost = 1 → (lanes = 16 ∨ lanes = 8 ∨ lanes = 4) → 1 ≤ rate → rate ≤ 5 → (cxl = false ∨ 3 ≤ rate) →
        exec (.linkUp lanes rate cxl ms) s = .next { s with hp := { s.hp with up := true, cxl := cxl, lanes := lanes, rate := rate
                                                                              modules := 0, carry := 0, lost := false } })
      ∧ ((s.pins.strapHost = 0 ∧ (ms &&& modulesIn s = 0 ∨ rate ≠ 5) ∨ s.pins.strapHost ≠ 0 ∧ s.pins.strapHost ≠ 1) →
        exec (.linkUp lanes rate cxl ms) s = .next s))
    ∧ (∀ (s : State) (lanes : BitVec 8) (rate : BitVec 3) (cxl : Bool) (ms : BitVec 4), phyCan s = false →
      exec (.linkUp lanes rate cxl ms) s = .next s)

/-! ## Canals and gangs -/

namespace Sys2Proof.Claims

/-- The flit that port `n` waits for arrives there, with a good CRC. -/
def InOrder (s : State) (n : Nat) (fl : Flit) : Prop :=
  n < 4 ∧ (getPort s n).state = .active ∧ awake s [dCanal n] = true ∧ fl.crcOk = true ∧ fl.seqValid = true
    ∧ fl.seq = (getPort s n).rxExpect

/-- It is of type `ty` and for this tile. -/
def Arrives (s : State) (n : Nat) (fl : Flit) (ty : Nat) : Prop :=
  InOrder s n fl ∧ fl.type.toNat = ty ∧ fl.dst.toNat = tileIdx s

/-- It carries no NAK and the port has nothing unacknowledged. -/
def Plain (s : State) (n : Nat) (fl : Flit) : Prop := fl.nak = false ∧ (getPort s n).buffer = []

/-- Port `m` carries flits to tile `t` and has room for one at once. -/
def Carries (s : State) (t m : Nat) : Prop :=
  routePort s t = some m ∧ (getPort s m).state = .active ∧ awake s [dCanal m] = true ∧ (getPort s m).txq = []
    ∧ (getPort s m).buffer.length < 64

/-- Port `m` carries on what port `n` brought for another tile, and has room for it at once. -/
def Forwards (s : State) (n m : Nat) : Prop :=
  onwardPort s n = some m ∧ (getPort s m).state = .active ∧ awake s [dCanal m] = true ∧ (getPort s m).txq = []
    ∧ (getPort s m).buffer.length < 64

/-- The port table changes at port `n` alone, and nothing else but what is sent. -/
def OnlyPort (s t : State) (n : Nat) (x : Port) : Prop :=
  getPort t n = x ∧ (∀ k, k ≠ n → getPort t k = getPort s k) ∧ t = { s with cn := { s.cn with ports := t.cn.ports }, out := t.out }

/-- A flit that leaves on port `m`, with its CRC: type, destination, ARG and payload as given. -/
def Sends (t : State) (m : Nat) (type : BitVec 8) (dst : BitVec 3) (arg : BitVec 32) (payload : List Byte) : Prop :=
  ∃ g : Flit, Out.flit m g ∈ t.out ∧ g.type = type ∧ g.dst = dst ∧ g.arg = arg ∧ g.payload = payload ∧ g.crcOk = true

/-- A replay of port `n`: counted, raised on source 32 + n (13_canals_and_gangs R291). -/
def Replayed (s t : State) (n : Nat) : Prop :=
  (getPort t n).replays = incHold (getPort s n).replays ∧ Counted s t (32 + n) ∧ SameBytes s t

/-- The report of a member's collective with `es` taken at entry `i`. -/
def Takes (r r' : Remote) (i : Nat) (es : List (BitVec 96)) : Prop :=
  r'.src = r.src ∧ r'.seq = r.seq ∧ r'.begin = r.begin ∧ r'.got = i :: r.got
    ∧ ∀ k, tblGet partDef r'.entries k = if i ≤ k ∧ k < slotEntries ∧ k < i + es.length then es[k - i]? else tblGet partDef r.entries k

end Sys2Proof.Claims

/-- CN_PORT_ENABLE, CN_PORT_RETRAIN, CANAL_PHY_TRAINING_END, TRAIN and RETRAIN_TIMEOUT (13_canals_and_gangs R288, R291, R292,
R306): EN starts training and its clearing turns the port off; RETRAIN trains an enabled port at once and stands until training
starts on one that is not; TRAIN flits that keep the rules are counted and answered, the eighth with a peer that has counted as
many makes the port ACTIVE, another peer sets WRONG_PEER, a bad CRC is counted and starts the run anew; a retrain that times out
takes the port DOWN with DOWN_SEEN and source 36 + n. -/
def Obligations.PortsTrain : Prop :=
  (∀ (s : State) (a : Agent) (n : Nat) (v : BitVec 32), s.wf = true → n < 4 → Permits s a (.portCtl n) (0xD00000 + 0x40 * n) 4 →
      v.getLsbD 1 = false →
      (v.getLsbD 0 = true → canalIn s n = true → ((getPort s n).en = false ∨ (getPort s n).state = .down) →
        Ends (.cnPortEnable a n v) s fun t =>
          (getPort t n).en = true ∧ (getPort t n).state = .phyTrain ∧ (getPort t n).retrain = false
            ∧ (∀ k, k ≠ n → getPort t k = getPort s k) ∧ SameBytes s t)
      ∧ (v.getLsbD 0 = true → canalIn s n = false → exec (.cnPortEnable a n v) s = .next s)
      ∧ (v.getLsbD 0 = false → (getPort s n).en = true → Ends (.cnPortEnable a n v) s fun t =>
        (getPort t n).en = false ∧ (getPort t n).state = .off ∧ (getPort t n).buffer = [] ∧ SameBytes s t)
      ∧ (v.getLsbD 0 = false → (getPort s n).en = false → exec (.cnPortEnable a n v) s = .next s))
    ∧ (∀ (s : State) (a : Agent) (n : Nat), s.wf = true → n < 4 → Permits s a (.portCtl n) (0xD00000 + 0x40 * n) 4 →
      ((getPort s n).en = true → Ends (.cnPortRetrain a n) s fun t =>
        (getPort t n).state = .phyTrain ∧ (getPort t n).en = true ∧ (getPort t n).retrain = false ∧ SameBytes s t)
      ∧ ((getPort s n).en = false → Ends (.cnPortRetrain a n) s fun t =>
        OnlyPort s t n { getPort s n with retrain := true } ∧ t.out = s.out))
    ∧ (∀ (s : State) (n : Nat) (w : Bool), s.wf = true → n < 4 → (getPort s n).state = .phyTrain → awake s [dCanal n] = true →
      Ends (.canalPhyTrainingEnd n w) s fun t =>
        OnlyPort s t n { getPort s n with state := .canalTrain, width8 := w, goodTrain := 0, peerOk := false }
          ∧ ∃ fl : Flit, fl.type = 0x02 ∧ fl.crcOk = true ∧ t.out = s.out ++ [.flit n fl])
    ∧ (∀ (s : State) (n : Nat) (w : Bool), (4 ≤ n ∨ (getPort s n).state ≠ .phyTrain ∨ awake s [dCanal n] = false) →
      exec (.canalPhyTrainingEnd n w) s = .next s)
    ∧ (∀ (s : State) (n : Nat) (fl : Flit), s.wf = true → n < 4 → fl.type = 0x02 → (getPort s n).state = .canalTrain →
      awake s [dCanal n] = true →
      let p := getPort s n
      let ok := p.peerOk || leAt fl.payload 3 1 == 1
      (fl.crcOk = false → Ends (.train n fl) s fun t =>
        OnlyPort s t n { p with crcErr := incHold p.crcErr, goodTrain := 0 } ∧ t.out = s.out)
      ∧ (fl.crcOk = true → trainOk s n fl = false → Ends (.train n fl) s fun t =>
        OnlyPort s t n { p with wrongPeer := true, goodTrain := 0 } ∧ t.out = s.out)
      ∧ (fl.crcOk = true → trainOk s n fl = true → (p.goodTrain + 1 < 8 ∨ ok = false) → Ends (.train n fl) s fun t =>
        OnlyPort s t n { p with goodTrain := p.goodTrain + 1, peerOk := ok }
          ∧ ∃ g : Flit, g.type = 0x02 ∧ g.crcOk = true ∧ t.out = s.out ++ [.flit n g])
      ∧ (fl.crcOk = true → trainOk s n fl = true → 8 ≤ p.goodTrain + 1 → ok = true → Ends (.train n fl) s fun t =>
        (getPort t n).state = .active ∧ (getPort t n).peerValid = true ∧ (getPort t n).peerId = bv 3 (leAt fl.payload 0 1)
          ∧ (getPort t n).retraining = false ∧ (getPort t n).wasActive = true ∧ SameBytes s t))
    ∧ (∀ (s : State) (n : Nat), s.wf = true → n < 4 → (getPort s n).retraining = true →
      ((getPort s n).state = .phyTrain ∨ (getPort s n).state = .canalTrain) →
      Ends (.retrainTimeout n) s fun t =>
        (getPort t n).state = .down ∧ (getPort t n).downSeen = true ∧ (getPort t n).buffer = [] ∧ Counted s t (36 + n) ∧ SameBytes s t)
    ∧ (∀ (s : State) (n : Nat), (getPort s n).retraining = false → exec (.retrainTimeout n) s = .next s)

/-- IDLE, NAK, REPLAY_TIMEOUT, FLIT_CRC_ERROR, RESERVED_FLIT_TYPE and FLIT_FORWARD (13_canals_and_gangs R288 to R291, R297): an
acknowledgement frees the flits it covers; a NAK, in any flit, or a timeout sends the unacknowledged flits again, counts a replay
and raises source 32 + n, the sixteenth in a row retrains; a bad flit is counted, with one NAK; a flit from ahead of its turn
brings one NAK, one from behind nothing; a flit for another tile goes on in the direction that it
travels (the other where that has no path: the model's reading, log 42), as it came, with a new CRC. -/
def Obligations.FlitsKeepOrder : Prop :=
  (∀ fl : Flit, fl.sealed.crcOk = true ∧ (flitBytes fl.sealed).length = 256
      ∧ leAt (flitBytes fl.sealed) 252 4 = (crc32c ((flitBytes fl.sealed).take 252)).toNat)
    ∧ (∀ (s : State) (n : Nat) (fl b : Flit) (rest : List Flit), s.wf = true → n < 4 → fl.type = 0x01 → (getPort s n).state = .active →
      fl.crcOk = true → fl.nak = false → (getPort s n).buffer = b :: rest → (getPort s n).txq = [] →
      let k := (fl.ack - b.seq + 1).toNat
      (1 ≤ k → k ≤ rest.length + 1 → Ends (.idle n fl) s fun t =>
        OnlyPort s t n { getPort s n with buffer := (b :: rest).drop k, stuck := 0 } ∧ t.out = s.out)
      ∧ ((k = 0 ∨ rest.length + 1 < k) → exec (.idle n fl) s = .next s))
    ∧ (∀ (s : State) (n : Nat) (fl : Flit), s.wf = true → n < 4 → (getPort s n).state = .active → fl.crcOk = true →
      (fl.type = 0x01 → fl.nak = false → (getPort s n).buffer = [] → exec (.idle n fl) s = .next s)
      ∧ (fl.type = 0x01 → fl.nak = true → Ends (.idle n fl) s fun t => Replayed s t n)
      ∧ (fl.nak = true → Ends (.nak n fl) s fun t => Replayed s t n)
      ∧ (fl.nak = false → exec (.nak n fl) s = .next s))
    ∧ (∀ (s : State) (n : Nat) (fl : Flit) (c : Instr), s.wf = true → n < 4 → (getPort s n).state = .active →
      (c = .flitCrcError n ∨ (fl.crcOk = false ∧ (c = .idle n fl ∧ fl.type = 0x01 ∨ c = .nak n fl ∧ fl.nak = true
        ∨ c = .reservedFlitType n fl ∧ typeAssigned fl.type.toNat = false ∧ awake s [dCanal n] = true))) →
      Ends c s fun t =>
        OnlyPort s t n { getPort s n with crcErr := incHold (getPort s n).crcErr, nakSent := true }
          ∧ ((getPort s n).nakSent = true → t.out = s.out)
          ∧ ((getPort s n).nakSent = false → ∃ g : Flit, g.nak = true ∧ g.crcOk = true ∧ t.out = s.out ++ [.flit n g]))
    ∧ (∀ (s : State) (n : Nat), s.wf = true → n < 4 → (getPort s n).state = .canalTrain → Ends (.flitCrcError n) s fun t =>
        OnlyPort s t n { getPort s n with crcErr := incHold (getPort s n).crcErr, goodTrain := 0 } ∧ t.out = s.out)
    ∧ (∀ (s : State) (n : Nat), s.wf = true → n < 4 → (getPort s n).state = .active → (getPort s n).buffer ≠ [] →
      let p := getPort s n
      Ends (.replayTimeout n) s fun t =>
        Replayed s t n ∧ (getPort t n).buffer = p.buffer
          ∧ (∃ more, t.out = s.out ++ p.buffer.map (fun fl => Out.flit n (stamp p fl)) ++ more)
          ∧ (getPort t n).state = (if 16 ≤ (incHold p.stuck).toNat then .phyTrain else .active))
    ∧ (∀ (s : State) (n : Nat), ((getPort s n).state ≠ .active ∨ (getPort s n).buffer = []) → exec (.replayTimeout n) s = .next s)
    ∧ (∀ (s : State) (n : Nat) (fl : Flit), s.wf = true → InOrder s n fl → Plain s n fl → typeAssigned fl.type.toNat = false →
      Ends (.reservedFlitType n fl) s fun t =>
        OnlyPort s t n { getPort s n with rxExpect := (getPort s n).rxExpect + 1, nakSent := false })
    ∧ (∀ (s : State) (n : Nat) (fl : Flit) (c : Instr), s.wf = true → n < 4 → (getPort s n).state = .active → awake s [dCanal n] = true →
      fl.crcOk = true → fl.seqValid = true → fl.seq ≠ (getPort s n).rxExpect →
      (c = .reservedFlitType n fl ∧ typeAssigned fl.type.toNat = false
        ∨ c = .flitForward n fl ∧ typeAssigned fl.type.toNat = true ∧ fl.dst.toNat ≠ tileIdx s) →
      ((fl.seq - (getPort s n).rxExpect).toNat < 2048 → (getPort s n).nakSent = false → Ends c s fun t =>
        OnlyPort s t n { getPort s n with nakSent := true } ∧ ∃ g : Flit, g.nak = true ∧ g.crcOk = true ∧ t.out = s.out ++ [.flit n g])
      ∧ ((2048 ≤ (fl.seq - (getPort s n).rxExpect).toNat ∨ (getPort s n).nakSent = true) → exec c s = .next s))
    ∧ (∀ (s : State) (n m : Nat) (fl : Flit), s.wf = true → InOrder s n fl → Plain s n fl → fl.dst.toNat ≠ tileIdx s →
      typeAssigned fl.type.toNat = true → Forwards s n m →
      Ends (.flitForward n fl) s fun t =>
        (getPort t n).rxExpect = (getPort s n).rxExpect + 1
          ∧ (∃ g : Flit, Out.flit m g ∈ t.out ∧ g.type = fl.type ∧ g.src = fl.src ∧ g.dst = fl.dst ∧ g.arg = fl.arg ∧ g.payload = fl.payload
              ∧ g.len = fl.len ∧ g.crcOk = true)
          ∧ SameBytes s t ∧ t.hg = s.hg)

/-- GANG_FORM, GANG_LEAVE, GANG_MEASURE, FORM, FORM_REPLY, FORM_DONE, FORM_REFUSE, TIME_REQ, TIME_RESP and LEAVE (13_canals_and_gangs
R293 to R296, R303, R304): a member answers the lead's FORM with its mismatches; the lead measures each member's time
once all replies are clean, else refuses; of 16 exchanges the one with the smallest round trip counts; the last makes the
gang FORMED with SEQ 0; MEASURE stands until such exchanges are over; a member that leaves breaks it. That the lead begins once
a port of its own is ACTIVE is the model's choice (log 42), as are the payloads' layouts (log 40). -/
def Obligations.GangsFormAndBreak : Prop :=
  (∀ (s : State) (a : Agent), s.wf = true → Permits s a .gangCtl 0xD00208 4 →
      let s1 := { s with cn := { s.cn with form := true, state := .idle, lead := bv 3 (leadOf s), replies := [] } }
      let member := s.cn.members.getLsbD (tileIdx s) = true
      (s.cn.form = false → s.cn.heldForm = none → (isLead s = false ∨ ¬ member ∨ (peers s ≠ [] ∧ linked s = false)) →
        exec (.gangForm a) s = .next s1)
      ∧ (s.cn.form = false → s.cn.heldForm = none → isLead s = true → member → peers s ≠ [] → linked s = true →
        Ends (.gangForm a) s fun t => t.cn.form = true ∧ t.cn.state = .forming ∧ SameBytes s t)
      ∧ (s.cn.form = false → s.cn.heldForm = none → isLead s = true → member → peers s = [] →
        Ends (.gangForm a) s fun t => t.cn.state = .formed ∧ t.cn.gen = newGen s1 ∧ t.cn.present = s.cn.members ∧ SameBytes s t)
      ∧ (∀ fl, s.cn.form = false → s.cn.heldForm = some fl → isLead s = false → Ends (.gangForm a) s fun t =>
        t.cn.form = true ∧ t.cn.state = .forming ∧ t.cn.heldForm = none ∧ t.cn.mismatch = bv 8 (formMask s fl) ∧ SameBytes s t)
      ∧ (s.cn.form = true → exec (.gangForm a) s = .next s)
      ∧ (s.cn.form = true → Ends (.gangLeave a) s fun t =>
        t.cn.form = false ∧ t.cn.exchange = none ∧ t.cn.measure = false ∧ (s.cn.state = .forming → t.cn.state = .idle)
          ∧ (s.cn.state = .formed → s.cn.present.getLsbD (tileIdx s) = true → t.cn.state = .broken ∧ t.cn.lostSeen = true) ∧ SameBytes s t)
      ∧ (s.cn.form = false → exec (.gangLeave a) s = .next s)
      ∧ (∀ m rest, isLead s = true → s.cn.state = .formed → s.cn.exchange = none → others s = m :: rest →
        Ends (.gangMeasure a) s fun t =>
          t.cn.measure = true ∧ t.cn.state = .formed ∧ SameBytes s t
            ∧ t.cn.exchange = some { member := m, rest := rest, count := 0, sentAt := s.pi.time, best := none })
      ∧ ((isLead s = false ∨ s.cn.state ≠ .formed ∨ s.cn.exchange ≠ none) →
        exec (.gangMeasure a) s = .next { s with cn := { s.cn with measure := true } }))
    ∧ (∀ (s : State) (n : Nat) (fl : Flit), s.wf = true → Arrives s n fl 0x03 →
      (s.cn.form = true → (s.cn.state = .idle ∨ s.cn.state = .forming) → Ends (.form n fl) s fun t =>
        t.cn.state = .forming ∧ t.cn.heldForm = none ∧ t.cn.mismatch = bv 8 (formMask s fl) ∧ SameBytes s t)
      ∧ ((s.cn.form = false ∨ (s.cn.state ≠ .idle ∧ s.cn.state ≠ .forming)) → Ends (.form n fl) s fun t =>
        t.cn.heldForm = some fl ∧ t.cn.state = s.cn.state ∧ SameBytes s t))
    ∧ (∀ (s : State) (n m : Nat) (fl : Flit), s.wf = true → Arrives s n fl 0x03 → Plain s n fl → s.cn.form = true →
      (s.cn.state = .idle ∨ s.cn.state = .forming) → routePort { s with cn := { s.cn with state := .forming } } fl.src.toNat = some m →
      Carries s fl.src.toNat m → Ends (.form n fl) s fun t => ∃ payload, Sends t m 0x04 fl.src (bv 32 (formMask s fl)) payload)
    ∧ (∀ (s : State) (n : Nat) (fl : Flit), s.wf = true → Arrives s n fl 0x04 → isLead s = true → s.cn.state = .forming →
      s.cn.exchange = none → fl.src.toNat ∈ peers s →
      let rs := s.cn.replies.filter (fun r => r.1 != fl.src.toNat) ++ [(fl.src.toNat, fl.arg.toNat % 256, leAt fl.payload 18 2)]
      Ends (.formReply n fl) s fun t => t.cn.replies = rs ∧ SameBytes s t
        ∧ (rs.length < (peers s).length → t.cn.state = .forming ∧ t.cn.exchange = none)
        ∧ (¬ rs.length < (peers s).length → (∀ r ∈ rs, r.2.1 = 0) → t.cn.state = .forming ∧ ∃ x, t.cn.exchange = some x
            ∧ peers s = x.member :: x.rest ∧ x.count = 0)
        ∧ (¬ rs.length < (peers s).length → (∃ r ∈ rs, r.2.1 ≠ 0) → t.cn.state = .alone ∧ t.cn.refused = true ∧ Counted s t 40))
    ∧ (∀ (s : State) (n : Nat) (fl : Flit), s.wf = true → isLead s = false → s.cn.state = .forming →
      (Arrives s n fl 0x05 → Ends (.formDone n fl) s fun t =>
        t.cn.state = .formed ∧ t.cn.gen = fl.arg.setWidth 16 ∧ t.cn.collSeq = 0 ∧ t.cn.present = s.cn.members ∧ t.cn.measure = false
          ∧ tblGet count64Def t.cn.skew (tileIdx s) = bv 64 (leAt fl.payload (8 * tileIdx s) 8) ∧ SameBytes s t)
      ∧ (Arrives s n fl 0x06 → Ends (.formRefuse n fl) s fun t =>
        t.cn.state = .alone ∧ t.cn.refused = true ∧ t.cn.mismatch = bv 8 (leAt fl.payload (tileIdx s) 1) ∧ Counted s t 40
          ∧ SameBytes s t))
    ∧ (∀ (s : State) (n : Nat) (fl : Flit), s.wf = true → isLead s = false → s.cn.state = .formed → s.cn.gen = fl.arg.setWidth 16 →
      Arrives s n fl 0x05 → Ends (.formDone n fl) s fun t =>
        t.cn.state = .formed ∧ t.cn.gen = s.cn.gen ∧ t.cn.collSeq = s.cn.collSeq ∧ t.cn.measure = false
          ∧ tblGet count64Def t.cn.skew (tileIdx s) = bv 64 (leAt fl.payload (8 * tileIdx s) 8)
          ∧ (2000 < (toSigned 64 (leAt fl.payload (8 * tileIdx s) 8)).natAbs → t.cn.skewFlag = true ∧ Counted s t 41) ∧ SameBytes s t)
    ∧ (∀ (s : State) (n m : Nat) (fl : Flit), s.wf = true → Arrives s n fl 0x07 → Plain s n fl → Carries s fl.src.toNat m →
      Ends (.timeReq n fl) s fun t => SameBytes s t ∧ t.hg = s.hg ∧ Sends t m 0x08 fl.src fl.arg (natLe 8 s.pi.time.toNat))
    ∧ (∀ (s : State) (n : Nat) (fl : Flit) (x : Exchange), s.wf = true → Arrives s n fl 0x08 → s.cn.exchange = some x →
      x.member = fl.src.toNat → x.count = fl.arg.toNat →
      (x.count < 15 → Ends (.timeResp n fl) s fun t => SameBytes s t ∧ ∃ b,
        t.cn.exchange = some { x with count := x.count + 1, sentAt := s.pi.time, best := some b }
          ∧ b.1 ≤ (s.pi.time - x.sentAt).toNat ∧ ∀ c, x.best = some c → b.1 ≤ c.1 ∧ (b = c ∨ b.1 = (s.pi.time - x.sentAt).toNat))
      ∧ (15 ≤ x.count → x.rest = [] → s.cn.state = .forming → Ends (.timeResp n fl) s fun t =>
        t.cn.exchange = none ∧ t.cn.measure = false ∧ t.cn.state = .formed ∧ t.cn.gen = newGen s ∧ t.cn.collSeq = 0
          ∧ t.cn.present = s.cn.members ∧ SameBytes s t))
    ∧ (∀ (s : State) (n : Nat) (fl : Flit), s.wf = true → Arrives s n fl 0x20 →
      (s.cn.state = .formed → s.cn.present.getLsbD fl.src.toNat = true → Ends (.leave n fl) s fun t =>
        t.cn.state = .broken ∧ t.cn.lostSeen = true ∧ t.cn.present = setBit s.cn.present fl.src.toNat false ∧ SameBytes s t)
      ∧ (s.cn.state = .forming → isLead s = false → fl.src.toNat = leadOf s → Ends (.leave n fl) s fun t =>
        t.cn.state = .idle ∧ SameBytes s t)
      ∧ (s.cn.state = .forming → isLead s = true → Ends (.leave n fl) s fun t =>
        t.cn.state = .forming ∧ t.cn.replies = s.cn.replies.filter (fun r => r.1 != fl.src.toNat) ∧ SameBytes s t))

/-- SLOT_READ in a gang, COLL_BEGIN, COLL_DATA, COLL_RESULT, COLL_END, COLL_ABORT and COLLECTIVE_PHASE_C (13_canals_and_gangs R298 to
R302, R304): a collective takes the next SEQ and leaves its engine with its partial in the slot's record; the lead gathers what
members send, in whatever order, and entries that come before their COLL_BEGIN wait for it; a member whose GEN, SEQ or shape
differs aborts it; entries whose partials are all there are combined into the record; combined entries reach each member's record;
when all are stored and the end is told it is ready for phase C, which completes it and leaves no record; an abort ends the
collective of its SEQ and of this gang with its reason, at its dispatch if it comes first. What the lead keeps of an aborted
exchange is the model's choice (log 43). -/
def Obligations.CollectivesExchange : Prop :=
  (∀ (s u : State) (f : Nat) (o : Op), s.wf = true → AllGood s → s.hg.ctxValid = 0 →
      beginEngine (nextDomain s f) f (fun x => x.opcode == 0x0A && moveForm x.bytes == 1) (slotNeedsNext s f) s = .ok (o, u) →
      windowStep u f o (slotReadCheck u f o) = 0 → isCollective s f = true →
      (s.cn.state ≠ .formed → Ends (.slotRead f) s fun t =>
        t.cn.collSeq = s.cn.collSeq + 1 ∧ (∃ x, findOp t f o.id = some x ∧ x.phase = .ended ∧ x.reason = bv 8 rAbortMember) ∧ SameBytes s t)
      ∧ (∀ r, s.cn.state = .formed → s.cn.aborted.find? (·.1 == s.cn.collSeq + 1) = some (s.cn.collSeq + 1, r) → Ends (.slotRead f) s fun t =>
        t.cn.collSeq = s.cn.collSeq + 1 ∧ (∃ x, findOp t f o.id = some x ∧ x.phase = .ended ∧ x.reason = r)
          ∧ (∀ a ∈ t.cn.aborted, a.1 ≠ s.cn.collSeq + 1) ∧ SameBytes s t)
      ∧ (s.cn.state = .formed → (∀ a ∈ s.cn.aborted, a.1 ≠ s.cn.collSeq + 1) →
        (isLead s = false ∨ (others s ≠ [] ∧ s.cn.remotes = [])) → Ends (.slotRead f) s fun t =>
        t.cn.collSeq = s.cn.collSeq + 1 ∧ InPhase t f o.id .preempted ∧ t.hg.ctxValid.getLsbD (slotDesc o.bytes).slot = true
          ∧ (∃ c, t.cn.colls = s.cn.colls ++ [c] ∧ c.furrow = f ∧ c.op = o.id ∧ c.slot = (slotDesc o.bytes).slot
              ∧ c.seq = s.cn.collSeq + 1 ∧ c.phaseC = false ∧ c.done = 0 ∧ leAt c.begin 0 2 = s.cn.gen.toNat)
          ∧ (∀ n, (getSlot t n).entries = (getSlot s n).entries)))
    ∧ (∀ (s : State) (n : Nat) (fl : Flit), s.wf = true → isLead s = true → s.cn.state = .formed → curColl s = none →
      (Arrives s n fl 0x10 → (∀ e ∈ s.cn.early, e.1 ≠ fl.src.toNat) → Ends (.collBegin n fl) s fun t => SameBytes s t ∧
        t.cn.remotes = s.cn.remotes ++ [{ src := fl.src.toNat, seq := fl.arg, begin := padTo 12 fl.payload, got := [], entries := [] }])
      ∧ (Arrives s n fl 0x10 → (∀ r ∈ s.cn.remotes, r.src ≠ fl.src.toNat) →
        ∀ i es, s.cn.early.filter (·.1 == fl.src.toNat) = [(fl.src.toNat, i, es)] → Ends (.collBegin n fl) s fun t => SameBytes s t ∧
          ∃ r, t.cn.remotes = s.cn.remotes ++ [r]
            ∧ Takes { src := fl.src.toNat, seq := fl.arg, begin := padTo 12 fl.payload, got := [], entries := [] } r i es)
      ∧ (Arrives s n fl 0x11 → ∀ pre r post, s.cn.remotes = pre ++ r :: post →
        (∀ q ∈ pre, q.src ≠ fl.src.toNat ∨ fl.arg.toNat ∈ q.got) → r.src = fl.src.toNat → fl.arg.toNat ∉ r.got →
        Ends (.collData n fl) s fun t => SameBytes s t ∧
          ∃ r', t.cn.remotes = pre ++ r' :: post ∧ Takes r r' fl.arg.toNat (flitEntries fl))
      ∧ (Arrives s n fl 0x11 → (∀ r ∈ s.cn.remotes, r.src ≠ fl.src.toNat) → fl.src.toNat ∉ s.cn.deaf →
        Ends (.collData n fl) s fun t => SameBytes s t ∧ t.cn.remotes = s.cn.remotes
          ∧ t.cn.early = s.cn.early ++ [(fl.src.toNat, fl.arg.toNat, flitEntries fl)]))
    ∧ (∀ (s : State) (n m : Nat) (fl : Flit) (c : Coll) (o : Op), s.wf = true → isLead s = true → s.cn.state = .formed →
      curColl s = some c → s.cn.colls = [c] → c.compared = false → others s = [m] → fl.src.toNat = m → s.cn.remotes = [] → s.cn.early = [] →
      findOp s c.furrow c.op = some o → Arrives s n fl 0x10 →
      (c.seq = fl.arg → c.begin = padTo 12 fl.payload → Ends (.collBegin n fl) s fun t =>
        t.cn.colls = [{ c with compared := true }] ∧ t.hg = s.hg ∧ SameBytes s t)
      ∧ ((c.seq ≠ fl.arg ∨ c.begin ≠ padTo 12 fl.payload) → Ends (.collBegin n fl) s fun t =>
        findOp t c.furrow c.op = some { o with phase := .ended, reason := bv 8 rAbortEpoch, coll := 0 } ∧ t.cn.colls = []
          ∧ t.cn.remotes = [] ∧ t.hg.ctxValid.getLsbD c.slot = false ∧ SameBytes s t))
    ∧ (∀ (s : State) (n m : Nat) (fl : Flit) (c : Coll) (r : Remote) (e : BitVec 96), s.wf = true → AllGood s → isLead s = true →
      s.cn.state = .formed → curColl s = some c → s.cn.colls = [c] → c.compared = true → c.done + 1 < slotEntries → others s = [m] →
      fl.src.toNat = m → s.cn.remotes = [r] → r.src = m → r.entries = [] → Arrives s n fl 0x11 → flitEntries fl = [e] →
      let i := fl.arg.toNat
      let k := recordKind s c.slot
      let g := fun t => if t = tileIdx s then some (decodeWord k (recordEntry s c.slot i).toNat, false)
        else if t = m then some (decodeWord k e.toNat, false) else none
      i ∉ r.got → i < slotEntries → Ends (.collData n fl) s fun t =>
        recordEntry t c.slot i = bv 96 (encodeWord k ((combine8 k g).getD (.empty, false)).1)
          ∧ BytesKeep false (recordAddr s c.slot + 64 + 12 * i) 12 s t ∧ t.hg = s.hg
          ∧ t.cn.colls = [{ c with done := c.done + 1, sat := c.sat || ((combine8 k g).getD (.empty, false)).2 }])
    ∧ (∀ (s : State) (n : Nat) (fl : Flit) (c : Coll), s.wf = true → curColl s = some c →
      (Arrives s n fl 0x12 → AllGood s → fl.arg.toNat ∉ c.got →
        let es := (flitEntries fl).take (slotEntries - fl.arg.toNat)
        let a := recordAddr s c.slot + 64 + 12 * fl.arg.toNat
        Ends (.collResult n fl) s fun t =>
          readMem false t a (12 * es.length) = es.flatMap (fun e => natLe 12 e.toNat) ∧ BytesKeep false a (12 * es.length) s t
            ∧ ((c.endSat = none ∨ c.done + es.length < slotEntries) → t.hg = s.hg
                ∧ { c with done := c.done + es.length, got := fl.arg.toNat :: c.got } ∈ t.cn.colls)
            ∧ (∀ o, findOp s c.furrow c.op = some o → c.endSat.isSome = true → slotEntries ≤ c.done + es.length →
                findOp t c.furrow c.op = some { o with coll := 2 }))
      ∧ (Arrives s n fl 0x13 → c.seq = fl.arg → c.done < slotEntries → Ends (.collEnd n fl) s fun t =>
        { c with endSat := some (bitAt (leAt fl.payload 0 1) 0) } ∈ t.cn.colls ∧ t.hg = s.hg ∧ SameBytes s t)
      ∧ (Arrives s n fl 0x13 → c.seq = fl.arg → slotEntries ≤ c.done → ∀ o, findOp s c.furrow c.op = some o →
        Ends (.collEnd n fl) s fun t =>
          findOp t c.furrow c.op = some { o with coll := 2 } ∧ SameBytes s t
            ∧ (getSlot t c.slot).sat = ((getSlot s c.slot).sat || c.sat || bitAt (leAt fl.payload 0 1) 0))
      ∧ (Arrives s n fl 0x14 → c.seq = fl.arg → leAt c.begin 0 2 = s.cn.gen.toNat → isLead s = false →
        (∀ k ∈ s.cn.colls, k.seq = fl.arg → leAt k.begin 0 2 = s.cn.gen.toNat → k = c) →
        ∀ o, findOp s c.furrow c.op = some o → Ends (.collAbort n fl) s fun t =>
          findOp t c.furrow c.op = some { o with phase := .ended, reason := bv 8 (leAt fl.payload 0 1), coll := 0 }
            ∧ c ∉ t.cn.colls ∧ t.hg.ctxValid.getLsbD c.slot = false ∧ SameBytes s t))
    ∧ (∀ (s : State) (n : Nat) (fl : Flit), s.wf = true → Arrives s n fl 0x14 →
      (∀ c ∈ s.cn.colls, c.seq = fl.arg → leAt c.begin 0 2 ≠ s.cn.gen.toNat) →
      (s.cn.collSeq < fl.arg → Ends (.collAbort n fl) s fun t =>
        t.cn.aborted = s.cn.aborted ++ [(fl.arg, bv 8 (leAt fl.payload 0 1))] ∧ t.cn.colls = s.cn.colls ∧ t.hg = s.hg ∧ SameBytes s t)
      ∧ (fl.arg ≤ s.cn.collSeq → Ends (.collAbort n fl) s fun t =>
        t.cn.aborted = s.cn.aborted ∧ t.cn.colls = s.cn.colls ∧ t.hg = s.hg ∧ SameBytes s t))
    ∧ (∀ (s s1 : State) (f : Nat) (c : Coll) (o : Op), s.wf = true → s.cn.colls.find? (fun c => c.furrow == f && c.phaseC) = some c →
      findOp s f c.op = some o → readyOp s (slotDomain s c.slot) f = some o → awake s (hearthNeeds s c.slot) = true →
      takeTurn (slotDomain s c.slot) f s = some s1 → Ends (.collectivePhaseC f) s fun t =>
        InPhase t f o.id .ended ∧ t.hg.ctxValid.getLsbD c.slot = false ∧ c ∉ t.cn.colls ∧ t.flash = s.flash)

/-! ## Rules of the whole machine -/

/-- 11_chimney_firmware R244: no command but plot 0's SVN_COMMIT changes MIN_SVN; it programs MIN_SVN to the running image's SVN
if that is greater; nothing lowers it. The state shows MIN_SVN from the boot on, at which the ROM reads the fuses. -/
def Obligations.MinSvnRisesOnlyByCommit : Prop :=
  (∀ (c : Instr) (s t : State), exec c s = .next t → s.ch.minSvn ≤ t.ch.minSvn)
    ∧ (∀ (c : Instr) (s t : State), Config.minSvnFuse ≤ s.ch.minSvn → exec c s = .next t → t.ch.minSvn ≠ s.ch.minSvn →
      c = .svnCommit 0 ∧ s.ch.minSvn < s.ch.svn ∧ t.ch.minSvn = s.ch.svn)
    ∧ (∀ (s : State) (b : List Byte), s.wf = true → Served s 0 0x0041 true [] [] b → b.length = 0 → s.ch.minSvn < s.ch.svn →
      Ends (.svnCommit 0) s fun t => t.ch.minSvn = s.ch.svn)
    ∧ (∀ s : State, s.pi.phase = .boot → s.pi.pwrok = true → s.pi.trip = false → s.pins.vaux12Lost = false → s.pins.vaux12 = true →
      Ends .bootVerify s fun t => Config.minSvnFuse ≤ t.ch.minSvn)

/-- 15_reset_and_bringup R336: the straps are sampled at PWROK rising and at the release of HRST_L, and no other command changes
what was sampled; STRAP_TILEID is the tile index and the low bits of the management address, STRAP_BOOTSRC selects the
boot source. -/
def Obligations.StrapsAreSampled : Prop :=
  (∀ (s : State) (st : Straps),
      (s.pi.pwrok = false → Ends (.powerUp st) s fun t =>
        t.pins.strapHost = st.hostMode ∧ t.pins.strapTile = st.tileId ∧ t.pins.strapBoot = st.bootSrc)
      ∧ (s.pi.pwrok = true → s.pi.hrstLow = true → Ends (.hrstLRelease st) s fun t =>
        t.pins.strapHost = st.hostMode ∧ t.pins.strapTile = st.tileId ∧ t.pins.strapBoot = st.bootSrc))
    ∧ (∀ (c : Instr) (s t : State), exec c s = .next t → (∀ st, c ≠ .powerUp st ∧ c ≠ .hrstLRelease st) →
      t.pins.strapHost = s.pins.strapHost ∧ t.pins.strapTile = s.pins.strapTile ∧ t.pins.strapBoot = s.pins.strapBoot)
    ∧ (∀ s : State, tileIdx s = s.pins.strapTile.toNat ∧ regValue s .hpMgmt % 2 ^ 7 = 0x30 + s.pins.strapTile.toNat)
    ∧ (∀ s : State, s.pi.phase = .boot → s.pi.pwrok = true → s.pi.trip = false → s.pins.vaux12Lost = false → s.pins.vaux12 = true →
      coreIn (readRecord s) 0 = true →
      (s.pins.strapBoot = true → Ends .bootVerify s fun t => t.pi.phase = .recovery ∧ t.ch.flashFail = s.ch.flashFail)
      ∧ (s.pins.strapBoot = false → Ends .bootVerify s fun t => (t.pi.phase = .bringUp ∧ t.ch.bootSrc = false) ∨ t.ch.flashFail = true))

/-! ## Numbers -/

/-- 02_log_formats R43: products follow Table 2-9. A NaN operand gives the canonical NaN whatever the other is, a zero
times a zero or a finite operand a zero, a zero times an infinity a NaN, an infinity times a finite operand or an
infinity an infinity, each with the exclusive or of the signs. A weight-only zero keeps its own sign; W2Z's is +0. -/
def Obligations.ProductsFollowTheirTable : Prop :=
  (∀ (work : LPar) (x : Ext) (s s' : Bool) (t : Int),
      extMul work .nan x = .nan ∧ extMul work x .nan = .nan ∧ extToWork work .nan = (work.nan, false)
        ∧ extMul work (.zero s) (.zero s') = .zero (s != s')
        ∧ extMul work (.zero s) (.fin s' t) = .zero (s != s') ∧ extMul work (.fin s t) (.zero s') = .zero (s != s')
        ∧ extMul work (.zero s) (.inf s') = .nan ∧ extMul work (.inf s) (.zero s') = .nan
        ∧ extMul work (.inf s) (.fin s' t) = .inf (s != s') ∧ extMul work (.fin s t) (.inf s') = .inf (s != s')
        ∧ extMul work (.inf s) (.inf s') = .inf (s != s'))
    ∧ (∀ v : Nat, v % 8 = 0 → weightDecode .l4 v = .zero (bitAt v 3))
    ∧ (∀ v : Nat, bitAt v 0 = false → weightDecode .w2z v = .zero false)
    ∧ (∀ (f work : LPar) (s : Bool), Ext.ofL f work (.zero s) = .zero s)

/-- 02_log_formats R39: outside the subnormal branch of R38 a nonzero finite source takes the code `n + b`, `n` the
integer nearest to lam * 2^p and even on a tie, so that with its even bias the code is even too; beyond the largest
finite code it is that code, with the source's sign, and saturation is recorded; no finite source becomes infinity. -/
def Obligations.ConversionsTieToTheEvenCode : Prop :=
  ∀ f ∈ [parL8, parL16, parL32],
    f.b % 2 = 0 ∧ (f.m.toNat < f.inf ∧ ∀ s, toL f (.inf s) = (lCode f s f.inf, false))
    ∧ ∀ x : Src, (∃ s m e, x = .dy s m e ∧ m ≠ 0) ∨ (∃ s n p, x = .pow s n p) →
      ∃ c : Nat, (toL f x).1 = lCode f x.sign c ∧ c ≤ f.m.toNat
        ∧ ((f.u.isSome && x.below ((f.k - f.b) / 2 ^ f.p)) = false →
          ∃ n : Int, 2 * (n * 2 ^ 24 - x.lam * 2 ^ f.p).natAbs ≤ 2 ^ 24
            ∧ (2 * (n * 2 ^ 24 - x.lam * 2 ^ f.p).natAbs = 2 ^ 24 → n % 2 = 0)
            ∧ (f.m < n + f.b → c = f.m.toNat ∧ (toL f x).2 = true)
            ∧ (n + f.b ≤ f.m → c = (n + f.b).toNat ∧ (toL f x).2 = false))
end

