-- ==== Sys2Proof/Laws/Bits.lean ====
section
/-!
SUPPORT. The CRC over bytes as a fold, and over a string in two parts.
-/
namespace Sys2Proof

/-- CRC-32C folds one byte after the other. -/
theorem crcRun_eq_foldl (bs : List Byte) (c : BitVec 32) : crcRun bs c = bs.foldl crcByte c := by
  induction bs generalizing c with
  | nil => rfl
  | cons b bs ih =>
    rw [crcRun, List.foldl_cons]
    split <;> simp_all

theorem crcRun_append (as bs : List Byte) (c : BitVec 32) : crcRun (as ++ bs) c = crcRun bs (crcRun as c) := by
  simp only [crcRun_eq_foldl, List.foldl_append]

end Sys2Proof
end

