-- ==== Sys2Proof/Laws/Tables.lean ====
section
/-!
SUPPORT. The sparse tables: reading after writing, and the canonical form, kept by every operation on a
table or a byte memory.
-/
namespace Sys2Proof

variable {α : Type} [DecidableEq α] (d : Nat → α)

/-- Every key of a table lies above `lo`, when given. -/
def keysAbove (lo : Option Nat) (t : Tbl α) : Prop := ∀ l, lo = some l → ∀ kv ∈ t, l < kv.1

theorem tblWfFrom_cons (lo : Option Nat) (k : Nat) (v : α) (t : Tbl α) :
    tblWfFrom d lo ((k, v) :: t) = true ↔
      (∀ l, lo = some l → l < k) ∧ v ≠ d k ∧ tblWfFrom d (some k) t = true := by
  cases lo <;> simp [tblWfFrom, and_assoc]

theorem tblWfFrom_keys (lo : Nat) (t : Tbl α) (h : tblWfFrom d (some lo) t = true) :
    ∀ kv ∈ t, lo < kv.1 := by
  induction t generalizing lo with
  | nil => simp
  | cons x t ih =>
    obtain ⟨k, v⟩ := x
    rw [tblWfFrom_cons] at h
    intro kv hkv
    rcases List.mem_cons.1 hkv with rfl | hm
    · exact h.1 _ rfl
    · exact Nat.lt_trans (h.1 _ rfl) (ih k h.2.2 kv hm)

/-- A lower bound may be lowered. -/
theorem tblWfFrom_mono (lo lo' : Option Nat) (t : Tbl α) (h : tblWfFrom d lo t = true)
    (hl : ∀ l, lo' = some l → ∀ kv ∈ t, l < kv.1) : tblWfFrom d lo' t = true := by
  cases t with
  | nil => cases lo' <;> rfl
  | cons x t =>
    obtain ⟨k, v⟩ := x
    rw [tblWfFrom_cons] at h ⊢
    exact ⟨fun l hlo => hl l hlo (k, v) (by simp), h.2⟩

omit [DecidableEq α] in
theorem tblGet_none (t : Tbl α) (k : Nat) (h : ∀ kv ∈ t, kv.1 ≠ k) : tblGet d t k = d k := by
  induction t with
  | nil => rfl
  | cons x t ih =>
    obtain ⟨j, v⟩ := x
    have hj : j ≠ k := h (j, v) (by simp)
    simp only [tblGet, hj, if_false]
    exact ih fun kv hkv => h kv (by simp [hkv])

/-- Reading another key than the one written. -/
theorem tblGet_set_ne (t : Tbl α) (k k' : Nat) (v : α) (h : k' ≠ k) :
    tblGet d (tblSet d t k v) k' = tblGet d t k' := by
  induction t with
  | nil =>
    simp only [tblSet]
    split <;> simp [tblGet, Ne.symm h]
  | cons x t ih =>
    obtain ⟨j, w⟩ := x
    simp only [tblSet]
    split
    · split <;> simp [tblGet, Ne.symm h]
    · split
      · rename_i hk
        subst hk
        split <;> simp [tblGet, Ne.symm h]
      · simp only [tblGet]
        split
        · rfl
        · exact ih

/-- Reading the key written, in a canonical table. -/
theorem tblGet_set_self_from (lo : Option Nat) (t : Tbl α) (k : Nat) (v : α) (h : tblWfFrom d lo t = true) :
    tblGet d (tblSet d t k v) k = v := by
  induction t generalizing lo with
  | nil =>
    simp only [tblSet]
    split
    · rename_i hv; simp [tblGet, hv]
    · simp [tblGet]
  | cons x t ih =>
    obtain ⟨j, w⟩ := x
    rw [tblWfFrom_cons] at h
    have keys := tblWfFrom_keys d j t h.2.2
    simp only [tblSet]
    split
    · rename_i hkj
      split
      · rename_i hv
        rw [hv]
        apply tblGet_none
        intro kv hkv
        rcases List.mem_cons.1 hkv with rfl | hm
        · exact fun e => by simp at e; omega
        · have := keys kv hm; omega
      · simp [tblGet]
    · split
      · rename_i hk
        subst hk
        split
        · rename_i hv
          rw [hv]
          apply tblGet_none
          intro kv hkv
          have := keys kv hkv; omega
        · simp [tblGet]
      · rename_i h1 h2
        have hj : j ≠ k := fun e => h2 e.symm
        simp only [tblGet, hj, if_false]
        exact ih (some j) h.2.2

theorem tblGet_set_self (t : Tbl α) (k : Nat) (v : α) (h : tblWf d t = true) :
    tblGet d (tblSet d t k v) k = v := tblGet_set_self_from d none t k v h

theorem tblSet_wf_from (lo : Option Nat) (t : Tbl α) (k : Nat) (v : α) (h : tblWfFrom d lo t = true)
    (hl : ∀ l, lo = some l → l < k) : tblWfFrom d lo (tblSet d t k v) = true := by
  induction t generalizing lo with
  | nil =>
    simp only [tblSet]
    split
    · exact h
    · rename_i hv
      rw [tblWfFrom_cons]
      exact ⟨hl, hv, rfl⟩
  | cons x t ih =>
    obtain ⟨j, w⟩ := x
    rw [tblWfFrom_cons] at h
    have keys := tblWfFrom_keys d j t h.2.2
    simp only [tblSet]
    split
    · rename_i hkj
      split
      · rw [tblWfFrom_cons]; exact h
      · rename_i hv
        rw [tblWfFrom_cons]
        refine ⟨hl, hv, ?_⟩
        rw [tblWfFrom_cons]
        exact ⟨fun l e => by cases e; exact hkj, h.2⟩
    · split
      · rename_i hk
        subst hk
        split
        · exact tblWfFrom_mono d (some k) lo t h.2.2 fun l e kv hkv => Nat.lt_trans (h.1 l e) (keys kv hkv)
        · rename_i hv
          rw [tblWfFrom_cons]
          exact ⟨h.1, hv, h.2.2⟩
      · rename_i h1 h2
        rw [tblWfFrom_cons]
        exact ⟨h.1, h.2.1, ih (some j) h.2.2 fun l e => by cases e; omega⟩

/-- A write keeps the canonical form. -/
theorem tblSet_wf (t : Tbl α) (k : Nat) (v : α) (h : tblWf d t = true) : tblWf d (tblSet d t k v) = true :=
  tblSet_wf_from d none t k v h (by simp)

theorem filter_wf_from (lo : Option Nat) (t : Tbl α) (q : Nat × α → Bool) (h : tblWfFrom d lo t = true) :
    tblWfFrom d lo (t.filter q) = true := by
  induction t generalizing lo with
  | nil => exact h
  | cons x t ih =>
    obtain ⟨k, v⟩ := x
    rw [tblWfFrom_cons] at h
    rw [List.filter_cons]
    split
    · rw [tblWfFrom_cons]
      exact ⟨h.1, h.2.1, ih (some k) h.2.2⟩
    · apply ih
      exact tblWfFrom_mono d (some k) lo t h.2.2 fun l e kv hkv =>
        Nat.lt_trans (h.1 l e) (tblWfFrom_keys d k t h.2.2 kv hkv)

/-- Entries taken out leave the canonical form. -/
theorem filter_wf (t : Tbl α) (q : Nat × α → Bool) (h : tblWf d t = true) : tblWf d (t.filter q) = true :=
  filter_wf_from d none t q h

omit [DecidableEq α] in
theorem tblClear_eq (lo hi : Nat) (t : Tbl α) :
    tblClear lo hi t = t.filter fun kv => decide (kv.1 < lo) || decide (hi ≤ kv.1) := rfl

theorem tblClear_wf (lo hi : Nat) (t : Tbl α) (h : tblWf d t = true) : tblWf d (tblClear lo hi t) = true :=
  filter_wf d t _ h

omit [DecidableEq α] in
/-- A cleared range reads as the default, the rest as before. -/
theorem tblGet_clear (lo hi k : Nat) (t : Tbl α) :
    tblGet d (tblClear lo hi t) k = if lo ≤ k ∧ k < hi then d k else tblGet d t k := by
  induction t with
  | nil => simp [tblClear, tblGet]
  | cons x t ih =>
    obtain ⟨j, v⟩ := x
    simp only [tblClear, List.filter_cons] at ih ⊢
    split
    · rename_i hj
      simp only [Bool.or_eq_true, decide_eq_true_eq] at hj
      simp only [tblGet, ih]
      split
      · rename_i e; subst e
        split
        · omega
        · rfl
      · rfl
    · rename_i hj
      simp only [Bool.or_eq_true, decide_eq_true_eq, not_or, Nat.not_lt, Nat.not_le] at hj
      rw [ih]
      simp only [tblGet]
      split
      · rfl
      · split
        · rename_i h1 e; subst e; omega
        · rfl

/-! ## Byte memories -/

theorem memCells_keys (d : Nat → Byte) (a : Nat) (bs : List Byte) :
    ∀ kv ∈ memCells d a bs, a ≤ kv.1 ∧ kv.1 < a + bs.length := by
  induction bs generalizing a with
  | nil => simp [memCells]
  | cons b bs ih =>
    intro kv hkv
    simp only [memCells] at hkv
    split at hkv
    · have := ih (a + 1) kv hkv
      simp only [List.length_cons]; omega
    · rcases List.mem_cons.1 hkv with rfl | hm
      · simp
      · have := ih (a + 1) kv hm
        simp only [List.length_cons]; omega

theorem memCells_wf_from (d : Nat → Byte) (lo : Option Nat) (a : Nat) (bs : List Byte) (hl : ∀ l, lo = some l → l < a) :
    tblWfFrom d lo (memCells d a bs) = true := by
  induction bs generalizing lo a with
  | nil => cases lo <;> rfl
  | cons b bs ih =>
    simp only [memCells]
    split
    · exact ih lo (a + 1) fun l e => Nat.lt_succ_of_lt (hl l e)
    · rename_i hb
      rw [tblWfFrom_cons]
      exact ⟨hl, hb, ih (some a) (a + 1) fun l e => by cases e; exact Nat.lt_succ_self a⟩

theorem memCells_wf (d : Nat → Byte) (a : Nat) (bs : List Byte) : tblWf d (memCells d a bs) = true :=
  memCells_wf_from d none a bs (by simp)

omit d in
theorem append_wf_from (d : Nat → α) (lo : Option Nat) (m : Nat) (x y : Tbl α) (hx : tblWfFrom d lo x = true)
    (hxm : ∀ kv ∈ x, kv.1 < m) (hy : tblWfFrom d none y = true) (hym : ∀ kv ∈ y, m ≤ kv.1)
    (hl : ∀ l, lo = some l → l < m) : tblWfFrom d lo (x ++ y) = true := by
  induction x generalizing lo with
  | nil => exact tblWfFrom_mono d none lo y hy fun l e kv hkv => Nat.lt_of_lt_of_le (hl l e) (hym kv hkv)
  | cons z x ih =>
    obtain ⟨k, v⟩ := z
    rw [tblWfFrom_cons] at hx
    rw [List.cons_append, tblWfFrom_cons]
    refine ⟨hx.1, hx.2.1, ih (some k) hx.2.2 (fun kv hkv => hxm kv (by simp [hkv])) ?_⟩
    intro l e; cases e; exact hxm (k, v) (by simp)

/-- A write of bytes keeps the canonical form. -/
theorem memWrite_wf (d : Nat → Byte) (m : Memory) (a : Nat) (bs : List Byte) (h : tblWf d m = true) :
    tblWf d (memWrite d m a bs) = true := by
  unfold memWrite tblWf
  apply append_wf_from d none (a + bs.length)
  · apply append_wf_from d none a
    · exact filter_wf_from d none m _ h
    · intro kv hkv; simpa using (List.mem_filter.1 hkv).2
    · exact memCells_wf d a bs
    · intro kv hkv; exact (memCells_keys d a bs kv hkv).1
    · simp
  · intro kv hkv
    rcases List.mem_append.1 hkv with h1 | h1
    · have := (List.mem_filter.1 h1).2
      simp only [decide_eq_true_eq] at this; omega
    · exact (memCells_keys d a bs kv h1).2
  · exact filter_wf_from d none m _ h
  · intro kv hkv; simpa using (List.mem_filter.1 hkv).2
  · simp

omit [DecidableEq α] in
theorem tblGet_append (x y : Tbl α) (k : Nat) (h : ∀ kv ∈ x, kv.1 ≠ k) : tblGet d (x ++ y) k = tblGet d y k := by
  induction x with
  | nil => rfl
  | cons z x ih =>
    obtain ⟨j, v⟩ := z
    have hj : j ≠ k := h (j, v) (by simp)
    simp only [List.cons_append, tblGet, hj, if_false]
    exact ih fun kv hkv => h kv (by simp [hkv])

omit [DecidableEq α] in
theorem tblGet_append_left (x y : Tbl α) (k : Nat) (h : ∀ kv ∈ y, kv.1 ≠ k) : tblGet d (x ++ y) k = tblGet d x k := by
  induction x with
  | nil =>
    induction y with
    | nil => rfl
    | cons z y ih =>
      obtain ⟨j, v⟩ := z
      have hj : j ≠ k := h (j, v) (by simp)
      simp only [List.nil_append, tblGet, hj, if_false]
      exact ih fun kv hkv => h kv (by simp [hkv])
  | cons z x ih =>
    obtain ⟨j, v⟩ := z
    simp only [List.cons_append, tblGet, ih]

omit [DecidableEq α] in
theorem tblGet_filter (t : Tbl α) (q : Nat → Bool) (k : Nat) (hk : q k = true) :
    tblGet d (t.filter fun kv => q kv.1) k = tblGet d t k := by
  induction t with
  | nil => rfl
  | cons z t ih =>
    obtain ⟨j, v⟩ := z
    simp only [List.filter_cons, tblGet]
    split
    · simp only [tblGet, ih]
    · rename_i hj
      have : j ≠ k := fun e => hj (by simp [e, hk])
      rw [ih, if_neg this]

/-- A byte outside the bytes written reads as before. -/
theorem tblGet_memWrite_out (d : Nat → Byte) (m : Memory) (a : Nat) (bs : List Byte) (x : Nat)
    (h : x < a ∨ a + bs.length ≤ x) : tblGet d (memWrite d m a bs) x = tblGet d m x := by
  unfold memWrite
  have hc : ∀ kv ∈ memCells d a bs, kv.1 ≠ x := fun kv hkv => by
    have := memCells_keys d a bs kv hkv; omega
  rcases h with h | h
  · rw [tblGet_append_left, tblGet_append_left d _ _ x hc, tblGet_filter d m (fun k => decide (k < a)) x (by simpa using h)]
    intro kv hkv
    have := (List.mem_filter.1 hkv).2
    simp only [decide_eq_true_eq] at this; omega
  · rw [tblGet_append, tblGet_filter d m (fun k => decide (a + bs.length ≤ k)) x (by simpa using h)]
    intro kv hkv
    rcases List.mem_append.1 hkv with h1 | h1
    · have := (List.mem_filter.1 h1).2
      simp only [decide_eq_true_eq] at this; omega
    · exact hc kv h1

theorem tblGet_memCells (d : Nat → Byte) (a : Nat) (bs : List Byte) (i : Nat) (h : i < bs.length) :
    tblGet d (memCells d a bs) (a + i) = bs[i] := by
  induction bs generalizing a i with
  | nil => simp at h
  | cons b bs ih =>
    simp only [memCells]
    cases i with
    | zero =>
      split
      · rename_i hb
        rw [Nat.add_zero, tblGet_none]
        · simp [hb]
        · intro kv hkv
          have := memCells_keys d (a + 1) bs kv hkv; omega
      · simp [tblGet]
    | succ i =>
      have hi : i < bs.length := by simpa using h
      have e := ih (a + 1) i hi
      rw [show a + (i + 1) = a + 1 + i by omega]
      split
      · simpa using e
      · simp only [tblGet]
        rw [if_neg (by omega)]
        simpa using e

/-- A byte written reads as written. -/
theorem tblGet_memWrite_in (d : Nat → Byte) (m : Memory) (a : Nat) (bs : List Byte) (i : Nat) (h : i < bs.length) :
    tblGet d (memWrite d m a bs) (a + i) = bs[i] := by
  unfold memWrite
  rw [List.append_assoc, tblGet_append, tblGet_append_left, tblGet_memCells d a bs i h]
  · intro kv hkv
    have := (List.mem_filter.1 hkv).2
    simp only [decide_eq_true_eq] at this; omega
  · intro kv hkv
    have := (List.mem_filter.1 hkv).2
    simp only [decide_eq_true_eq] at this; omega

end Sys2Proof
end

