-- ==== Sys2Proof/Laws/State.lean ====
section
/-!
SUPPORT. What each update of the state leaves as it was: one lemma per update and field, true by `rfl`.
-/
namespace Sys2Proof.Machine

@[simp] theorem setFur_pi (s : State) (f : Nat) (x : Furrow) : (setFur s f x).pi = s.pi := rfl
@[simp] theorem setFur_pins (s : State) (f : Nat) (x : Furrow) : (setFur s f x).pins = s.pins := rfl
@[simp] theorem setFur_he (s : State) (f : Nat) (x : Furrow) : (setFur s f x).he = s.he := rfl
@[simp] theorem setFur_ap (s : State) (f : Nat) (x : Furrow) : (setFur s f x).ap = s.ap := rfl
@[simp] theorem setFur_fl (s : State) (f : Nat) (x : Furrow) : (setFur s f x).fl = s.fl := rfl
@[simp] theorem setFur_ba (s : State) (f : Nat) (x : Furrow) : (setFur s f x).ba = s.ba := rfl
@[simp] theorem setFur_sl (s : State) (f : Nat) (x : Furrow) : (setFur s f x).sl = s.sl := rfl
@[simp] theorem setFur_sc (s : State) (f : Nat) (x : Furrow) : (setFur s f x).sc = s.sc := rfl
@[simp] theorem setFur_ch (s : State) (f : Nat) (x : Furrow) : (setFur s f x).ch = s.ch := rfl
@[simp] theorem setFur_sb (s : State) (f : Nat) (x : Furrow) : (setFur s f x).sb = s.sb := rfl
@[simp] theorem setFur_cn (s : State) (f : Nat) (x : Furrow) : (setFur s f x).cn = s.cn := rfl
@[simp] theorem setFur_hp (s : State) (f : Nat) (x : Furrow) : (setFur s f x).hp = s.hp := rfl
@[simp] theorem setFur_flash (s : State) (f : Nat) (x : Furrow) : (setFur s f x).flash = s.flash := rfl
@[simp] theorem setFur_pending (s : State) (f : Nat) (x : Furrow) : (setFur s f x).pending = s.pending := rfl
@[simp] theorem setFur_out (s : State) (f : Nat) (x : Furrow) : (setFur s f x).out = s.out := rfl
@[simp] theorem setFur_free (s : State) (f : Nat) (x : Furrow) : (setFur s f x).free = s.free := rfl

@[simp] theorem setPlot_pi (s : State) (p : Nat) (x : Plot) : (setPlot s p x).pi = s.pi := rfl
@[simp] theorem setPlot_pins (s : State) (p : Nat) (x : Plot) : (setPlot s p x).pins = s.pins := rfl
@[simp] theorem setPlot_he (s : State) (p : Nat) (x : Plot) : (setPlot s p x).he = s.he := rfl
@[simp] theorem setPlot_ap (s : State) (p : Nat) (x : Plot) : (setPlot s p x).ap = s.ap := rfl
@[simp] theorem setPlot_fl (s : State) (p : Nat) (x : Plot) : (setPlot s p x).fl = s.fl := rfl
@[simp] theorem setPlot_ba (s : State) (p : Nat) (x : Plot) : (setPlot s p x).ba = s.ba := rfl
@[simp] theorem setPlot_sl (s : State) (p : Nat) (x : Plot) : (setPlot s p x).sl = s.sl := rfl
@[simp] theorem setPlot_sc (s : State) (p : Nat) (x : Plot) : (setPlot s p x).sc = s.sc := rfl
@[simp] theorem setPlot_ch (s : State) (p : Nat) (x : Plot) : (setPlot s p x).ch = s.ch := rfl
@[simp] theorem setPlot_sb (s : State) (p : Nat) (x : Plot) : (setPlot s p x).sb = s.sb := rfl
@[simp] theorem setPlot_cn (s : State) (p : Nat) (x : Plot) : (setPlot s p x).cn = s.cn := rfl
@[simp] theorem setPlot_hp (s : State) (p : Nat) (x : Plot) : (setPlot s p x).hp = s.hp := rfl
@[simp] theorem setPlot_flash (s : State) (p : Nat) (x : Plot) : (setPlot s p x).flash = s.flash := rfl
@[simp] theorem setPlot_pending (s : State) (p : Nat) (x : Plot) : (setPlot s p x).pending = s.pending := rfl
@[simp] theorem setPlot_out (s : State) (p : Nat) (x : Plot) : (setPlot s p x).out = s.out := rfl
@[simp] theorem setPlot_free (s : State) (p : Nat) (x : Plot) : (setPlot s p x).free = s.free := rfl

@[simp] theorem setEvent_pi (s : State) (p e : Nat) (v : BitVec 64) : (setEvent s p e v).pi = s.pi := rfl
@[simp] theorem setEvent_pins (s : State) (p e : Nat) (v : BitVec 64) : (setEvent s p e v).pins = s.pins := rfl
@[simp] theorem setEvent_he (s : State) (p e : Nat) (v : BitVec 64) : (setEvent s p e v).he = s.he := rfl
@[simp] theorem setEvent_ap (s : State) (p e : Nat) (v : BitVec 64) : (setEvent s p e v).ap = s.ap := rfl
@[simp] theorem setEvent_fl (s : State) (p e : Nat) (v : BitVec 64) : (setEvent s p e v).fl = s.fl := rfl
@[simp] theorem setEvent_ba (s : State) (p e : Nat) (v : BitVec 64) : (setEvent s p e v).ba = s.ba := rfl
@[simp] theorem setEvent_sl (s : State) (p e : Nat) (v : BitVec 64) : (setEvent s p e v).sl = s.sl := rfl
@[simp] theorem setEvent_sc (s : State) (p e : Nat) (v : BitVec 64) : (setEvent s p e v).sc = s.sc := rfl
@[simp] theorem setEvent_ch (s : State) (p e : Nat) (v : BitVec 64) : (setEvent s p e v).ch = s.ch := rfl
@[simp] theorem setEvent_sb (s : State) (p e : Nat) (v : BitVec 64) : (setEvent s p e v).sb = s.sb := rfl
@[simp] theorem setEvent_cn (s : State) (p e : Nat) (v : BitVec 64) : (setEvent s p e v).cn = s.cn := rfl
@[simp] theorem setEvent_hp (s : State) (p e : Nat) (v : BitVec 64) : (setEvent s p e v).hp = s.hp := rfl
@[simp] theorem setEvent_flash (s : State) (p e : Nat) (v : BitVec 64) : (setEvent s p e v).flash = s.flash := rfl
@[simp] theorem setEvent_pending (s : State) (p e : Nat) (v : BitVec 64) : (setEvent s p e v).pending = s.pending := rfl
@[simp] theorem setEvent_out (s : State) (p e : Nat) (v : BitVec 64) : (setEvent s p e v).out = s.out := rfl
@[simp] theorem setEvent_free (s : State) (p e : Nat) (v : BitVec 64) : (setEvent s p e v).free = s.free := rfl

@[simp] theorem setDom_pi (s : State) (d : Nat) (x : Domain) : (setDom s d x).pi = s.pi := rfl
@[simp] theorem setDom_pins (s : State) (d : Nat) (x : Domain) : (setDom s d x).pins = s.pins := rfl
@[simp] theorem setDom_he (s : State) (d : Nat) (x : Domain) : (setDom s d x).he = s.he := rfl
@[simp] theorem setDom_ap (s : State) (d : Nat) (x : Domain) : (setDom s d x).ap = s.ap := rfl
@[simp] theorem setDom_fl (s : State) (d : Nat) (x : Domain) : (setDom s d x).fl = s.fl := rfl
@[simp] theorem setDom_ba (s : State) (d : Nat) (x : Domain) : (setDom s d x).ba = s.ba := rfl
@[simp] theorem setDom_sl (s : State) (d : Nat) (x : Domain) : (setDom s d x).sl = s.sl := rfl
@[simp] theorem setDom_sc (s : State) (d : Nat) (x : Domain) : (setDom s d x).sc = s.sc := rfl
@[simp] theorem setDom_ch (s : State) (d : Nat) (x : Domain) : (setDom s d x).ch = s.ch := rfl
@[simp] theorem setDom_sb (s : State) (d : Nat) (x : Domain) : (setDom s d x).sb = s.sb := rfl
@[simp] theorem setDom_cn (s : State) (d : Nat) (x : Domain) : (setDom s d x).cn = s.cn := rfl
@[simp] theorem setDom_hp (s : State) (d : Nat) (x : Domain) : (setDom s d x).hp = s.hp := rfl
@[simp] theorem setDom_flash (s : State) (d : Nat) (x : Domain) : (setDom s d x).flash = s.flash := rfl
@[simp] theorem setDom_pending (s : State) (d : Nat) (x : Domain) : (setDom s d x).pending = s.pending := rfl
@[simp] theorem setDom_out (s : State) (d : Nat) (x : Domain) : (setDom s d x).out = s.out := rfl
@[simp] theorem setDom_free (s : State) (d : Nat) (x : Domain) : (setDom s d x).free = s.free := rfl

@[simp] theorem setFb_pi (s : State) (q : Nat) (x : Firebox) : (setFb s q x).pi = s.pi := rfl
@[simp] theorem setFb_pins (s : State) (q : Nat) (x : Firebox) : (setFb s q x).pins = s.pins := rfl
@[simp] theorem setFb_hg (s : State) (q : Nat) (x : Firebox) : (setFb s q x).hg = s.hg := rfl
@[simp] theorem setFb_ap (s : State) (q : Nat) (x : Firebox) : (setFb s q x).ap = s.ap := rfl
@[simp] theorem setFb_fl (s : State) (q : Nat) (x : Firebox) : (setFb s q x).fl = s.fl := rfl
@[simp] theorem setFb_ba (s : State) (q : Nat) (x : Firebox) : (setFb s q x).ba = s.ba := rfl
@[simp] theorem setFb_sl (s : State) (q : Nat) (x : Firebox) : (setFb s q x).sl = s.sl := rfl
@[simp] theorem setFb_sc (s : State) (q : Nat) (x : Firebox) : (setFb s q x).sc = s.sc := rfl
@[simp] theorem setFb_ch (s : State) (q : Nat) (x : Firebox) : (setFb s q x).ch = s.ch := rfl
@[simp] theorem setFb_sb (s : State) (q : Nat) (x : Firebox) : (setFb s q x).sb = s.sb := rfl
@[simp] theorem setFb_cn (s : State) (q : Nat) (x : Firebox) : (setFb s q x).cn = s.cn := rfl
@[simp] theorem setFb_hp (s : State) (q : Nat) (x : Firebox) : (setFb s q x).hp = s.hp := rfl
@[simp] theorem setFb_flash (s : State) (q : Nat) (x : Firebox) : (setFb s q x).flash = s.flash := rfl
@[simp] theorem setFb_pending (s : State) (q : Nat) (x : Firebox) : (setFb s q x).pending = s.pending := rfl
@[simp] theorem setFb_out (s : State) (q : Nat) (x : Firebox) : (setFb s q x).out = s.out := rfl
@[simp] theorem setFb_free (s : State) (q : Nat) (x : Firebox) : (setFb s q x).free = s.free := rfl

@[simp] theorem setSlot_pi (s : State) (n : Nat) (x : Slot) : (setSlot s n x).pi = s.pi := rfl
@[simp] theorem setSlot_pins (s : State) (n : Nat) (x : Slot) : (setSlot s n x).pins = s.pins := rfl
@[simp] theorem setSlot_hg (s : State) (n : Nat) (x : Slot) : (setSlot s n x).hg = s.hg := rfl
@[simp] theorem setSlot_he (s : State) (n : Nat) (x : Slot) : (setSlot s n x).he = s.he := rfl
@[simp] theorem setSlot_fl (s : State) (n : Nat) (x : Slot) : (setSlot s n x).fl = s.fl := rfl
@[simp] theorem setSlot_ba (s : State) (n : Nat) (x : Slot) : (setSlot s n x).ba = s.ba := rfl
@[simp] theorem setSlot_sl (s : State) (n : Nat) (x : Slot) : (setSlot s n x).sl = s.sl := rfl
@[simp] theorem setSlot_sc (s : State) (n : Nat) (x : Slot) : (setSlot s n x).sc = s.sc := rfl
@[simp] theorem setSlot_ch (s : State) (n : Nat) (x : Slot) : (setSlot s n x).ch = s.ch := rfl
@[simp] theorem setSlot_sb (s : State) (n : Nat) (x : Slot) : (setSlot s n x).sb = s.sb := rfl
@[simp] theorem setSlot_cn (s : State) (n : Nat) (x : Slot) : (setSlot s n x).cn = s.cn := rfl
@[simp] theorem setSlot_hp (s : State) (n : Nat) (x : Slot) : (setSlot s n x).hp = s.hp := rfl
@[simp] theorem setSlot_flash (s : State) (n : Nat) (x : Slot) : (setSlot s n x).flash = s.flash := rfl
@[simp] theorem setSlot_pending (s : State) (n : Nat) (x : Slot) : (setSlot s n x).pending = s.pending := rfl
@[simp] theorem setSlot_out (s : State) (n : Nat) (x : Slot) : (setSlot s n x).out = s.out := rfl
@[simp] theorem setSlot_free (s : State) (n : Nat) (x : Slot) : (setSlot s n x).free = s.free := rfl

@[simp] theorem setTable_pi (s : State) (n : Nat) (x : TableSlot) : (setTable s n x).pi = s.pi := rfl
@[simp] theorem setTable_pins (s : State) (n : Nat) (x : TableSlot) : (setTable s n x).pins = s.pins := rfl
@[simp] theorem setTable_hg (s : State) (n : Nat) (x : TableSlot) : (setTable s n x).hg = s.hg := rfl
@[simp] theorem setTable_he (s : State) (n : Nat) (x : TableSlot) : (setTable s n x).he = s.he := rfl
@[simp] theorem setTable_ap (s : State) (n : Nat) (x : TableSlot) : (setTable s n x).ap = s.ap := rfl
@[simp] theorem setTable_ba (s : State) (n : Nat) (x : TableSlot) : (setTable s n x).ba = s.ba := rfl
@[simp] theorem setTable_sl (s : State) (n : Nat) (x : TableSlot) : (setTable s n x).sl = s.sl := rfl
@[simp] theorem setTable_sc (s : State) (n : Nat) (x : TableSlot) : (setTable s n x).sc = s.sc := rfl
@[simp] theorem setTable_ch (s : State) (n : Nat) (x : TableSlot) : (setTable s n x).ch = s.ch := rfl
@[simp] theorem setTable_sb (s : State) (n : Nat) (x : TableSlot) : (setTable s n x).sb = s.sb := rfl
@[simp] theorem setTable_cn (s : State) (n : Nat) (x : TableSlot) : (setTable s n x).cn = s.cn := rfl
@[simp] theorem setTable_hp (s : State) (n : Nat) (x : TableSlot) : (setTable s n x).hp = s.hp := rfl
@[simp] theorem setTable_flash (s : State) (n : Nat) (x : TableSlot) : (setTable s n x).flash = s.flash := rfl
@[simp] theorem setTable_pending (s : State) (n : Nat) (x : TableSlot) : (setTable s n x).pending = s.pending := rfl
@[simp] theorem setTable_out (s : State) (n : Nat) (x : TableSlot) : (setTable s n x).out = s.out := rfl
@[simp] theorem setTable_free (s : State) (n : Nat) (x : TableSlot) : (setTable s n x).free = s.free := rfl

@[simp] theorem setChan_pi (s : State) (c : Nat) (x : Channel) : (setChan s c x).pi = s.pi := rfl
@[simp] theorem setChan_pins (s : State) (c : Nat) (x : Channel) : (setChan s c x).pins = s.pins := rfl
@[simp] theorem setChan_hg (s : State) (c : Nat) (x : Channel) : (setChan s c x).hg = s.hg := rfl
@[simp] theorem setChan_he (s : State) (c : Nat) (x : Channel) : (setChan s c x).he = s.he := rfl
@[simp] theorem setChan_ap (s : State) (c : Nat) (x : Channel) : (setChan s c x).ap = s.ap := rfl
@[simp] theorem setChan_fl (s : State) (c : Nat) (x : Channel) : (setChan s c x).fl = s.fl := rfl
@[simp] theorem setChan_ba (s : State) (c : Nat) (x : Channel) : (setChan s c x).ba = s.ba := rfl
@[simp] theorem setChan_sc (s : State) (c : Nat) (x : Channel) : (setChan s c x).sc = s.sc := rfl
@[simp] theorem setChan_ch (s : State) (c : Nat) (x : Channel) : (setChan s c x).ch = s.ch := rfl
@[simp] theorem setChan_sb (s : State) (c : Nat) (x : Channel) : (setChan s c x).sb = s.sb := rfl
@[simp] theorem setChan_cn (s : State) (c : Nat) (x : Channel) : (setChan s c x).cn = s.cn := rfl
@[simp] theorem setChan_hp (s : State) (c : Nat) (x : Channel) : (setChan s c x).hp = s.hp := rfl
@[simp] theorem setChan_flash (s : State) (c : Nat) (x : Channel) : (setChan s c x).flash = s.flash := rfl
@[simp] theorem setChan_pending (s : State) (c : Nat) (x : Channel) : (setChan s c x).pending = s.pending := rfl
@[simp] theorem setChan_out (s : State) (c : Nat) (x : Channel) : (setChan s c x).out = s.out := rfl
@[simp] theorem setChan_free (s : State) (c : Nat) (x : Channel) : (setChan s c x).free = s.free := rfl

@[simp] theorem setCore_pi (s : State) (c : Nat) (x : Core) : (setCore s c x).pi = s.pi := rfl
@[simp] theorem setCore_pins (s : State) (c : Nat) (x : Core) : (setCore s c x).pins = s.pins := rfl
@[simp] theorem setCore_hg (s : State) (c : Nat) (x : Core) : (setCore s c x).hg = s.hg := rfl
@[simp] theorem setCore_he (s : State) (c : Nat) (x : Core) : (setCore s c x).he = s.he := rfl
@[simp] theorem setCore_ap (s : State) (c : Nat) (x : Core) : (setCore s c x).ap = s.ap := rfl
@[simp] theorem setCore_fl (s : State) (c : Nat) (x : Core) : (setCore s c x).fl = s.fl := rfl
@[simp] theorem setCore_ba (s : State) (c : Nat) (x : Core) : (setCore s c x).ba = s.ba := rfl
@[simp] theorem setCore_sl (s : State) (c : Nat) (x : Core) : (setCore s c x).sl = s.sl := rfl
@[simp] theorem setCore_sc (s : State) (c : Nat) (x : Core) : (setCore s c x).sc = s.sc := rfl
@[simp] theorem setCore_sb (s : State) (c : Nat) (x : Core) : (setCore s c x).sb = s.sb := rfl
@[simp] theorem setCore_cn (s : State) (c : Nat) (x : Core) : (setCore s c x).cn = s.cn := rfl
@[simp] theorem setCore_hp (s : State) (c : Nat) (x : Core) : (setCore s c x).hp = s.hp := rfl
@[simp] theorem setCore_flash (s : State) (c : Nat) (x : Core) : (setCore s c x).flash = s.flash := rfl
@[simp] theorem setCore_pending (s : State) (c : Nat) (x : Core) : (setCore s c x).pending = s.pending := rfl
@[simp] theorem setCore_out (s : State) (c : Nat) (x : Core) : (setCore s c x).out = s.out := rfl
@[simp] theorem setCore_free (s : State) (c : Nat) (x : Core) : (setCore s c x).free = s.free := rfl

@[simp] theorem setPort_pi (s : State) (n : Nat) (x : Port) : (setPort s n x).pi = s.pi := rfl
@[simp] theorem setPort_pins (s : State) (n : Nat) (x : Port) : (setPort s n x).pins = s.pins := rfl
@[simp] theorem setPort_hg (s : State) (n : Nat) (x : Port) : (setPort s n x).hg = s.hg := rfl
@[simp] theorem setPort_he (s : State) (n : Nat) (x : Port) : (setPort s n x).he = s.he := rfl
@[simp] theorem setPort_ap (s : State) (n : Nat) (x : Port) : (setPort s n x).ap = s.ap := rfl
@[simp] theorem setPort_fl (s : State) (n : Nat) (x : Port) : (setPort s n x).fl = s.fl := rfl
@[simp] theorem setPort_ba (s : State) (n : Nat) (x : Port) : (setPort s n x).ba = s.ba := rfl
@[simp] theorem setPort_sl (s : State) (n : Nat) (x : Port) : (setPort s n x).sl = s.sl := rfl
@[simp] theorem setPort_sc (s : State) (n : Nat) (x : Port) : (setPort s n x).sc = s.sc := rfl
@[simp] theorem setPort_ch (s : State) (n : Nat) (x : Port) : (setPort s n x).ch = s.ch := rfl
@[simp] theorem setPort_sb (s : State) (n : Nat) (x : Port) : (setPort s n x).sb = s.sb := rfl
@[simp] theorem setPort_hp (s : State) (n : Nat) (x : Port) : (setPort s n x).hp = s.hp := rfl
@[simp] theorem setPort_flash (s : State) (n : Nat) (x : Port) : (setPort s n x).flash = s.flash := rfl
@[simp] theorem setPort_pending (s : State) (n : Nat) (x : Port) : (setPort s n x).pending = s.pending := rfl
@[simp] theorem setPort_out (s : State) (n : Nat) (x : Port) : (setPort s n x).out = s.out := rfl
@[simp] theorem setPort_free (s : State) (n : Nat) (x : Port) : (setPort s n x).free = s.free := rfl

@[simp] theorem setPower_pins (s : State) (d : Nat) (x : Power) : (setPower s d x).pins = s.pins := rfl
@[simp] theorem setPower_hg (s : State) (d : Nat) (x : Power) : (setPower s d x).hg = s.hg := rfl
@[simp] theorem setPower_he (s : State) (d : Nat) (x : Power) : (setPower s d x).he = s.he := rfl
@[simp] theorem setPower_ap (s : State) (d : Nat) (x : Power) : (setPower s d x).ap = s.ap := rfl
@[simp] theorem setPower_fl (s : State) (d : Nat) (x : Power) : (setPower s d x).fl = s.fl := rfl
@[simp] theorem setPower_ba (s : State) (d : Nat) (x : Power) : (setPower s d x).ba = s.ba := rfl
@[simp] theorem setPower_sl (s : State) (d : Nat) (x : Power) : (setPower s d x).sl = s.sl := rfl
@[simp] theorem setPower_sc (s : State) (d : Nat) (x : Power) : (setPower s d x).sc = s.sc := rfl
@[simp] theorem setPower_ch (s : State) (d : Nat) (x : Power) : (setPower s d x).ch = s.ch := rfl
@[simp] theorem setPower_sb (s : State) (d : Nat) (x : Power) : (setPower s d x).sb = s.sb := rfl
@[simp] theorem setPower_cn (s : State) (d : Nat) (x : Power) : (setPower s d x).cn = s.cn := rfl
@[simp] theorem setPower_hp (s : State) (d : Nat) (x : Power) : (setPower s d x).hp = s.hp := rfl
@[simp] theorem setPower_flash (s : State) (d : Nat) (x : Power) : (setPower s d x).flash = s.flash := rfl
@[simp] theorem setPower_pending (s : State) (d : Nat) (x : Power) : (setPower s d x).pending = s.pending := rfl
@[simp] theorem setPower_out (s : State) (d : Nat) (x : Power) : (setPower s d x).out = s.out := rfl
@[simp] theorem setPower_free (s : State) (d : Nat) (x : Power) : (setPower s d x).free = s.free := rfl

@[simp] theorem setSrc_pi (s : State) (n : Nat) (x : Source) : (setSrc s n x).pi = s.pi := rfl
@[simp] theorem setSrc_pins (s : State) (n : Nat) (x : Source) : (setSrc s n x).pins = s.pins := rfl
@[simp] theorem setSrc_hg (s : State) (n : Nat) (x : Source) : (setSrc s n x).hg = s.hg := rfl
@[simp] theorem setSrc_he (s : State) (n : Nat) (x : Source) : (setSrc s n x).he = s.he := rfl
@[simp] theorem setSrc_ap (s : State) (n : Nat) (x : Source) : (setSrc s n x).ap = s.ap := rfl
@[simp] theorem setSrc_fl (s : State) (n : Nat) (x : Source) : (setSrc s n x).fl = s.fl := rfl
@[simp] theorem setSrc_ba (s : State) (n : Nat) (x : Source) : (setSrc s n x).ba = s.ba := rfl
@[simp] theorem setSrc_sl (s : State) (n : Nat) (x : Source) : (setSrc s n x).sl = s.sl := rfl
@[simp] theorem setSrc_sc (s : State) (n : Nat) (x : Source) : (setSrc s n x).sc = s.sc := rfl
@[simp] theorem setSrc_ch (s : State) (n : Nat) (x : Source) : (setSrc s n x).ch = s.ch := rfl
@[simp] theorem setSrc_cn (s : State) (n : Nat) (x : Source) : (setSrc s n x).cn = s.cn := rfl
@[simp] theorem setSrc_hp (s : State) (n : Nat) (x : Source) : (setSrc s n x).hp = s.hp := rfl
@[simp] theorem setSrc_flash (s : State) (n : Nat) (x : Source) : (setSrc s n x).flash = s.flash := rfl
@[simp] theorem setSrc_pending (s : State) (n : Nat) (x : Source) : (setSrc s n x).pending = s.pending := rfl
@[simp] theorem setSrc_out (s : State) (n : Nat) (x : Source) : (setSrc s n x).out = s.out := rfl
@[simp] theorem setSrc_free (s : State) (n : Nat) (x : Source) : (setSrc s n x).free = s.free := rfl

@[simp] theorem emit_pi (o : Out) (s : State) : (emit o s).pi = s.pi := rfl
@[simp] theorem emit_pins (o : Out) (s : State) : (emit o s).pins = s.pins := rfl
@[simp] theorem emit_hg (o : Out) (s : State) : (emit o s).hg = s.hg := rfl
@[simp] theorem emit_he (o : Out) (s : State) : (emit o s).he = s.he := rfl
@[simp] theorem emit_ap (o : Out) (s : State) : (emit o s).ap = s.ap := rfl
@[simp] theorem emit_fl (o : Out) (s : State) : (emit o s).fl = s.fl := rfl
@[simp] theorem emit_ba (o : Out) (s : State) : (emit o s).ba = s.ba := rfl
@[simp] theorem emit_sl (o : Out) (s : State) : (emit o s).sl = s.sl := rfl
@[simp] theorem emit_sc (o : Out) (s : State) : (emit o s).sc = s.sc := rfl
@[simp] theorem emit_ch (o : Out) (s : State) : (emit o s).ch = s.ch := rfl
@[simp] theorem emit_sb (o : Out) (s : State) : (emit o s).sb = s.sb := rfl
@[simp] theorem emit_cn (o : Out) (s : State) : (emit o s).cn = s.cn := rfl
@[simp] theorem emit_hp (o : Out) (s : State) : (emit o s).hp = s.hp := rfl
@[simp] theorem emit_flash (o : Out) (s : State) : (emit o s).flash = s.flash := rfl
@[simp] theorem emit_pending (o : Out) (s : State) : (emit o s).pending = s.pending := rfl
@[simp] theorem emit_free (o : Out) (s : State) : (emit o s).free = s.free := rfl

@[simp] theorem modFur_pi (f : Nat) (g : Furrow → Furrow) (s : State) : (modFur f g s).pi = s.pi := rfl
@[simp] theorem modFur_pins (f : Nat) (g : Furrow → Furrow) (s : State) : (modFur f g s).pins = s.pins := rfl
@[simp] theorem modFur_he (f : Nat) (g : Furrow → Furrow) (s : State) : (modFur f g s).he = s.he := rfl
@[simp] theorem modFur_ap (f : Nat) (g : Furrow → Furrow) (s : State) : (modFur f g s).ap = s.ap := rfl
@[simp] theorem modFur_fl (f : Nat) (g : Furrow → Furrow) (s : State) : (modFur f g s).fl = s.fl := rfl
@[simp] theorem modFur_ba (f : Nat) (g : Furrow → Furrow) (s : State) : (modFur f g s).ba = s.ba := rfl
@[simp] theorem modFur_sl (f : Nat) (g : Furrow → Furrow) (s : State) : (modFur f g s).sl = s.sl := rfl
@[simp] theorem modFur_sc (f : Nat) (g : Furrow → Furrow) (s : State) : (modFur f g s).sc = s.sc := rfl
@[simp] theorem modFur_ch (f : Nat) (g : Furrow → Furrow) (s : State) : (modFur f g s).ch = s.ch := rfl
@[simp] theorem modFur_sb (f : Nat) (g : Furrow → Furrow) (s : State) : (modFur f g s).sb = s.sb := rfl
@[simp] theorem modFur_cn (f : Nat) (g : Furrow → Furrow) (s : State) : (modFur f g s).cn = s.cn := rfl
@[simp] theorem modFur_hp (f : Nat) (g : Furrow → Furrow) (s : State) : (modFur f g s).hp = s.hp := rfl
@[simp] theorem modFur_flash (f : Nat) (g : Furrow → Furrow) (s : State) : (modFur f g s).flash = s.flash := rfl
@[simp] theorem modFur_pending (f : Nat) (g : Furrow → Furrow) (s : State) : (modFur f g s).pending = s.pending := rfl
@[simp] theorem modFur_out (f : Nat) (g : Furrow → Furrow) (s : State) : (modFur f g s).out = s.out := rfl
@[simp] theorem modFur_free (f : Nat) (g : Furrow → Furrow) (s : State) : (modFur f g s).free = s.free := rfl

@[simp] theorem modPlot_pi (p : Nat) (g : Plot → Plot) (s : State) : (modPlot p g s).pi = s.pi := rfl
@[simp] theorem modPlot_pins (p : Nat) (g : Plot → Plot) (s : State) : (modPlot p g s).pins = s.pins := rfl
@[simp] theorem modPlot_he (p : Nat) (g : Plot → Plot) (s : State) : (modPlot p g s).he = s.he := rfl
@[simp] theorem modPlot_ap (p : Nat) (g : Plot → Plot) (s : State) : (modPlot p g s).ap = s.ap := rfl
@[simp] theorem modPlot_fl (p : Nat) (g : Plot → Plot) (s : State) : (modPlot p g s).fl = s.fl := rfl
@[simp] theorem modPlot_ba (p : Nat) (g : Plot → Plot) (s : State) : (modPlot p g s).ba = s.ba := rfl
@[simp] theorem modPlot_sl (p : Nat) (g : Plot → Plot) (s : State) : (modPlot p g s).sl = s.sl := rfl
@[simp] theorem modPlot_sc (p : Nat) (g : Plot → Plot) (s : State) : (modPlot p g s).sc = s.sc := rfl
@[simp] theorem modPlot_ch (p : Nat) (g : Plot → Plot) (s : State) : (modPlot p g s).ch = s.ch := rfl
@[simp] theorem modPlot_sb (p : Nat) (g : Plot → Plot) (s : State) : (modPlot p g s).sb = s.sb := rfl
@[simp] theorem modPlot_cn (p : Nat) (g : Plot → Plot) (s : State) : (modPlot p g s).cn = s.cn := rfl
@[simp] theorem modPlot_hp (p : Nat) (g : Plot → Plot) (s : State) : (modPlot p g s).hp = s.hp := rfl
@[simp] theorem modPlot_flash (p : Nat) (g : Plot → Plot) (s : State) : (modPlot p g s).flash = s.flash := rfl
@[simp] theorem modPlot_pending (p : Nat) (g : Plot → Plot) (s : State) : (modPlot p g s).pending = s.pending := rfl
@[simp] theorem modPlot_out (p : Nat) (g : Plot → Plot) (s : State) : (modPlot p g s).out = s.out := rfl
@[simp] theorem modPlot_free (p : Nat) (g : Plot → Plot) (s : State) : (modPlot p g s).free = s.free := rfl

@[simp] theorem modMail_pi (p : Nat) (g : Mailbox → Mailbox) (s : State) : (modMail p g s).pi = s.pi := rfl
@[simp] theorem modMail_pins (p : Nat) (g : Mailbox → Mailbox) (s : State) : (modMail p g s).pins = s.pins := rfl
@[simp] theorem modMail_he (p : Nat) (g : Mailbox → Mailbox) (s : State) : (modMail p g s).he = s.he := rfl
@[simp] theorem modMail_ap (p : Nat) (g : Mailbox → Mailbox) (s : State) : (modMail p g s).ap = s.ap := rfl
@[simp] theorem modMail_fl (p : Nat) (g : Mailbox → Mailbox) (s : State) : (modMail p g s).fl = s.fl := rfl
@[simp] theorem modMail_ba (p : Nat) (g : Mailbox → Mailbox) (s : State) : (modMail p g s).ba = s.ba := rfl
@[simp] theorem modMail_sl (p : Nat) (g : Mailbox → Mailbox) (s : State) : (modMail p g s).sl = s.sl := rfl
@[simp] theorem modMail_sc (p : Nat) (g : Mailbox → Mailbox) (s : State) : (modMail p g s).sc = s.sc := rfl
@[simp] theorem modMail_ch (p : Nat) (g : Mailbox → Mailbox) (s : State) : (modMail p g s).ch = s.ch := rfl
@[simp] theorem modMail_sb (p : Nat) (g : Mailbox → Mailbox) (s : State) : (modMail p g s).sb = s.sb := rfl
@[simp] theorem modMail_cn (p : Nat) (g : Mailbox → Mailbox) (s : State) : (modMail p g s).cn = s.cn := rfl
@[simp] theorem modMail_hp (p : Nat) (g : Mailbox → Mailbox) (s : State) : (modMail p g s).hp = s.hp := rfl
@[simp] theorem modMail_flash (p : Nat) (g : Mailbox → Mailbox) (s : State) : (modMail p g s).flash = s.flash := rfl
@[simp] theorem modMail_pending (p : Nat) (g : Mailbox → Mailbox) (s : State) : (modMail p g s).pending = s.pending := rfl
@[simp] theorem modMail_out (p : Nat) (g : Mailbox → Mailbox) (s : State) : (modMail p g s).out = s.out := rfl
@[simp] theorem modMail_free (p : Nat) (g : Mailbox → Mailbox) (s : State) : (modMail p g s).free = s.free := rfl

@[simp] theorem modDom_pi (d : Nat) (g : Domain → Domain) (s : State) : (modDom d g s).pi = s.pi := rfl
@[simp] theorem modDom_pins (d : Nat) (g : Domain → Domain) (s : State) : (modDom d g s).pins = s.pins := rfl
@[simp] theorem modDom_he (d : Nat) (g : Domain → Domain) (s : State) : (modDom d g s).he = s.he := rfl
@[simp] theorem modDom_ap (d : Nat) (g : Domain → Domain) (s : State) : (modDom d g s).ap = s.ap := rfl
@[simp] theorem modDom_fl (d : Nat) (g : Domain → Domain) (s : State) : (modDom d g s).fl = s.fl := rfl
@[simp] theorem modDom_ba (d : Nat) (g : Domain → Domain) (s : State) : (modDom d g s).ba = s.ba := rfl
@[simp] theorem modDom_sl (d : Nat) (g : Domain → Domain) (s : State) : (modDom d g s).sl = s.sl := rfl
@[simp] theorem modDom_sc (d : Nat) (g : Domain → Domain) (s : State) : (modDom d g s).sc = s.sc := rfl
@[simp] theorem modDom_ch (d : Nat) (g : Domain → Domain) (s : State) : (modDom d g s).ch = s.ch := rfl
@[simp] theorem modDom_sb (d : Nat) (g : Domain → Domain) (s : State) : (modDom d g s).sb = s.sb := rfl
@[simp] theorem modDom_cn (d : Nat) (g : Domain → Domain) (s : State) : (modDom d g s).cn = s.cn := rfl
@[simp] theorem modDom_hp (d : Nat) (g : Domain → Domain) (s : State) : (modDom d g s).hp = s.hp := rfl
@[simp] theorem modDom_flash (d : Nat) (g : Domain → Domain) (s : State) : (modDom d g s).flash = s.flash := rfl
@[simp] theorem modDom_pending (d : Nat) (g : Domain → Domain) (s : State) : (modDom d g s).pending = s.pending := rfl
@[simp] theorem modDom_out (d : Nat) (g : Domain → Domain) (s : State) : (modDom d g s).out = s.out := rfl
@[simp] theorem modDom_free (d : Nat) (g : Domain → Domain) (s : State) : (modDom d g s).free = s.free := rfl

@[simp] theorem modFb_pi (q : Nat) (g : Firebox → Firebox) (s : State) : (modFb q g s).pi = s.pi := rfl
@[simp] theorem modFb_pins (q : Nat) (g : Firebox → Firebox) (s : State) : (modFb q g s).pins = s.pins := rfl
@[simp] theorem modFb_hg (q : Nat) (g : Firebox → Firebox) (s : State) : (modFb q g s).hg = s.hg := rfl
@[simp] theorem modFb_ap (q : Nat) (g : Firebox → Firebox) (s : State) : (modFb q g s).ap = s.ap := rfl
@[simp] theorem modFb_fl (q : Nat) (g : Firebox → Firebox) (s : State) : (modFb q g s).fl = s.fl := rfl
@[simp] theorem modFb_ba (q : Nat) (g : Firebox → Firebox) (s : State) : (modFb q g s).ba = s.ba := rfl
@[simp] theorem modFb_sl (q : Nat) (g : Firebox → Firebox) (s : State) : (modFb q g s).sl = s.sl := rfl
@[simp] theorem modFb_sc (q : Nat) (g : Firebox → Firebox) (s : State) : (modFb q g s).sc = s.sc := rfl
@[simp] theorem modFb_ch (q : Nat) (g : Firebox → Firebox) (s : State) : (modFb q g s).ch = s.ch := rfl
@[simp] theorem modFb_sb (q : Nat) (g : Firebox → Firebox) (s : State) : (modFb q g s).sb = s.sb := rfl
@[simp] theorem modFb_cn (q : Nat) (g : Firebox → Firebox) (s : State) : (modFb q g s).cn = s.cn := rfl
@[simp] theorem modFb_hp (q : Nat) (g : Firebox → Firebox) (s : State) : (modFb q g s).hp = s.hp := rfl
@[simp] theorem modFb_flash (q : Nat) (g : Firebox → Firebox) (s : State) : (modFb q g s).flash = s.flash := rfl
@[simp] theorem modFb_pending (q : Nat) (g : Firebox → Firebox) (s : State) : (modFb q g s).pending = s.pending := rfl
@[simp] theorem modFb_out (q : Nat) (g : Firebox → Firebox) (s : State) : (modFb q g s).out = s.out := rfl
@[simp] theorem modFb_free (q : Nat) (g : Firebox → Firebox) (s : State) : (modFb q g s).free = s.free := rfl

@[simp] theorem modSlot_pi (n : Nat) (g : Slot → Slot) (s : State) : (modSlot n g s).pi = s.pi := rfl
@[simp] theorem modSlot_pins (n : Nat) (g : Slot → Slot) (s : State) : (modSlot n g s).pins = s.pins := rfl
@[simp] theorem modSlot_hg (n : Nat) (g : Slot → Slot) (s : State) : (modSlot n g s).hg = s.hg := rfl
@[simp] theorem modSlot_he (n : Nat) (g : Slot → Slot) (s : State) : (modSlot n g s).he = s.he := rfl
@[simp] theorem modSlot_fl (n : Nat) (g : Slot → Slot) (s : State) : (modSlot n g s).fl = s.fl := rfl
@[simp] theorem modSlot_ba (n : Nat) (g : Slot → Slot) (s : State) : (modSlot n g s).ba = s.ba := rfl
@[simp] theorem modSlot_sl (n : Nat) (g : Slot → Slot) (s : State) : (modSlot n g s).sl = s.sl := rfl
@[simp] theorem modSlot_sc (n : Nat) (g : Slot → Slot) (s : State) : (modSlot n g s).sc = s.sc := rfl
@[simp] theorem modSlot_ch (n : Nat) (g : Slot → Slot) (s : State) : (modSlot n g s).ch = s.ch := rfl
@[simp] theorem modSlot_sb (n : Nat) (g : Slot → Slot) (s : State) : (modSlot n g s).sb = s.sb := rfl
@[simp] theorem modSlot_cn (n : Nat) (g : Slot → Slot) (s : State) : (modSlot n g s).cn = s.cn := rfl
@[simp] theorem modSlot_hp (n : Nat) (g : Slot → Slot) (s : State) : (modSlot n g s).hp = s.hp := rfl
@[simp] theorem modSlot_flash (n : Nat) (g : Slot → Slot) (s : State) : (modSlot n g s).flash = s.flash := rfl
@[simp] theorem modSlot_pending (n : Nat) (g : Slot → Slot) (s : State) : (modSlot n g s).pending = s.pending := rfl
@[simp] theorem modSlot_out (n : Nat) (g : Slot → Slot) (s : State) : (modSlot n g s).out = s.out := rfl
@[simp] theorem modSlot_free (n : Nat) (g : Slot → Slot) (s : State) : (modSlot n g s).free = s.free := rfl

@[simp] theorem modCore_pi (c : Nat) (g : Core → Core) (s : State) : (modCore c g s).pi = s.pi := rfl
@[simp] theorem modCore_pins (c : Nat) (g : Core → Core) (s : State) : (modCore c g s).pins = s.pins := rfl
@[simp] theorem modCore_hg (c : Nat) (g : Core → Core) (s : State) : (modCore c g s).hg = s.hg := rfl
@[simp] theorem modCore_he (c : Nat) (g : Core → Core) (s : State) : (modCore c g s).he = s.he := rfl
@[simp] theorem modCore_ap (c : Nat) (g : Core → Core) (s : State) : (modCore c g s).ap = s.ap := rfl
@[simp] theorem modCore_fl (c : Nat) (g : Core → Core) (s : State) : (modCore c g s).fl = s.fl := rfl
@[simp] theorem modCore_ba (c : Nat) (g : Core → Core) (s : State) : (modCore c g s).ba = s.ba := rfl
@[simp] theorem modCore_sl (c : Nat) (g : Core → Core) (s : State) : (modCore c g s).sl = s.sl := rfl
@[simp] theorem modCore_sc (c : Nat) (g : Core → Core) (s : State) : (modCore c g s).sc = s.sc := rfl
@[simp] theorem modCore_sb (c : Nat) (g : Core → Core) (s : State) : (modCore c g s).sb = s.sb := rfl
@[simp] theorem modCore_cn (c : Nat) (g : Core → Core) (s : State) : (modCore c g s).cn = s.cn := rfl
@[simp] theorem modCore_hp (c : Nat) (g : Core → Core) (s : State) : (modCore c g s).hp = s.hp := rfl
@[simp] theorem modCore_flash (c : Nat) (g : Core → Core) (s : State) : (modCore c g s).flash = s.flash := rfl
@[simp] theorem modCore_pending (c : Nat) (g : Core → Core) (s : State) : (modCore c g s).pending = s.pending := rfl
@[simp] theorem modCore_out (c : Nat) (g : Core → Core) (s : State) : (modCore c g s).out = s.out := rfl
@[simp] theorem modCore_free (c : Nat) (g : Core → Core) (s : State) : (modCore c g s).free = s.free := rfl

@[simp] theorem modPort_pi (n : Nat) (g : Port → Port) (s : State) : (modPort n g s).pi = s.pi := rfl
@[simp] theorem modPort_pins (n : Nat) (g : Port → Port) (s : State) : (modPort n g s).pins = s.pins := rfl
@[simp] theorem modPort_hg (n : Nat) (g : Port → Port) (s : State) : (modPort n g s).hg = s.hg := rfl
@[simp] theorem modPort_he (n : Nat) (g : Port → Port) (s : State) : (modPort n g s).he = s.he := rfl
@[simp] theorem modPort_ap (n : Nat) (g : Port → Port) (s : State) : (modPort n g s).ap = s.ap := rfl
@[simp] theorem modPort_fl (n : Nat) (g : Port → Port) (s : State) : (modPort n g s).fl = s.fl := rfl
@[simp] theorem modPort_ba (n : Nat) (g : Port → Port) (s : State) : (modPort n g s).ba = s.ba := rfl
@[simp] theorem modPort_sl (n : Nat) (g : Port → Port) (s : State) : (modPort n g s).sl = s.sl := rfl
@[simp] theorem modPort_sc (n : Nat) (g : Port → Port) (s : State) : (modPort n g s).sc = s.sc := rfl
@[simp] theorem modPort_ch (n : Nat) (g : Port → Port) (s : State) : (modPort n g s).ch = s.ch := rfl
@[simp] theorem modPort_sb (n : Nat) (g : Port → Port) (s : State) : (modPort n g s).sb = s.sb := rfl
@[simp] theorem modPort_hp (n : Nat) (g : Port → Port) (s : State) : (modPort n g s).hp = s.hp := rfl
@[simp] theorem modPort_flash (n : Nat) (g : Port → Port) (s : State) : (modPort n g s).flash = s.flash := rfl
@[simp] theorem modPort_pending (n : Nat) (g : Port → Port) (s : State) : (modPort n g s).pending = s.pending := rfl
@[simp] theorem modPort_out (n : Nat) (g : Port → Port) (s : State) : (modPort n g s).out = s.out := rfl
@[simp] theorem modPort_free (n : Nat) (g : Port → Port) (s : State) : (modPort n g s).free = s.free := rfl

@[simp] theorem setFur_hg_commit (s : State) (f : Nat) (x : Furrow) : (setFur s f x).hg.commit = s.hg.commit := rfl
@[simp] theorem setFur_hg_hearthHold (s : State) (f : Nat) (x : Furrow) : (setFur s f x).hg.hearthHold = s.hg.hearthHold := rfl
@[simp] theorem setFur_hg_gaugeEn (s : State) (f : Nat) (x : Furrow) : (setFur s f x).hg.gaugeEn = s.hg.gaugeEn := rfl
@[simp] theorem setFur_hg_stallN (s : State) (f : Nat) (x : Furrow) : (setFur s f x).hg.stallN = s.hg.stallN := rfl
@[simp] theorem setFur_hg_ctxValid (s : State) (f : Nat) (x : Furrow) : (setFur s f x).hg.ctxValid = s.hg.ctxValid := rfl
@[simp] theorem setFur_hg_ctxLost (s : State) (f : Nat) (x : Furrow) : (setFur s f x).hg.ctxLost = s.hg.ctxLost := rfl
@[simp] theorem setFur_hg_conflictTrace (s : State) (f : Nat) (x : Furrow) : (setFur s f x).hg.conflictTrace = s.hg.conflictTrace := rfl
@[simp] theorem setFur_hg_conflictGauge (s : State) (f : Nat) (x : Furrow) : (setFur s f x).hg.conflictGauge = s.hg.conflictGauge := rfl
@[simp] theorem setFur_hg_conflictSpill (s : State) (f : Nat) (x : Furrow) : (setFur s f x).hg.conflictSpill = s.hg.conflictSpill := rfl
@[simp] theorem setFur_hg_domains (s : State) (f : Nat) (x : Furrow) : (setFur s f x).hg.domains = s.hg.domains := rfl
@[simp] theorem setFur_hg_plots (s : State) (f : Nat) (x : Furrow) : (setFur s f x).hg.plots = s.hg.plots := rfl
@[simp] theorem setFur_hg_events (s : State) (f : Nat) (x : Furrow) : (setFur s f x).hg.events = s.hg.events := rfl
@[simp] theorem setFur_hg_nextOp (s : State) (f : Nat) (x : Furrow) : (setFur s f x).hg.nextOp = s.hg.nextOp := rfl

@[simp] theorem setPlot_hg_commit (s : State) (p : Nat) (x : Plot) : (setPlot s p x).hg.commit = s.hg.commit := rfl
@[simp] theorem setPlot_hg_hearthHold (s : State) (p : Nat) (x : Plot) : (setPlot s p x).hg.hearthHold = s.hg.hearthHold := rfl
@[simp] theorem setPlot_hg_gaugeEn (s : State) (p : Nat) (x : Plot) : (setPlot s p x).hg.gaugeEn = s.hg.gaugeEn := rfl
@[simp] theorem setPlot_hg_stallN (s : State) (p : Nat) (x : Plot) : (setPlot s p x).hg.stallN = s.hg.stallN := rfl
@[simp] theorem setPlot_hg_ctxValid (s : State) (p : Nat) (x : Plot) : (setPlot s p x).hg.ctxValid = s.hg.ctxValid := rfl
@[simp] theorem setPlot_hg_ctxLost (s : State) (p : Nat) (x : Plot) : (setPlot s p x).hg.ctxLost = s.hg.ctxLost := rfl
@[simp] theorem setPlot_hg_conflictTrace (s : State) (p : Nat) (x : Plot) : (setPlot s p x).hg.conflictTrace = s.hg.conflictTrace := rfl
@[simp] theorem setPlot_hg_conflictGauge (s : State) (p : Nat) (x : Plot) : (setPlot s p x).hg.conflictGauge = s.hg.conflictGauge := rfl
@[simp] theorem setPlot_hg_conflictSpill (s : State) (p : Nat) (x : Plot) : (setPlot s p x).hg.conflictSpill = s.hg.conflictSpill := rfl
@[simp] theorem setPlot_hg_domains (s : State) (p : Nat) (x : Plot) : (setPlot s p x).hg.domains = s.hg.domains := rfl
@[simp] theorem setPlot_hg_furrows (s : State) (p : Nat) (x : Plot) : (setPlot s p x).hg.furrows = s.hg.furrows := rfl
@[simp] theorem setPlot_hg_events (s : State) (p : Nat) (x : Plot) : (setPlot s p x).hg.events = s.hg.events := rfl
@[simp] theorem setPlot_hg_nextOp (s : State) (p : Nat) (x : Plot) : (setPlot s p x).hg.nextOp = s.hg.nextOp := rfl

@[simp] theorem setEvent_hg_commit (s : State) (p e : Nat) (v : BitVec 64) : (setEvent s p e v).hg.commit = s.hg.commit := rfl
@[simp] theorem setEvent_hg_hearthHold (s : State) (p e : Nat) (v : BitVec 64) : (setEvent s p e v).hg.hearthHold = s.hg.hearthHold := rfl
@[simp] theorem setEvent_hg_gaugeEn (s : State) (p e : Nat) (v : BitVec 64) : (setEvent s p e v).hg.gaugeEn = s.hg.gaugeEn := rfl
@[simp] theorem setEvent_hg_stallN (s : State) (p e : Nat) (v : BitVec 64) : (setEvent s p e v).hg.stallN = s.hg.stallN := rfl
@[simp] theorem setEvent_hg_ctxValid (s : State) (p e : Nat) (v : BitVec 64) : (setEvent s p e v).hg.ctxValid = s.hg.ctxValid := rfl
@[simp] theorem setEvent_hg_ctxLost (s : State) (p e : Nat) (v : BitVec 64) : (setEvent s p e v).hg.ctxLost = s.hg.ctxLost := rfl
@[simp] theorem setEvent_hg_conflictTrace (s : State) (p e : Nat) (v : BitVec 64) : (setEvent s p e v).hg.conflictTrace = s.hg.conflictTrace := rfl
@[simp] theorem setEvent_hg_conflictGauge (s : State) (p e : Nat) (v : BitVec 64) : (setEvent s p e v).hg.conflictGauge = s.hg.conflictGauge := rfl
@[simp] theorem setEvent_hg_conflictSpill (s : State) (p e : Nat) (v : BitVec 64) : (setEvent s p e v).hg.conflictSpill = s.hg.conflictSpill := rfl
@[simp] theorem setEvent_hg_domains (s : State) (p e : Nat) (v : BitVec 64) : (setEvent s p e v).hg.domains = s.hg.domains := rfl
@[simp] theorem setEvent_hg_furrows (s : State) (p e : Nat) (v : BitVec 64) : (setEvent s p e v).hg.furrows = s.hg.furrows := rfl
@[simp] theorem setEvent_hg_plots (s : State) (p e : Nat) (v : BitVec 64) : (setEvent s p e v).hg.plots = s.hg.plots := rfl
@[simp] theorem setEvent_hg_nextOp (s : State) (p e : Nat) (v : BitVec 64) : (setEvent s p e v).hg.nextOp = s.hg.nextOp := rfl

@[simp] theorem setDom_hg_commit (s : State) (d : Nat) (x : Domain) : (setDom s d x).hg.commit = s.hg.commit := rfl
@[simp] theorem setDom_hg_hearthHold (s : State) (d : Nat) (x : Domain) : (setDom s d x).hg.hearthHold = s.hg.hearthHold := rfl
@[simp] theorem setDom_hg_gaugeEn (s : State) (d : Nat) (x : Domain) : (setDom s d x).hg.gaugeEn = s.hg.gaugeEn := rfl
@[simp] theorem setDom_hg_stallN (s : State) (d : Nat) (x : Domain) : (setDom s d x).hg.stallN = s.hg.stallN := rfl
@[simp] theorem setDom_hg_ctxValid (s : State) (d : Nat) (x : Domain) : (setDom s d x).hg.ctxValid = s.hg.ctxValid := rfl
@[simp] theorem setDom_hg_ctxLost (s : State) (d : Nat) (x : Domain) : (setDom s d x).hg.ctxLost = s.hg.ctxLost := rfl
@[simp] theorem setDom_hg_conflictTrace (s : State) (d : Nat) (x : Domain) : (setDom s d x).hg.conflictTrace = s.hg.conflictTrace := rfl
@[simp] theorem setDom_hg_conflictGauge (s : State) (d : Nat) (x : Domain) : (setDom s d x).hg.conflictGauge = s.hg.conflictGauge := rfl
@[simp] theorem setDom_hg_conflictSpill (s : State) (d : Nat) (x : Domain) : (setDom s d x).hg.conflictSpill = s.hg.conflictSpill := rfl
@[simp] theorem setDom_hg_furrows (s : State) (d : Nat) (x : Domain) : (setDom s d x).hg.furrows = s.hg.furrows := rfl
@[simp] theorem setDom_hg_plots (s : State) (d : Nat) (x : Domain) : (setDom s d x).hg.plots = s.hg.plots := rfl
@[simp] theorem setDom_hg_events (s : State) (d : Nat) (x : Domain) : (setDom s d x).hg.events = s.hg.events := rfl
@[simp] theorem setDom_hg_nextOp (s : State) (d : Nat) (x : Domain) : (setDom s d x).hg.nextOp = s.hg.nextOp := rfl

@[simp] theorem setFb_he_mode (s : State) (q : Nat) (x : Firebox) : (setFb s q x).he.mode = s.he.mode := rfl
@[simp] theorem setFb_he_modeCur (s : State) (q : Nat) (x : Firebox) : (setFb s q x).he.modeCur = s.he.modeCur := rfl
@[simp] theorem setFb_he_pending (s : State) (q : Nat) (x : Firebox) : (setFb s q x).he.pending = s.he.pending := rfl
@[simp] theorem setFb_he_refused (s : State) (q : Nat) (x : Firebox) : (setFb s q x).he.refused = s.he.refused := rfl

@[simp] theorem setSlot_ap_sumsOnly (s : State) (n : Nat) (x : Slot) : (setSlot s n x).ap.sumsOnly = s.ap.sumsOnly := rfl
@[simp] theorem setSlot_ap_eccCorr (s : State) (n : Nat) (x : Slot) : (setSlot s n x).ap.eccCorr = s.ap.eccCorr := rfl
@[simp] theorem setSlot_ap_eccUncorr (s : State) (n : Nat) (x : Slot) : (setSlot s n x).ap.eccUncorr = s.ap.eccUncorr := rfl
@[simp] theorem setSlot_ap_readout (s : State) (n : Nat) (x : Slot) : (setSlot s n x).ap.readout = s.ap.readout := rfl

@[simp] theorem modFur_hg_commit (f : Nat) (g : Furrow → Furrow) (s : State) : (modFur f g s).hg.commit = s.hg.commit := rfl
@[simp] theorem modFur_hg_hearthHold (f : Nat) (g : Furrow → Furrow) (s : State) : (modFur f g s).hg.hearthHold = s.hg.hearthHold := rfl
@[simp] theorem modFur_hg_gaugeEn (f : Nat) (g : Furrow → Furrow) (s : State) : (modFur f g s).hg.gaugeEn = s.hg.gaugeEn := rfl
@[simp] theorem modFur_hg_stallN (f : Nat) (g : Furrow → Furrow) (s : State) : (modFur f g s).hg.stallN = s.hg.stallN := rfl
@[simp] theorem modFur_hg_ctxValid (f : Nat) (g : Furrow → Furrow) (s : State) : (modFur f g s).hg.ctxValid = s.hg.ctxValid := rfl
@[simp] theorem modFur_hg_ctxLost (f : Nat) (g : Furrow → Furrow) (s : State) : (modFur f g s).hg.ctxLost = s.hg.ctxLost := rfl
@[simp] theorem modFur_hg_conflictTrace (f : Nat) (g : Furrow → Furrow) (s : State) : (modFur f g s).hg.conflictTrace = s.hg.conflictTrace := rfl
@[simp] theorem modFur_hg_conflictGauge (f : Nat) (g : Furrow → Furrow) (s : State) : (modFur f g s).hg.conflictGauge = s.hg.conflictGauge := rfl
@[simp] theorem modFur_hg_conflictSpill (f : Nat) (g : Furrow → Furrow) (s : State) : (modFur f g s).hg.conflictSpill = s.hg.conflictSpill := rfl
@[simp] theorem modFur_hg_domains (f : Nat) (g : Furrow → Furrow) (s : State) : (modFur f g s).hg.domains = s.hg.domains := rfl
@[simp] theorem modFur_hg_plots (f : Nat) (g : Furrow → Furrow) (s : State) : (modFur f g s).hg.plots = s.hg.plots := rfl
@[simp] theorem modFur_hg_events (f : Nat) (g : Furrow → Furrow) (s : State) : (modFur f g s).hg.events = s.hg.events := rfl
@[simp] theorem modFur_hg_nextOp (f : Nat) (g : Furrow → Furrow) (s : State) : (modFur f g s).hg.nextOp = s.hg.nextOp := rfl

@[simp] theorem modPlot_hg_commit (p : Nat) (g : Plot → Plot) (s : State) : (modPlot p g s).hg.commit = s.hg.commit := rfl
@[simp] theorem modPlot_hg_hearthHold (p : Nat) (g : Plot → Plot) (s : State) : (modPlot p g s).hg.hearthHold = s.hg.hearthHold := rfl
@[simp] theorem modPlot_hg_gaugeEn (p : Nat) (g : Plot → Plot) (s : State) : (modPlot p g s).hg.gaugeEn = s.hg.gaugeEn := rfl
@[simp] theorem modPlot_hg_stallN (p : Nat) (g : Plot → Plot) (s : State) : (modPlot p g s).hg.stallN = s.hg.stallN := rfl
@[simp] theorem modPlot_hg_ctxValid (p : Nat) (g : Plot → Plot) (s : State) : (modPlot p g s).hg.ctxValid = s.hg.ctxValid := rfl
@[simp] theorem modPlot_hg_ctxLost (p : Nat) (g : Plot → Plot) (s : State) : (modPlot p g s).hg.ctxLost = s.hg.ctxLost := rfl
@[simp] theorem modPlot_hg_conflictTrace (p : Nat) (g : Plot → Plot) (s : State) : (modPlot p g s).hg.conflictTrace = s.hg.conflictTrace := rfl
@[simp] theorem modPlot_hg_conflictGauge (p : Nat) (g : Plot → Plot) (s : State) : (modPlot p g s).hg.conflictGauge = s.hg.conflictGauge := rfl
@[simp] theorem modPlot_hg_conflictSpill (p : Nat) (g : Plot → Plot) (s : State) : (modPlot p g s).hg.conflictSpill = s.hg.conflictSpill := rfl
@[simp] theorem modPlot_hg_domains (p : Nat) (g : Plot → Plot) (s : State) : (modPlot p g s).hg.domains = s.hg.domains := rfl
@[simp] theorem modPlot_hg_furrows (p : Nat) (g : Plot → Plot) (s : State) : (modPlot p g s).hg.furrows = s.hg.furrows := rfl
@[simp] theorem modPlot_hg_events (p : Nat) (g : Plot → Plot) (s : State) : (modPlot p g s).hg.events = s.hg.events := rfl
@[simp] theorem modPlot_hg_nextOp (p : Nat) (g : Plot → Plot) (s : State) : (modPlot p g s).hg.nextOp = s.hg.nextOp := rfl

@[simp] theorem modMail_hg_commit (p : Nat) (g : Mailbox → Mailbox) (s : State) : (modMail p g s).hg.commit = s.hg.commit := rfl
@[simp] theorem modMail_hg_hearthHold (p : Nat) (g : Mailbox → Mailbox) (s : State) : (modMail p g s).hg.hearthHold = s.hg.hearthHold := rfl
@[simp] theorem modMail_hg_gaugeEn (p : Nat) (g : Mailbox → Mailbox) (s : State) : (modMail p g s).hg.gaugeEn = s.hg.gaugeEn := rfl
@[simp] theorem modMail_hg_stallN (p : Nat) (g : Mailbox → Mailbox) (s : State) : (modMail p g s).hg.stallN = s.hg.stallN := rfl
@[simp] theorem modMail_hg_ctxValid (p : Nat) (g : Mailbox → Mailbox) (s : State) : (modMail p g s).hg.ctxValid = s.hg.ctxValid := rfl
@[simp] theorem modMail_hg_ctxLost (p : Nat) (g : Mailbox → Mailbox) (s : State) : (modMail p g s).hg.ctxLost = s.hg.ctxLost := rfl
@[simp] theorem modMail_hg_conflictTrace (p : Nat) (g : Mailbox → Mailbox) (s : State) : (modMail p g s).hg.conflictTrace = s.hg.conflictTrace := rfl
@[simp] theorem modMail_hg_conflictGauge (p : Nat) (g : Mailbox → Mailbox) (s : State) : (modMail p g s).hg.conflictGauge = s.hg.conflictGauge := rfl
@[simp] theorem modMail_hg_conflictSpill (p : Nat) (g : Mailbox → Mailbox) (s : State) : (modMail p g s).hg.conflictSpill = s.hg.conflictSpill := rfl
@[simp] theorem modMail_hg_domains (p : Nat) (g : Mailbox → Mailbox) (s : State) : (modMail p g s).hg.domains = s.hg.domains := rfl
@[simp] theorem modMail_hg_furrows (p : Nat) (g : Mailbox → Mailbox) (s : State) : (modMail p g s).hg.furrows = s.hg.furrows := rfl
@[simp] theorem modMail_hg_events (p : Nat) (g : Mailbox → Mailbox) (s : State) : (modMail p g s).hg.events = s.hg.events := rfl
@[simp] theorem modMail_hg_nextOp (p : Nat) (g : Mailbox → Mailbox) (s : State) : (modMail p g s).hg.nextOp = s.hg.nextOp := rfl

@[simp] theorem modDom_hg_commit (d : Nat) (g : Domain → Domain) (s : State) : (modDom d g s).hg.commit = s.hg.commit := rfl
@[simp] theorem modDom_hg_hearthHold (d : Nat) (g : Domain → Domain) (s : State) : (modDom d g s).hg.hearthHold = s.hg.hearthHold := rfl
@[simp] theorem modDom_hg_gaugeEn (d : Nat) (g : Domain → Domain) (s : State) : (modDom d g s).hg.gaugeEn = s.hg.gaugeEn := rfl
@[simp] theorem modDom_hg_stallN (d : Nat) (g : Domain → Domain) (s : State) : (modDom d g s).hg.stallN = s.hg.stallN := rfl
@[simp] theorem modDom_hg_ctxValid (d : Nat) (g : Domain → Domain) (s : State) : (modDom d g s).hg.ctxValid = s.hg.ctxValid := rfl
@[simp] theorem modDom_hg_ctxLost (d : Nat) (g : Domain → Domain) (s : State) : (modDom d g s).hg.ctxLost = s.hg.ctxLost := rfl
@[simp] theorem modDom_hg_conflictTrace (d : Nat) (g : Domain → Domain) (s : State) : (modDom d g s).hg.conflictTrace = s.hg.conflictTrace := rfl
@[simp] theorem modDom_hg_conflictGauge (d : Nat) (g : Domain → Domain) (s : State) : (modDom d g s).hg.conflictGauge = s.hg.conflictGauge := rfl
@[simp] theorem modDom_hg_conflictSpill (d : Nat) (g : Domain → Domain) (s : State) : (modDom d g s).hg.conflictSpill = s.hg.conflictSpill := rfl
@[simp] theorem modDom_hg_furrows (d : Nat) (g : Domain → Domain) (s : State) : (modDom d g s).hg.furrows = s.hg.furrows := rfl
@[simp] theorem modDom_hg_plots (d : Nat) (g : Domain → Domain) (s : State) : (modDom d g s).hg.plots = s.hg.plots := rfl
@[simp] theorem modDom_hg_events (d : Nat) (g : Domain → Domain) (s : State) : (modDom d g s).hg.events = s.hg.events := rfl
@[simp] theorem modDom_hg_nextOp (d : Nat) (g : Domain → Domain) (s : State) : (modDom d g s).hg.nextOp = s.hg.nextOp := rfl

@[simp] theorem modFb_he_mode (q : Nat) (g : Firebox → Firebox) (s : State) : (modFb q g s).he.mode = s.he.mode := rfl
@[simp] theorem modFb_he_modeCur (q : Nat) (g : Firebox → Firebox) (s : State) : (modFb q g s).he.modeCur = s.he.modeCur := rfl
@[simp] theorem modFb_he_pending (q : Nat) (g : Firebox → Firebox) (s : State) : (modFb q g s).he.pending = s.he.pending := rfl
@[simp] theorem modFb_he_refused (q : Nat) (g : Firebox → Firebox) (s : State) : (modFb q g s).he.refused = s.he.refused := rfl

@[simp] theorem modSlot_ap_sumsOnly (n : Nat) (g : Slot → Slot) (s : State) : (modSlot n g s).ap.sumsOnly = s.ap.sumsOnly := rfl
@[simp] theorem modSlot_ap_eccCorr (n : Nat) (g : Slot → Slot) (s : State) : (modSlot n g s).ap.eccCorr = s.ap.eccCorr := rfl
@[simp] theorem modSlot_ap_eccUncorr (n : Nat) (g : Slot → Slot) (s : State) : (modSlot n g s).ap.eccUncorr = s.ap.eccUncorr := rfl
@[simp] theorem modSlot_ap_readout (n : Nat) (g : Slot → Slot) (s : State) : (modSlot n g s).ap.readout = s.ap.readout := rfl

/-! ## Reading what was written -/

theorem getFur_set (s : State) (k : Nat) (x : Furrow) (h : tblWf furDef s.hg.furrows = true) : getFur (setFur s k x) k = x :=
  tblGet_set_self furDef _ k x h
theorem getFur_set_ne (s : State) (k j : Nat) (x : Furrow) (h : j ≠ k) : getFur (setFur s k x) j = getFur s j :=
  tblGet_set_ne furDef _ k j x h
theorem setFur_wf (s : State) (k : Nat) (x : Furrow) (h : tblWf furDef s.hg.furrows = true) : tblWf furDef (setFur s k x).hg.furrows = true :=
  tblSet_wf furDef _ k x h
@[simp] theorem getPlot_setFur (s : State) (k j : Nat) (x : Furrow) : getPlot (setFur s k x) j = getPlot s j := rfl
@[simp] theorem getDom_setFur (s : State) (k j : Nat) (x : Furrow) : getDom (setFur s k x) j = getDom s j := rfl
@[simp] theorem getFb_setFur (s : State) (k j : Nat) (x : Furrow) : getFb (setFur s k x) j = getFb s j := rfl
@[simp] theorem getSlot_setFur (s : State) (k j : Nat) (x : Furrow) : getSlot (setFur s k x) j = getSlot s j := rfl
@[simp] theorem getTable_setFur (s : State) (k j : Nat) (x : Furrow) : getTable (setFur s k x) j = getTable s j := rfl
@[simp] theorem getChan_setFur (s : State) (k j : Nat) (x : Furrow) : getChan (setFur s k x) j = getChan s j := rfl
@[simp] theorem getCore_setFur (s : State) (k j : Nat) (x : Furrow) : getCore (setFur s k x) j = getCore s j := rfl
@[simp] theorem getPort_setFur (s : State) (k j : Nat) (x : Furrow) : getPort (setFur s k x) j = getPort s j := rfl
@[simp] theorem getPower_setFur (s : State) (k j : Nat) (x : Furrow) : getPower (setFur s k x) j = getPower s j := rfl
@[simp] theorem getSrc_setFur (s : State) (k j : Nat) (x : Furrow) : getSrc (setFur s k x) j = getSrc s j := rfl
@[simp] theorem getPlot_modFur (s : State) (k j : Nat) (h : Furrow → Furrow) : getPlot (modFur k h s) j = getPlot s j := rfl
@[simp] theorem getDom_modFur (s : State) (k j : Nat) (h : Furrow → Furrow) : getDom (modFur k h s) j = getDom s j := rfl
@[simp] theorem getFb_modFur (s : State) (k j : Nat) (h : Furrow → Furrow) : getFb (modFur k h s) j = getFb s j := rfl
@[simp] theorem getSlot_modFur (s : State) (k j : Nat) (h : Furrow → Furrow) : getSlot (modFur k h s) j = getSlot s j := rfl
@[simp] theorem getTable_modFur (s : State) (k j : Nat) (h : Furrow → Furrow) : getTable (modFur k h s) j = getTable s j := rfl
@[simp] theorem getChan_modFur (s : State) (k j : Nat) (h : Furrow → Furrow) : getChan (modFur k h s) j = getChan s j := rfl
@[simp] theorem getCore_modFur (s : State) (k j : Nat) (h : Furrow → Furrow) : getCore (modFur k h s) j = getCore s j := rfl
@[simp] theorem getPort_modFur (s : State) (k j : Nat) (h : Furrow → Furrow) : getPort (modFur k h s) j = getPort s j := rfl
@[simp] theorem getPower_modFur (s : State) (k j : Nat) (h : Furrow → Furrow) : getPower (modFur k h s) j = getPower s j := rfl
@[simp] theorem getSrc_modFur (s : State) (k j : Nat) (h : Furrow → Furrow) : getSrc (modFur k h s) j = getSrc s j := rfl
theorem getFur_mod (s : State) (k : Nat) (g : Furrow → Furrow) (h : tblWf furDef s.hg.furrows = true) : getFur (modFur k g s) k = g (getFur s k) :=
  tblGet_set_self furDef _ k _ h
theorem getFur_mod_ne (s : State) (k j : Nat) (g : Furrow → Furrow) (h : j ≠ k) : getFur (modFur k g s) j = getFur s j :=
  tblGet_set_ne furDef _ k j _ h
theorem modFur_wf (s : State) (k : Nat) (g : Furrow → Furrow) (h : tblWf furDef s.hg.furrows = true) : tblWf furDef (modFur k g s).hg.furrows = true :=
  tblSet_wf furDef _ k _ h

theorem getPlot_set (s : State) (k : Nat) (x : Plot) (h : tblWf plotDef s.hg.plots = true) : getPlot (setPlot s k x) k = x :=
  tblGet_set_self plotDef _ k x h
theorem getPlot_set_ne (s : State) (k j : Nat) (x : Plot) (h : j ≠ k) : getPlot (setPlot s k x) j = getPlot s j :=
  tblGet_set_ne plotDef _ k j x h
theorem setPlot_wf (s : State) (k : Nat) (x : Plot) (h : tblWf plotDef s.hg.plots = true) : tblWf plotDef (setPlot s k x).hg.plots = true :=
  tblSet_wf plotDef _ k x h
@[simp] theorem getFur_setPlot (s : State) (k j : Nat) (x : Plot) : getFur (setPlot s k x) j = getFur s j := rfl
@[simp] theorem getDom_setPlot (s : State) (k j : Nat) (x : Plot) : getDom (setPlot s k x) j = getDom s j := rfl
@[simp] theorem getFb_setPlot (s : State) (k j : Nat) (x : Plot) : getFb (setPlot s k x) j = getFb s j := rfl
@[simp] theorem getSlot_setPlot (s : State) (k j : Nat) (x : Plot) : getSlot (setPlot s k x) j = getSlot s j := rfl
@[simp] theorem getTable_setPlot (s : State) (k j : Nat) (x : Plot) : getTable (setPlot s k x) j = getTable s j := rfl
@[simp] theorem getChan_setPlot (s : State) (k j : Nat) (x : Plot) : getChan (setPlot s k x) j = getChan s j := rfl
@[simp] theorem getCore_setPlot (s : State) (k j : Nat) (x : Plot) : getCore (setPlot s k x) j = getCore s j := rfl
@[simp] theorem getPort_setPlot (s : State) (k j : Nat) (x : Plot) : getPort (setPlot s k x) j = getPort s j := rfl
@[simp] theorem getPower_setPlot (s : State) (k j : Nat) (x : Plot) : getPower (setPlot s k x) j = getPower s j := rfl
@[simp] theorem getSrc_setPlot (s : State) (k j : Nat) (x : Plot) : getSrc (setPlot s k x) j = getSrc s j := rfl
@[simp] theorem getFur_modPlot (s : State) (k j : Nat) (h : Plot → Plot) : getFur (modPlot k h s) j = getFur s j := rfl
@[simp] theorem getDom_modPlot (s : State) (k j : Nat) (h : Plot → Plot) : getDom (modPlot k h s) j = getDom s j := rfl
@[simp] theorem getFb_modPlot (s : State) (k j : Nat) (h : Plot → Plot) : getFb (modPlot k h s) j = getFb s j := rfl
@[simp] theorem getSlot_modPlot (s : State) (k j : Nat) (h : Plot → Plot) : getSlot (modPlot k h s) j = getSlot s j := rfl
@[simp] theorem getTable_modPlot (s : State) (k j : Nat) (h : Plot → Plot) : getTable (modPlot k h s) j = getTable s j := rfl
@[simp] theorem getChan_modPlot (s : State) (k j : Nat) (h : Plot → Plot) : getChan (modPlot k h s) j = getChan s j := rfl
@[simp] theorem getCore_modPlot (s : State) (k j : Nat) (h : Plot → Plot) : getCore (modPlot k h s) j = getCore s j := rfl
@[simp] theorem getPort_modPlot (s : State) (k j : Nat) (h : Plot → Plot) : getPort (modPlot k h s) j = getPort s j := rfl
@[simp] theorem getPower_modPlot (s : State) (k j : Nat) (h : Plot → Plot) : getPower (modPlot k h s) j = getPower s j := rfl
@[simp] theorem getSrc_modPlot (s : State) (k j : Nat) (h : Plot → Plot) : getSrc (modPlot k h s) j = getSrc s j := rfl
theorem getPlot_mod (s : State) (k : Nat) (g : Plot → Plot) (h : tblWf plotDef s.hg.plots = true) : getPlot (modPlot k g s) k = g (getPlot s k) :=
  tblGet_set_self plotDef _ k _ h
theorem getPlot_mod_ne (s : State) (k j : Nat) (g : Plot → Plot) (h : j ≠ k) : getPlot (modPlot k g s) j = getPlot s j :=
  tblGet_set_ne plotDef _ k j _ h
theorem modPlot_wf (s : State) (k : Nat) (g : Plot → Plot) (h : tblWf plotDef s.hg.plots = true) : tblWf plotDef (modPlot k g s).hg.plots = true :=
  tblSet_wf plotDef _ k _ h

theorem getDom_set (s : State) (k : Nat) (x : Domain) (h : tblWf domDef s.hg.domains = true) : getDom (setDom s k x) k = x :=
  tblGet_set_self domDef _ k x h
theorem getDom_set_ne (s : State) (k j : Nat) (x : Domain) (h : j ≠ k) : getDom (setDom s k x) j = getDom s j :=
  tblGet_set_ne domDef _ k j x h
theorem setDom_wf (s : State) (k : Nat) (x : Domain) (h : tblWf domDef s.hg.domains = true) : tblWf domDef (setDom s k x).hg.domains = true :=
  tblSet_wf domDef _ k x h
@[simp] theorem getFur_setDom (s : State) (k j : Nat) (x : Domain) : getFur (setDom s k x) j = getFur s j := rfl
@[simp] theorem getPlot_setDom (s : State) (k j : Nat) (x : Domain) : getPlot (setDom s k x) j = getPlot s j := rfl
@[simp] theorem getFb_setDom (s : State) (k j : Nat) (x : Domain) : getFb (setDom s k x) j = getFb s j := rfl
@[simp] theorem getSlot_setDom (s : State) (k j : Nat) (x : Domain) : getSlot (setDom s k x) j = getSlot s j := rfl
@[simp] theorem getTable_setDom (s : State) (k j : Nat) (x : Domain) : getTable (setDom s k x) j = getTable s j := rfl
@[simp] theorem getChan_setDom (s : State) (k j : Nat) (x : Domain) : getChan (setDom s k x) j = getChan s j := rfl
@[simp] theorem getCore_setDom (s : State) (k j : Nat) (x : Domain) : getCore (setDom s k x) j = getCore s j := rfl
@[simp] theorem getPort_setDom (s : State) (k j : Nat) (x : Domain) : getPort (setDom s k x) j = getPort s j := rfl
@[simp] theorem getPower_setDom (s : State) (k j : Nat) (x : Domain) : getPower (setDom s k x) j = getPower s j := rfl
@[simp] theorem getSrc_setDom (s : State) (k j : Nat) (x : Domain) : getSrc (setDom s k x) j = getSrc s j := rfl
@[simp] theorem getFur_modDom (s : State) (k j : Nat) (h : Domain → Domain) : getFur (modDom k h s) j = getFur s j := rfl
@[simp] theorem getPlot_modDom (s : State) (k j : Nat) (h : Domain → Domain) : getPlot (modDom k h s) j = getPlot s j := rfl
@[simp] theorem getFb_modDom (s : State) (k j : Nat) (h : Domain → Domain) : getFb (modDom k h s) j = getFb s j := rfl
@[simp] theorem getSlot_modDom (s : State) (k j : Nat) (h : Domain → Domain) : getSlot (modDom k h s) j = getSlot s j := rfl
@[simp] theorem getTable_modDom (s : State) (k j : Nat) (h : Domain → Domain) : getTable (modDom k h s) j = getTable s j := rfl
@[simp] theorem getChan_modDom (s : State) (k j : Nat) (h : Domain → Domain) : getChan (modDom k h s) j = getChan s j := rfl
@[simp] theorem getCore_modDom (s : State) (k j : Nat) (h : Domain → Domain) : getCore (modDom k h s) j = getCore s j := rfl
@[simp] theorem getPort_modDom (s : State) (k j : Nat) (h : Domain → Domain) : getPort (modDom k h s) j = getPort s j := rfl
@[simp] theorem getPower_modDom (s : State) (k j : Nat) (h : Domain → Domain) : getPower (modDom k h s) j = getPower s j := rfl
@[simp] theorem getSrc_modDom (s : State) (k j : Nat) (h : Domain → Domain) : getSrc (modDom k h s) j = getSrc s j := rfl
theorem getDom_mod (s : State) (k : Nat) (g : Domain → Domain) (h : tblWf domDef s.hg.domains = true) : getDom (modDom k g s) k = g (getDom s k) :=
  tblGet_set_self domDef _ k _ h
theorem getDom_mod_ne (s : State) (k j : Nat) (g : Domain → Domain) (h : j ≠ k) : getDom (modDom k g s) j = getDom s j :=
  tblGet_set_ne domDef _ k j _ h
theorem modDom_wf (s : State) (k : Nat) (g : Domain → Domain) (h : tblWf domDef s.hg.domains = true) : tblWf domDef (modDom k g s).hg.domains = true :=
  tblSet_wf domDef _ k _ h

theorem getFb_set (s : State) (k : Nat) (x : Firebox) (h : tblWf fbDef s.he.fb = true) : getFb (setFb s k x) k = x :=
  tblGet_set_self fbDef _ k x h
theorem getFb_set_ne (s : State) (k j : Nat) (x : Firebox) (h : j ≠ k) : getFb (setFb s k x) j = getFb s j :=
  tblGet_set_ne fbDef _ k j x h
theorem setFb_wf (s : State) (k : Nat) (x : Firebox) (h : tblWf fbDef s.he.fb = true) : tblWf fbDef (setFb s k x).he.fb = true :=
  tblSet_wf fbDef _ k x h
@[simp] theorem getFur_setFb (s : State) (k j : Nat) (x : Firebox) : getFur (setFb s k x) j = getFur s j := rfl
@[simp] theorem getPlot_setFb (s : State) (k j : Nat) (x : Firebox) : getPlot (setFb s k x) j = getPlot s j := rfl
@[simp] theorem getDom_setFb (s : State) (k j : Nat) (x : Firebox) : getDom (setFb s k x) j = getDom s j := rfl
@[simp] theorem getSlot_setFb (s : State) (k j : Nat) (x : Firebox) : getSlot (setFb s k x) j = getSlot s j := rfl
@[simp] theorem getTable_setFb (s : State) (k j : Nat) (x : Firebox) : getTable (setFb s k x) j = getTable s j := rfl
@[simp] theorem getChan_setFb (s : State) (k j : Nat) (x : Firebox) : getChan (setFb s k x) j = getChan s j := rfl
@[simp] theorem getCore_setFb (s : State) (k j : Nat) (x : Firebox) : getCore (setFb s k x) j = getCore s j := rfl
@[simp] theorem getPort_setFb (s : State) (k j : Nat) (x : Firebox) : getPort (setFb s k x) j = getPort s j := rfl
@[simp] theorem getPower_setFb (s : State) (k j : Nat) (x : Firebox) : getPower (setFb s k x) j = getPower s j := rfl
@[simp] theorem getSrc_setFb (s : State) (k j : Nat) (x : Firebox) : getSrc (setFb s k x) j = getSrc s j := rfl
@[simp] theorem getFur_modFb (s : State) (k j : Nat) (h : Firebox → Firebox) : getFur (modFb k h s) j = getFur s j := rfl
@[simp] theorem getPlot_modFb (s : State) (k j : Nat) (h : Firebox → Firebox) : getPlot (modFb k h s) j = getPlot s j := rfl
@[simp] theorem getDom_modFb (s : State) (k j : Nat) (h : Firebox → Firebox) : getDom (modFb k h s) j = getDom s j := rfl
@[simp] theorem getSlot_modFb (s : State) (k j : Nat) (h : Firebox → Firebox) : getSlot (modFb k h s) j = getSlot s j := rfl
@[simp] theorem getTable_modFb (s : State) (k j : Nat) (h : Firebox → Firebox) : getTable (modFb k h s) j = getTable s j := rfl
@[simp] theorem getChan_modFb (s : State) (k j : Nat) (h : Firebox → Firebox) : getChan (modFb k h s) j = getChan s j := rfl
@[simp] theorem getCore_modFb (s : State) (k j : Nat) (h : Firebox → Firebox) : getCore (modFb k h s) j = getCore s j := rfl
@[simp] theorem getPort_modFb (s : State) (k j : Nat) (h : Firebox → Firebox) : getPort (modFb k h s) j = getPort s j := rfl
@[simp] theorem getPower_modFb (s : State) (k j : Nat) (h : Firebox → Firebox) : getPower (modFb k h s) j = getPower s j := rfl
@[simp] theorem getSrc_modFb (s : State) (k j : Nat) (h : Firebox → Firebox) : getSrc (modFb k h s) j = getSrc s j := rfl
theorem getFb_mod (s : State) (k : Nat) (g : Firebox → Firebox) (h : tblWf fbDef s.he.fb = true) : getFb (modFb k g s) k = g (getFb s k) :=
  tblGet_set_self fbDef _ k _ h
theorem getFb_mod_ne (s : State) (k j : Nat) (g : Firebox → Firebox) (h : j ≠ k) : getFb (modFb k g s) j = getFb s j :=
  tblGet_set_ne fbDef _ k j _ h
theorem modFb_wf (s : State) (k : Nat) (g : Firebox → Firebox) (h : tblWf fbDef s.he.fb = true) : tblWf fbDef (modFb k g s).he.fb = true :=
  tblSet_wf fbDef _ k _ h

theorem getSlot_set (s : State) (k : Nat) (x : Slot) (h : tblWf slotDef s.ap.slots = true) : getSlot (setSlot s k x) k = x :=
  tblGet_set_self slotDef _ k x h
theorem getSlot_set_ne (s : State) (k j : Nat) (x : Slot) (h : j ≠ k) : getSlot (setSlot s k x) j = getSlot s j :=
  tblGet_set_ne slotDef _ k j x h
theorem setSlot_wf (s : State) (k : Nat) (x : Slot) (h : tblWf slotDef s.ap.slots = true) : tblWf slotDef (setSlot s k x).ap.slots = true :=
  tblSet_wf slotDef _ k x h
@[simp] theorem getFur_setSlot (s : State) (k j : Nat) (x : Slot) : getFur (setSlot s k x) j = getFur s j := rfl
@[simp] theorem getPlot_setSlot (s : State) (k j : Nat) (x : Slot) : getPlot (setSlot s k x) j = getPlot s j := rfl
@[simp] theorem getDom_setSlot (s : State) (k j : Nat) (x : Slot) : getDom (setSlot s k x) j = getDom s j := rfl
@[simp] theorem getFb_setSlot (s : State) (k j : Nat) (x : Slot) : getFb (setSlot s k x) j = getFb s j := rfl
@[simp] theorem getTable_setSlot (s : State) (k j : Nat) (x : Slot) : getTable (setSlot s k x) j = getTable s j := rfl
@[simp] theorem getChan_setSlot (s : State) (k j : Nat) (x : Slot) : getChan (setSlot s k x) j = getChan s j := rfl
@[simp] theorem getCore_setSlot (s : State) (k j : Nat) (x : Slot) : getCore (setSlot s k x) j = getCore s j := rfl
@[simp] theorem getPort_setSlot (s : State) (k j : Nat) (x : Slot) : getPort (setSlot s k x) j = getPort s j := rfl
@[simp] theorem getPower_setSlot (s : State) (k j : Nat) (x : Slot) : getPower (setSlot s k x) j = getPower s j := rfl
@[simp] theorem getSrc_setSlot (s : State) (k j : Nat) (x : Slot) : getSrc (setSlot s k x) j = getSrc s j := rfl
@[simp] theorem getFur_modSlot (s : State) (k j : Nat) (h : Slot → Slot) : getFur (modSlot k h s) j = getFur s j := rfl
@[simp] theorem getPlot_modSlot (s : State) (k j : Nat) (h : Slot → Slot) : getPlot (modSlot k h s) j = getPlot s j := rfl
@[simp] theorem getDom_modSlot (s : State) (k j : Nat) (h : Slot → Slot) : getDom (modSlot k h s) j = getDom s j := rfl
@[simp] theorem getFb_modSlot (s : State) (k j : Nat) (h : Slot → Slot) : getFb (modSlot k h s) j = getFb s j := rfl
@[simp] theorem getTable_modSlot (s : State) (k j : Nat) (h : Slot → Slot) : getTable (modSlot k h s) j = getTable s j := rfl
@[simp] theorem getChan_modSlot (s : State) (k j : Nat) (h : Slot → Slot) : getChan (modSlot k h s) j = getChan s j := rfl
@[simp] theorem getCore_modSlot (s : State) (k j : Nat) (h : Slot → Slot) : getCore (modSlot k h s) j = getCore s j := rfl
@[simp] theorem getPort_modSlot (s : State) (k j : Nat) (h : Slot → Slot) : getPort (modSlot k h s) j = getPort s j := rfl
@[simp] theorem getPower_modSlot (s : State) (k j : Nat) (h : Slot → Slot) : getPower (modSlot k h s) j = getPower s j := rfl
@[simp] theorem getSrc_modSlot (s : State) (k j : Nat) (h : Slot → Slot) : getSrc (modSlot k h s) j = getSrc s j := rfl
theorem getSlot_mod (s : State) (k : Nat) (g : Slot → Slot) (h : tblWf slotDef s.ap.slots = true) : getSlot (modSlot k g s) k = g (getSlot s k) :=
  tblGet_set_self slotDef _ k _ h
theorem getSlot_mod_ne (s : State) (k j : Nat) (g : Slot → Slot) (h : j ≠ k) : getSlot (modSlot k g s) j = getSlot s j :=
  tblGet_set_ne slotDef _ k j _ h
theorem modSlot_wf (s : State) (k : Nat) (g : Slot → Slot) (h : tblWf slotDef s.ap.slots = true) : tblWf slotDef (modSlot k g s).ap.slots = true :=
  tblSet_wf slotDef _ k _ h

theorem getTable_set (s : State) (k : Nat) (x : TableSlot) (h : tblWf tableDef s.fl.tables = true) : getTable (setTable s k x) k = x :=
  tblGet_set_self tableDef _ k x h
theorem getTable_set_ne (s : State) (k j : Nat) (x : TableSlot) (h : j ≠ k) : getTable (setTable s k x) j = getTable s j :=
  tblGet_set_ne tableDef _ k j x h
theorem setTable_wf (s : State) (k : Nat) (x : TableSlot) (h : tblWf tableDef s.fl.tables = true) : tblWf tableDef (setTable s k x).fl.tables = true :=
  tblSet_wf tableDef _ k x h
@[simp] theorem getFur_setTable (s : State) (k j : Nat) (x : TableSlot) : getFur (setTable s k x) j = getFur s j := rfl
@[simp] theorem getPlot_setTable (s : State) (k j : Nat) (x : TableSlot) : getPlot (setTable s k x) j = getPlot s j := rfl
@[simp] theorem getDom_setTable (s : State) (k j : Nat) (x : TableSlot) : getDom (setTable s k x) j = getDom s j := rfl
@[simp] theorem getFb_setTable (s : State) (k j : Nat) (x : TableSlot) : getFb (setTable s k x) j = getFb s j := rfl
@[simp] theorem getSlot_setTable (s : State) (k j : Nat) (x : TableSlot) : getSlot (setTable s k x) j = getSlot s j := rfl
@[simp] theorem getChan_setTable (s : State) (k j : Nat) (x : TableSlot) : getChan (setTable s k x) j = getChan s j := rfl
@[simp] theorem getCore_setTable (s : State) (k j : Nat) (x : TableSlot) : getCore (setTable s k x) j = getCore s j := rfl
@[simp] theorem getPort_setTable (s : State) (k j : Nat) (x : TableSlot) : getPort (setTable s k x) j = getPort s j := rfl
@[simp] theorem getPower_setTable (s : State) (k j : Nat) (x : TableSlot) : getPower (setTable s k x) j = getPower s j := rfl
@[simp] theorem getSrc_setTable (s : State) (k j : Nat) (x : TableSlot) : getSrc (setTable s k x) j = getSrc s j := rfl

theorem getChan_set (s : State) (k : Nat) (x : Channel) (h : tblWf chanDef s.sl.channels = true) : getChan (setChan s k x) k = x :=
  tblGet_set_self chanDef _ k x h
theorem getChan_set_ne (s : State) (k j : Nat) (x : Channel) (h : j ≠ k) : getChan (setChan s k x) j = getChan s j :=
  tblGet_set_ne chanDef _ k j x h
theorem setChan_wf (s : State) (k : Nat) (x : Channel) (h : tblWf chanDef s.sl.channels = true) : tblWf chanDef (setChan s k x).sl.channels = true :=
  tblSet_wf chanDef _ k x h
@[simp] theorem getFur_setChan (s : State) (k j : Nat) (x : Channel) : getFur (setChan s k x) j = getFur s j := rfl
@[simp] theorem getPlot_setChan (s : State) (k j : Nat) (x : Channel) : getPlot (setChan s k x) j = getPlot s j := rfl
@[simp] theorem getDom_setChan (s : State) (k j : Nat) (x : Channel) : getDom (setChan s k x) j = getDom s j := rfl
@[simp] theorem getFb_setChan (s : State) (k j : Nat) (x : Channel) : getFb (setChan s k x) j = getFb s j := rfl
@[simp] theorem getSlot_setChan (s : State) (k j : Nat) (x : Channel) : getSlot (setChan s k x) j = getSlot s j := rfl
@[simp] theorem getTable_setChan (s : State) (k j : Nat) (x : Channel) : getTable (setChan s k x) j = getTable s j := rfl
@[simp] theorem getCore_setChan (s : State) (k j : Nat) (x : Channel) : getCore (setChan s k x) j = getCore s j := rfl
@[simp] theorem getPort_setChan (s : State) (k j : Nat) (x : Channel) : getPort (setChan s k x) j = getPort s j := rfl
@[simp] theorem getPower_setChan (s : State) (k j : Nat) (x : Channel) : getPower (setChan s k x) j = getPower s j := rfl
@[simp] theorem getSrc_setChan (s : State) (k j : Nat) (x : Channel) : getSrc (setChan s k x) j = getSrc s j := rfl

theorem getCore_set (s : State) (k : Nat) (x : Core) (h : tblWf coreDef s.ch.cores = true) : getCore (setCore s k x) k = x :=
  tblGet_set_self coreDef _ k x h
theorem getCore_set_ne (s : State) (k j : Nat) (x : Core) (h : j ≠ k) : getCore (setCore s k x) j = getCore s j :=
  tblGet_set_ne coreDef _ k j x h
theorem setCore_wf (s : State) (k : Nat) (x : Core) (h : tblWf coreDef s.ch.cores = true) : tblWf coreDef (setCore s k x).ch.cores = true :=
  tblSet_wf coreDef _ k x h
@[simp] theorem getFur_setCore (s : State) (k j : Nat) (x : Core) : getFur (setCore s k x) j = getFur s j := rfl
@[simp] theorem getPlot_setCore (s : State) (k j : Nat) (x : Core) : getPlot (setCore s k x) j = getPlot s j := rfl
@[simp] theorem getDom_setCore (s : State) (k j : Nat) (x : Core) : getDom (setCore s k x) j = getDom s j := rfl
@[simp] theorem getFb_setCore (s : State) (k j : Nat) (x : Core) : getFb (setCore s k x) j = getFb s j := rfl
@[simp] theorem getSlot_setCore (s : State) (k j : Nat) (x : Core) : getSlot (setCore s k x) j = getSlot s j := rfl
@[simp] theorem getTable_setCore (s : State) (k j : Nat) (x : Core) : getTable (setCore s k x) j = getTable s j := rfl
@[simp] theorem getChan_setCore (s : State) (k j : Nat) (x : Core) : getChan (setCore s k x) j = getChan s j := rfl
@[simp] theorem getPort_setCore (s : State) (k j : Nat) (x : Core) : getPort (setCore s k x) j = getPort s j := rfl
@[simp] theorem getPower_setCore (s : State) (k j : Nat) (x : Core) : getPower (setCore s k x) j = getPower s j := rfl
@[simp] theorem getSrc_setCore (s : State) (k j : Nat) (x : Core) : getSrc (setCore s k x) j = getSrc s j := rfl
@[simp] theorem getFur_modCore (s : State) (k j : Nat) (h : Core → Core) : getFur (modCore k h s) j = getFur s j := rfl
@[simp] theorem getPlot_modCore (s : State) (k j : Nat) (h : Core → Core) : getPlot (modCore k h s) j = getPlot s j := rfl
@[simp] theorem getDom_modCore (s : State) (k j : Nat) (h : Core → Core) : getDom (modCore k h s) j = getDom s j := rfl
@[simp] theorem getFb_modCore (s : State) (k j : Nat) (h : Core → Core) : getFb (modCore k h s) j = getFb s j := rfl
@[simp] theorem getSlot_modCore (s : State) (k j : Nat) (h : Core → Core) : getSlot (modCore k h s) j = getSlot s j := rfl
@[simp] theorem getTable_modCore (s : State) (k j : Nat) (h : Core → Core) : getTable (modCore k h s) j = getTable s j := rfl
@[simp] theorem getChan_modCore (s : State) (k j : Nat) (h : Core → Core) : getChan (modCore k h s) j = getChan s j := rfl
@[simp] theorem getPort_modCore (s : State) (k j : Nat) (h : Core → Core) : getPort (modCore k h s) j = getPort s j := rfl
@[simp] theorem getPower_modCore (s : State) (k j : Nat) (h : Core → Core) : getPower (modCore k h s) j = getPower s j := rfl
@[simp] theorem getSrc_modCore (s : State) (k j : Nat) (h : Core → Core) : getSrc (modCore k h s) j = getSrc s j := rfl
theorem getCore_mod (s : State) (k : Nat) (g : Core → Core) (h : tblWf coreDef s.ch.cores = true) : getCore (modCore k g s) k = g (getCore s k) :=
  tblGet_set_self coreDef _ k _ h
theorem getCore_mod_ne (s : State) (k j : Nat) (g : Core → Core) (h : j ≠ k) : getCore (modCore k g s) j = getCore s j :=
  tblGet_set_ne coreDef _ k j _ h
theorem modCore_wf (s : State) (k : Nat) (g : Core → Core) (h : tblWf coreDef s.ch.cores = true) : tblWf coreDef (modCore k g s).ch.cores = true :=
  tblSet_wf coreDef _ k _ h

theorem getPort_set (s : State) (k : Nat) (x : Port) (h : tblWf portDef s.cn.ports = true) : getPort (setPort s k x) k = x :=
  tblGet_set_self portDef _ k x h
theorem getPort_set_ne (s : State) (k j : Nat) (x : Port) (h : j ≠ k) : getPort (setPort s k x) j = getPort s j :=
  tblGet_set_ne portDef _ k j x h
theorem setPort_wf (s : State) (k : Nat) (x : Port) (h : tblWf portDef s.cn.ports = true) : tblWf portDef (setPort s k x).cn.ports = true :=
  tblSet_wf portDef _ k x h
@[simp] theorem getFur_setPort (s : State) (k j : Nat) (x : Port) : getFur (setPort s k x) j = getFur s j := rfl
@[simp] theorem getPlot_setPort (s : State) (k j : Nat) (x : Port) : getPlot (setPort s k x) j = getPlot s j := rfl
@[simp] theorem getDom_setPort (s : State) (k j : Nat) (x : Port) : getDom (setPort s k x) j = getDom s j := rfl
@[simp] theorem getFb_setPort (s : State) (k j : Nat) (x : Port) : getFb (setPort s k x) j = getFb s j := rfl
@[simp] theorem getSlot_setPort (s : State) (k j : Nat) (x : Port) : getSlot (setPort s k x) j = getSlot s j := rfl
@[simp] theorem getTable_setPort (s : State) (k j : Nat) (x : Port) : getTable (setPort s k x) j = getTable s j := rfl
@[simp] theorem getChan_setPort (s : State) (k j : Nat) (x : Port) : getChan (setPort s k x) j = getChan s j := rfl
@[simp] theorem getCore_setPort (s : State) (k j : Nat) (x : Port) : getCore (setPort s k x) j = getCore s j := rfl
@[simp] theorem getPower_setPort (s : State) (k j : Nat) (x : Port) : getPower (setPort s k x) j = getPower s j := rfl
@[simp] theorem getSrc_setPort (s : State) (k j : Nat) (x : Port) : getSrc (setPort s k x) j = getSrc s j := rfl
@[simp] theorem getFur_modPort (s : State) (k j : Nat) (h : Port → Port) : getFur (modPort k h s) j = getFur s j := rfl
@[simp] theorem getPlot_modPort (s : State) (k j : Nat) (h : Port → Port) : getPlot (modPort k h s) j = getPlot s j := rfl
@[simp] theorem getDom_modPort (s : State) (k j : Nat) (h : Port → Port) : getDom (modPort k h s) j = getDom s j := rfl
@[simp] theorem getFb_modPort (s : State) (k j : Nat) (h : Port → Port) : getFb (modPort k h s) j = getFb s j := rfl
@[simp] theorem getSlot_modPort (s : State) (k j : Nat) (h : Port → Port) : getSlot (modPort k h s) j = getSlot s j := rfl
@[simp] theorem getTable_modPort (s : State) (k j : Nat) (h : Port → Port) : getTable (modPort k h s) j = getTable s j := rfl
@[simp] theorem getChan_modPort (s : State) (k j : Nat) (h : Port → Port) : getChan (modPort k h s) j = getChan s j := rfl
@[simp] theorem getCore_modPort (s : State) (k j : Nat) (h : Port → Port) : getCore (modPort k h s) j = getCore s j := rfl
@[simp] theorem getPower_modPort (s : State) (k j : Nat) (h : Port → Port) : getPower (modPort k h s) j = getPower s j := rfl
@[simp] theorem getSrc_modPort (s : State) (k j : Nat) (h : Port → Port) : getSrc (modPort k h s) j = getSrc s j := rfl
theorem getPort_mod (s : State) (k : Nat) (g : Port → Port) (h : tblWf portDef s.cn.ports = true) : getPort (modPort k g s) k = g (getPort s k) :=
  tblGet_set_self portDef _ k _ h
theorem getPort_mod_ne (s : State) (k j : Nat) (g : Port → Port) (h : j ≠ k) : getPort (modPort k g s) j = getPort s j :=
  tblGet_set_ne portDef _ k j _ h
theorem modPort_wf (s : State) (k : Nat) (g : Port → Port) (h : tblWf portDef s.cn.ports = true) : tblWf portDef (modPort k g s).cn.ports = true :=
  tblSet_wf portDef _ k _ h

theorem getPower_set (s : State) (k : Nat) (x : Power) (h : tblWf powerDef s.pi.dom = true) : getPower (setPower s k x) k = x :=
  tblGet_set_self powerDef _ k x h
theorem getPower_set_ne (s : State) (k j : Nat) (x : Power) (h : j ≠ k) : getPower (setPower s k x) j = getPower s j :=
  tblGet_set_ne powerDef _ k j x h
theorem setPower_wf (s : State) (k : Nat) (x : Power) (h : tblWf powerDef s.pi.dom = true) : tblWf powerDef (setPower s k x).pi.dom = true :=
  tblSet_wf powerDef _ k x h
@[simp] theorem getFur_setPower (s : State) (k j : Nat) (x : Power) : getFur (setPower s k x) j = getFur s j := rfl
@[simp] theorem getPlot_setPower (s : State) (k j : Nat) (x : Power) : getPlot (setPower s k x) j = getPlot s j := rfl
@[simp] theorem getDom_setPower (s : State) (k j : Nat) (x : Power) : getDom (setPower s k x) j = getDom s j := rfl
@[simp] theorem getFb_setPower (s : State) (k j : Nat) (x : Power) : getFb (setPower s k x) j = getFb s j := rfl
@[simp] theorem getSlot_setPower (s : State) (k j : Nat) (x : Power) : getSlot (setPower s k x) j = getSlot s j := rfl
@[simp] theorem getTable_setPower (s : State) (k j : Nat) (x : Power) : getTable (setPower s k x) j = getTable s j := rfl
@[simp] theorem getChan_setPower (s : State) (k j : Nat) (x : Power) : getChan (setPower s k x) j = getChan s j := rfl
@[simp] theorem getCore_setPower (s : State) (k j : Nat) (x : Power) : getCore (setPower s k x) j = getCore s j := rfl
@[simp] theorem getPort_setPower (s : State) (k j : Nat) (x : Power) : getPort (setPower s k x) j = getPort s j := rfl
@[simp] theorem getSrc_setPower (s : State) (k j : Nat) (x : Power) : getSrc (setPower s k x) j = getSrc s j := rfl

theorem getSrc_set (s : State) (k : Nat) (x : Source) (h : tblWf sourceDef s.sb.sources = true) : getSrc (setSrc s k x) k = x :=
  tblGet_set_self sourceDef _ k x h
theorem getSrc_set_ne (s : State) (k j : Nat) (x : Source) (h : j ≠ k) : getSrc (setSrc s k x) j = getSrc s j :=
  tblGet_set_ne sourceDef _ k j x h
theorem setSrc_wf (s : State) (k : Nat) (x : Source) (h : tblWf sourceDef s.sb.sources = true) : tblWf sourceDef (setSrc s k x).sb.sources = true :=
  tblSet_wf sourceDef _ k x h
@[simp] theorem getFur_setSrc (s : State) (k j : Nat) (x : Source) : getFur (setSrc s k x) j = getFur s j := rfl
@[simp] theorem getPlot_setSrc (s : State) (k j : Nat) (x : Source) : getPlot (setSrc s k x) j = getPlot s j := rfl
@[simp] theorem getDom_setSrc (s : State) (k j : Nat) (x : Source) : getDom (setSrc s k x) j = getDom s j := rfl
@[simp] theorem getFb_setSrc (s : State) (k j : Nat) (x : Source) : getFb (setSrc s k x) j = getFb s j := rfl
@[simp] theorem getSlot_setSrc (s : State) (k j : Nat) (x : Source) : getSlot (setSrc s k x) j = getSlot s j := rfl
@[simp] theorem getTable_setSrc (s : State) (k j : Nat) (x : Source) : getTable (setSrc s k x) j = getTable s j := rfl
@[simp] theorem getChan_setSrc (s : State) (k j : Nat) (x : Source) : getChan (setSrc s k x) j = getChan s j := rfl
@[simp] theorem getCore_setSrc (s : State) (k j : Nat) (x : Source) : getCore (setSrc s k x) j = getCore s j := rfl
@[simp] theorem getPort_setSrc (s : State) (k j : Nat) (x : Source) : getPort (setSrc s k x) j = getPort s j := rfl
@[simp] theorem getPower_setSrc (s : State) (k j : Nat) (x : Source) : getPower (setSrc s k x) j = getPower s j := rfl

@[simp] theorem modVector_pi (s : State) (fn v : Nat) (g : MsixEntry → MsixEntry) : (modVector fn v g s).pi = s.pi := rfl
@[simp] theorem modVector_pins (s : State) (fn v : Nat) (g : MsixEntry → MsixEntry) : (modVector fn v g s).pins = s.pins := rfl
@[simp] theorem modVector_hg (s : State) (fn v : Nat) (g : MsixEntry → MsixEntry) : (modVector fn v g s).hg = s.hg := rfl
@[simp] theorem modVector_he (s : State) (fn v : Nat) (g : MsixEntry → MsixEntry) : (modVector fn v g s).he = s.he := rfl
@[simp] theorem modVector_ap (s : State) (fn v : Nat) (g : MsixEntry → MsixEntry) : (modVector fn v g s).ap = s.ap := rfl
@[simp] theorem modVector_fl (s : State) (fn v : Nat) (g : MsixEntry → MsixEntry) : (modVector fn v g s).fl = s.fl := rfl
@[simp] theorem modVector_ba (s : State) (fn v : Nat) (g : MsixEntry → MsixEntry) : (modVector fn v g s).ba = s.ba := rfl
@[simp] theorem modVector_sl (s : State) (fn v : Nat) (g : MsixEntry → MsixEntry) : (modVector fn v g s).sl = s.sl := rfl
@[simp] theorem modVector_sc (s : State) (fn v : Nat) (g : MsixEntry → MsixEntry) : (modVector fn v g s).sc = s.sc := rfl
@[simp] theorem modVector_ch (s : State) (fn v : Nat) (g : MsixEntry → MsixEntry) : (modVector fn v g s).ch = s.ch := rfl
@[simp] theorem modVector_sb (s : State) (fn v : Nat) (g : MsixEntry → MsixEntry) : (modVector fn v g s).sb = s.sb := rfl
@[simp] theorem modVector_cn (s : State) (fn v : Nat) (g : MsixEntry → MsixEntry) : (modVector fn v g s).cn = s.cn := rfl
@[simp] theorem modVector_flash (s : State) (fn v : Nat) (g : MsixEntry → MsixEntry) : (modVector fn v g s).flash = s.flash := rfl
@[simp] theorem modVector_pending (s : State) (fn v : Nat) (g : MsixEntry → MsixEntry) : (modVector fn v g s).pending = s.pending := rfl
@[simp] theorem modVector_out (s : State) (fn v : Nat) (g : MsixEntry → MsixEntry) : (modVector fn v g s).out = s.out := rfl
@[simp] theorem modVector_free (s : State) (fn v : Nat) (g : MsixEntry → MsixEntry) : (modVector fn v g s).free = s.free := rfl

@[simp] theorem cfgSet_pi (s : State) (fn pos v : Nat) : (cfgSet fn pos v s).pi = s.pi := rfl
@[simp] theorem cfgSet_pins (s : State) (fn pos v : Nat) : (cfgSet fn pos v s).pins = s.pins := rfl
@[simp] theorem cfgSet_hg (s : State) (fn pos v : Nat) : (cfgSet fn pos v s).hg = s.hg := rfl
@[simp] theorem cfgSet_he (s : State) (fn pos v : Nat) : (cfgSet fn pos v s).he = s.he := rfl
@[simp] theorem cfgSet_ap (s : State) (fn pos v : Nat) : (cfgSet fn pos v s).ap = s.ap := rfl
@[simp] theorem cfgSet_fl (s : State) (fn pos v : Nat) : (cfgSet fn pos v s).fl = s.fl := rfl
@[simp] theorem cfgSet_ba (s : State) (fn pos v : Nat) : (cfgSet fn pos v s).ba = s.ba := rfl
@[simp] theorem cfgSet_sl (s : State) (fn pos v : Nat) : (cfgSet fn pos v s).sl = s.sl := rfl
@[simp] theorem cfgSet_sc (s : State) (fn pos v : Nat) : (cfgSet fn pos v s).sc = s.sc := rfl
@[simp] theorem cfgSet_ch (s : State) (fn pos v : Nat) : (cfgSet fn pos v s).ch = s.ch := rfl
@[simp] theorem cfgSet_sb (s : State) (fn pos v : Nat) : (cfgSet fn pos v s).sb = s.sb := rfl
@[simp] theorem cfgSet_cn (s : State) (fn pos v : Nat) : (cfgSet fn pos v s).cn = s.cn := rfl
@[simp] theorem cfgSet_flash (s : State) (fn pos v : Nat) : (cfgSet fn pos v s).flash = s.flash := rfl
@[simp] theorem cfgSet_pending (s : State) (fn pos v : Nat) : (cfgSet fn pos v s).pending = s.pending := rfl
@[simp] theorem cfgSet_out (s : State) (fn pos v : Nat) : (cfgSet fn pos v s).out = s.out := rfl
@[simp] theorem cfgSet_free (s : State) (fn pos v : Nat) : (cfgSet fn pos v s).free = s.free := rfl

@[simp] theorem setList_pi (s : State) (id : Nat) (x : Option FiringList) : (setList s id x).pi = s.pi := rfl
@[simp] theorem setList_pins (s : State) (id : Nat) (x : Option FiringList) : (setList s id x).pins = s.pins := rfl
@[simp] theorem setList_hg (s : State) (id : Nat) (x : Option FiringList) : (setList s id x).hg = s.hg := rfl
@[simp] theorem setList_he (s : State) (id : Nat) (x : Option FiringList) : (setList s id x).he = s.he := rfl
@[simp] theorem setList_ap (s : State) (id : Nat) (x : Option FiringList) : (setList s id x).ap = s.ap := rfl
@[simp] theorem setList_fl (s : State) (id : Nat) (x : Option FiringList) : (setList s id x).fl = s.fl := rfl
@[simp] theorem setList_ba (s : State) (id : Nat) (x : Option FiringList) : (setList s id x).ba = s.ba := rfl
@[simp] theorem setList_sl (s : State) (id : Nat) (x : Option FiringList) : (setList s id x).sl = s.sl := rfl
@[simp] theorem setList_sc (s : State) (id : Nat) (x : Option FiringList) : (setList s id x).sc = s.sc := rfl
@[simp] theorem setList_sb (s : State) (id : Nat) (x : Option FiringList) : (setList s id x).sb = s.sb := rfl
@[simp] theorem setList_cn (s : State) (id : Nat) (x : Option FiringList) : (setList s id x).cn = s.cn := rfl
@[simp] theorem setList_hp (s : State) (id : Nat) (x : Option FiringList) : (setList s id x).hp = s.hp := rfl
@[simp] theorem setList_flash (s : State) (id : Nat) (x : Option FiringList) : (setList s id x).flash = s.flash := rfl
@[simp] theorem setList_pending (s : State) (id : Nat) (x : Option FiringList) : (setList s id x).pending = s.pending := rfl
@[simp] theorem setList_out (s : State) (id : Nat) (x : Option FiringList) : (setList s id x).out = s.out := rfl
@[simp] theorem setList_free (s : State) (id : Nat) (x : Option FiringList) : (setList s id x).free = s.free := rfl

@[simp] theorem modList_pi (s : State) (id : Nat) (g : FiringList → FiringList) : (modList id g s).pi = s.pi := rfl
@[simp] theorem modList_pins (s : State) (id : Nat) (g : FiringList → FiringList) : (modList id g s).pins = s.pins := rfl
@[simp] theorem modList_hg (s : State) (id : Nat) (g : FiringList → FiringList) : (modList id g s).hg = s.hg := rfl
@[simp] theorem modList_he (s : State) (id : Nat) (g : FiringList → FiringList) : (modList id g s).he = s.he := rfl
@[simp] theorem modList_ap (s : State) (id : Nat) (g : FiringList → FiringList) : (modList id g s).ap = s.ap := rfl
@[simp] theorem modList_fl (s : State) (id : Nat) (g : FiringList → FiringList) : (modList id g s).fl = s.fl := rfl
@[simp] theorem modList_ba (s : State) (id : Nat) (g : FiringList → FiringList) : (modList id g s).ba = s.ba := rfl
@[simp] theorem modList_sl (s : State) (id : Nat) (g : FiringList → FiringList) : (modList id g s).sl = s.sl := rfl
@[simp] theorem modList_sc (s : State) (id : Nat) (g : FiringList → FiringList) : (modList id g s).sc = s.sc := rfl
@[simp] theorem modList_sb (s : State) (id : Nat) (g : FiringList → FiringList) : (modList id g s).sb = s.sb := rfl
@[simp] theorem modList_cn (s : State) (id : Nat) (g : FiringList → FiringList) : (modList id g s).cn = s.cn := rfl
@[simp] theorem modList_hp (s : State) (id : Nat) (g : FiringList → FiringList) : (modList id g s).hp = s.hp := rfl
@[simp] theorem modList_flash (s : State) (id : Nat) (g : FiringList → FiringList) : (modList id g s).flash = s.flash := rfl
@[simp] theorem modList_pending (s : State) (id : Nat) (g : FiringList → FiringList) : (modList id g s).pending = s.pending := rfl
@[simp] theorem modList_out (s : State) (id : Nat) (g : FiringList → FiringList) : (modList id g s).out = s.out := rfl
@[simp] theorem modList_free (s : State) (id : Nat) (g : FiringList → FiringList) : (modList id g s).free = s.free := rfl

@[simp] theorem setPage_pi (s : State) (id : Nat) (x : Option StatePage) : (setPage s id x).pi = s.pi := rfl
@[simp] theorem setPage_pins (s : State) (id : Nat) (x : Option StatePage) : (setPage s id x).pins = s.pins := rfl
@[simp] theorem setPage_hg (s : State) (id : Nat) (x : Option StatePage) : (setPage s id x).hg = s.hg := rfl
@[simp] theorem setPage_he (s : State) (id : Nat) (x : Option StatePage) : (setPage s id x).he = s.he := rfl
@[simp] theorem setPage_ap (s : State) (id : Nat) (x : Option StatePage) : (setPage s id x).ap = s.ap := rfl
@[simp] theorem setPage_fl (s : State) (id : Nat) (x : Option StatePage) : (setPage s id x).fl = s.fl := rfl
@[simp] theorem setPage_ba (s : State) (id : Nat) (x : Option StatePage) : (setPage s id x).ba = s.ba := rfl
@[simp] theorem setPage_sl (s : State) (id : Nat) (x : Option StatePage) : (setPage s id x).sl = s.sl := rfl
@[simp] theorem setPage_sc (s : State) (id : Nat) (x : Option StatePage) : (setPage s id x).sc = s.sc := rfl
@[simp] theorem setPage_sb (s : State) (id : Nat) (x : Option StatePage) : (setPage s id x).sb = s.sb := rfl
@[simp] theorem setPage_cn (s : State) (id : Nat) (x : Option StatePage) : (setPage s id x).cn = s.cn := rfl
@[simp] theorem setPage_hp (s : State) (id : Nat) (x : Option StatePage) : (setPage s id x).hp = s.hp := rfl
@[simp] theorem setPage_flash (s : State) (id : Nat) (x : Option StatePage) : (setPage s id x).flash = s.flash := rfl
@[simp] theorem setPage_pending (s : State) (id : Nat) (x : Option StatePage) : (setPage s id x).pending = s.pending := rfl
@[simp] theorem setPage_out (s : State) (id : Nat) (x : Option StatePage) : (setPage s id x).out = s.out := rfl
@[simp] theorem setPage_free (s : State) (id : Nat) (x : Option StatePage) : (setPage s id x).free = s.free := rfl

@[simp] theorem modColl_pi (s : State) (op : Nat) (g : Coll → Coll) : (modColl op g s).pi = s.pi := rfl
@[simp] theorem modColl_pins (s : State) (op : Nat) (g : Coll → Coll) : (modColl op g s).pins = s.pins := rfl
@[simp] theorem modColl_hg (s : State) (op : Nat) (g : Coll → Coll) : (modColl op g s).hg = s.hg := rfl
@[simp] theorem modColl_he (s : State) (op : Nat) (g : Coll → Coll) : (modColl op g s).he = s.he := rfl
@[simp] theorem modColl_ap (s : State) (op : Nat) (g : Coll → Coll) : (modColl op g s).ap = s.ap := rfl
@[simp] theorem modColl_fl (s : State) (op : Nat) (g : Coll → Coll) : (modColl op g s).fl = s.fl := rfl
@[simp] theorem modColl_ba (s : State) (op : Nat) (g : Coll → Coll) : (modColl op g s).ba = s.ba := rfl
@[simp] theorem modColl_sl (s : State) (op : Nat) (g : Coll → Coll) : (modColl op g s).sl = s.sl := rfl
@[simp] theorem modColl_sc (s : State) (op : Nat) (g : Coll → Coll) : (modColl op g s).sc = s.sc := rfl
@[simp] theorem modColl_ch (s : State) (op : Nat) (g : Coll → Coll) : (modColl op g s).ch = s.ch := rfl
@[simp] theorem modColl_sb (s : State) (op : Nat) (g : Coll → Coll) : (modColl op g s).sb = s.sb := rfl
@[simp] theorem modColl_hp (s : State) (op : Nat) (g : Coll → Coll) : (modColl op g s).hp = s.hp := rfl
@[simp] theorem modColl_flash (s : State) (op : Nat) (g : Coll → Coll) : (modColl op g s).flash = s.flash := rfl
@[simp] theorem modColl_pending (s : State) (op : Nat) (g : Coll → Coll) : (modColl op g s).pending = s.pending := rfl
@[simp] theorem modColl_out (s : State) (op : Nat) (g : Coll → Coll) : (modColl op g s).out = s.out := rfl
@[simp] theorem modColl_free (s : State) (op : Nat) (g : Coll → Coll) : (modColl op g s).free = s.free := rfl

@[simp] theorem setMem_pi (s : State) (hbm : Bool) (m : Memory) (bad : List Nat) : (setMem hbm s m bad).pi = s.pi := by
  cases hbm <;> rfl
@[simp] theorem setMem_pins (s : State) (hbm : Bool) (m : Memory) (bad : List Nat) : (setMem hbm s m bad).pins = s.pins := by
  cases hbm <;> rfl
@[simp] theorem setMem_hg (s : State) (hbm : Bool) (m : Memory) (bad : List Nat) : (setMem hbm s m bad).hg = s.hg := by
  cases hbm <;> rfl
@[simp] theorem setMem_he (s : State) (hbm : Bool) (m : Memory) (bad : List Nat) : (setMem hbm s m bad).he = s.he := by
  cases hbm <;> rfl
@[simp] theorem setMem_ap (s : State) (hbm : Bool) (m : Memory) (bad : List Nat) : (setMem hbm s m bad).ap = s.ap := by
  cases hbm <;> rfl
@[simp] theorem setMem_fl (s : State) (hbm : Bool) (m : Memory) (bad : List Nat) : (setMem hbm s m bad).fl = s.fl := by
  cases hbm <;> rfl
@[simp] theorem setMem_sl (s : State) (hbm : Bool) (m : Memory) (bad : List Nat) : (setMem hbm s m bad).sl = s.sl := by
  cases hbm <;> rfl
@[simp] theorem setMem_sc (s : State) (hbm : Bool) (m : Memory) (bad : List Nat) : (setMem hbm s m bad).sc = s.sc := by
  cases hbm <;> rfl
@[simp] theorem setMem_ch (s : State) (hbm : Bool) (m : Memory) (bad : List Nat) : (setMem hbm s m bad).ch = s.ch := by
  cases hbm <;> rfl
@[simp] theorem setMem_sb (s : State) (hbm : Bool) (m : Memory) (bad : List Nat) : (setMem hbm s m bad).sb = s.sb := by
  cases hbm <;> rfl
@[simp] theorem setMem_cn (s : State) (hbm : Bool) (m : Memory) (bad : List Nat) : (setMem hbm s m bad).cn = s.cn := by
  cases hbm <;> rfl
@[simp] theorem setMem_hp (s : State) (hbm : Bool) (m : Memory) (bad : List Nat) : (setMem hbm s m bad).hp = s.hp := by
  cases hbm <;> rfl
@[simp] theorem setMem_flash (s : State) (hbm : Bool) (m : Memory) (bad : List Nat) : (setMem hbm s m bad).flash = s.flash := by
  cases hbm <;> rfl
@[simp] theorem setMem_pending (s : State) (hbm : Bool) (m : Memory) (bad : List Nat) : (setMem hbm s m bad).pending = s.pending := by
  cases hbm <;> rfl
@[simp] theorem setMem_out (s : State) (hbm : Bool) (m : Memory) (bad : List Nat) : (setMem hbm s m bad).out = s.out := by
  cases hbm <;> rfl
@[simp] theorem setMem_free (s : State) (hbm : Bool) (m : Memory) (bad : List Nat) : (setMem hbm s m bad).free = s.free := by
  cases hbm <;> rfl

theorem getVector_mod (s : State) (fn v : Nat) (g : MsixEntry → MsixEntry) (h : tblWf vectorDef s.hp.vectors = true) :
    getVector (modVector fn v g s) fn v = g (getVector s fn v) := tblGet_set_self vectorDef _ _ _ h
theorem getList_set (s : State) (id : Nat) (x : Option FiringList) (h : tblWf listDef s.ch.lists = true) :
    getList (setList s id x) id = x := tblGet_set_self listDef _ id x h
theorem getList_set_ne (s : State) (id j : Nat) (x : Option FiringList) (h : j ≠ id) :
    getList (setList s id x) j = getList s j := tblGet_set_ne listDef _ id j x h
theorem getPage_set (s : State) (id : Nat) (x : Option StatePage) (h : tblWf pageDef s.ch.pages = true) :
    getPage (setPage s id x) id = x := tblGet_set_self pageDef _ id x h
theorem getPage_set_ne (s : State) (id j : Nat) (x : Option StatePage) (h : j ≠ id) :
    getPage (setPage s id x) j = getPage s j := tblGet_set_ne pageDef _ id j x h
theorem cfgGet_set (s : State) (fn pos v : Nat) (h : tblWf cfgDef s.hp.cfg = true) :
    cfgGet (cfgSet fn pos v s) fn pos = v := tblGet_set_self cfgDef _ _ v h

end Sys2Proof.Machine
end

