-- ==== Sys2Proof/Laws/Memory.lean ====
section
/-!
SUPPORT. The byte memories: every operation on Basin and HBM keeps the canonical form, writes the bytes given
and leaves every other byte.
-/
namespace Sys2Proof.Machine

/-- The canonical form of the memories, field by field. -/
theorem memoryWf_iff (s : State) : s.memoryWf = true ↔
    memWf s.ba.basin = true ∧ memWf s.ba.hbm = true ∧ memWf s.ch.sram = true ∧ memWf s.sb.recMem = true
      ∧ tblWf flashDefault s.flash = true := by
  simp [State.memoryWf, Bool.and_eq_true, and_assoc]

/-- A state whose five memories are those of a canonical one is canonical. -/
theorem memoryWf_congr {s t : State} (hb : t.ba.basin = s.ba.basin) (hh : t.ba.hbm = s.ba.hbm) (hc : t.ch.sram = s.ch.sram)
    (hr : t.sb.recMem = s.sb.recMem) (hf : t.flash = s.flash) (h : s.memoryWf = true) : t.memoryWf = true := by
  rw [memoryWf_iff] at h ⊢
  rw [hb, hh, hc, hr, hf]
  exact h

theorem memOf_wf (hbm : Bool) (s : State) (h : s.memoryWf = true) : memWf (memOf hbm s) = true := by
  rw [memoryWf_iff] at h
  cases hbm
  · exact h.1
  · exact h.2.1

/-- Replacing Basin or HBM by a canonical memory. -/
theorem setMem_memoryWf (hbm : Bool) (s : State) (m : Memory) (bad : List Nat) (h : s.memoryWf = true)
    (hm : memWf m = true) : (setMem hbm s m bad).memoryWf = true := by
  rw [memoryWf_iff] at h ⊢
  cases hbm
  · exact ⟨hm, h.2⟩
  · exact ⟨h.1, hm, h.2.2⟩

@[simp] theorem memOf_setMem (hbm : Bool) (s : State) (m : Memory) (bad : List Nat) : memOf hbm (setMem hbm s m bad) = m := by
  cases hbm <;> rfl

@[simp] theorem memOf_setMem_other (hbm : Bool) (s : State) (m : Memory) (bad : List Nat) :
    memOf (!hbm) (setMem hbm s m bad) = memOf (!hbm) s := by
  cases hbm <;> rfl

/-- Everything but one memory and its check bits stands. -/
theorem setMem_frame (hbm : Bool) (s : State) (m : Memory) (bad : List Nat) :
    setMem hbm s m bad = { s with ba := (setMem hbm s m bad).ba } := by
  cases hbm <;> rfl

/-- A fold that restores cells keeps the canonical form. -/
theorem foldRestore_wf (q : Nat → Bool) (m : Memory) (a : Nat) (is : List Nat) (acc : Memory) (h : memWf acc = true) :
    memWf (is.foldl (fun acc i => if q i then tblSet memDefault acc (a + i) (tblGet memDefault m (a + i)) else acc) acc) = true := by
  induction is generalizing acc with
  | nil => exact h
  | cons i is ih =>
    rw [List.foldl_cons]
    apply ih
    split
    · exact tblSet_wf memDefault acc _ _ h
    · exact h

theorem landCells_wf (hbm : Bool) (s : State) (m' m : Memory) (a n : Nat) (h : memWf m' = true) :
    memWf (landCells hbm s m' m a n) = true := by
  unfold landCells
  repeat' split
  all_goals first
    | exact h
    | exact foldRestore_wf (fun i => unitFailed _ s (a + i)) m a _ _ h

theorem putMem_memoryWf (hbm : Bool) (s : State) (a : Nat) (bs : List Byte) (h : s.memoryWf = true) :
    (putMem hbm s a bs).memoryWf = true := by
  unfold putMem
  exact setMem_memoryWf hbm s _ _ h (landCells_wf hbm s _ _ a _ (memWrite_wf memDefault _ a bs (memOf_wf hbm s h)))

theorem writeMem_memoryWf (hbm : Bool) (s : State) (a : Nat) (bs : List Byte) (h : s.memoryWf = true) :
    (writeMem hbm s a bs).1.memoryWf = true := by
  unfold writeMem
  simp only
  split
  · exact h
  · exact putMem_memoryWf hbm s a _ h

theorem zeroMem_memoryWf (hbm : Bool) (s : State) (a n : Nat) (h : s.memoryWf = true) :
    (zeroMem hbm s a n).memoryWf = true := by
  unfold zeroMem
  split
  · exact h
  · exact setMem_memoryWf hbm s _ _ h (tblClear_wf memDefault _ _ _ (memOf_wf hbm s h))

/-! ## What is read after a write -/

/-- A fold that restores cells leaves every other cell. -/
theorem foldRestore_out (q : Nat → Bool) (m : Memory) (a : Nat) (is : List Nat) (acc : Memory) (x : Nat)
    (hx : ∀ i ∈ is, x ≠ a + i) :
    tblGet memDefault (is.foldl (fun acc i => if q i then tblSet memDefault acc (a + i) (tblGet memDefault m (a + i)) else acc) acc) x
      = tblGet memDefault acc x := by
  induction is generalizing acc with
  | nil => rfl
  | cons i is ih =>
    rw [List.foldl_cons, ih _ fun j hj => hx j (by simp [hj])]
    split
    · exact tblGet_set_ne memDefault acc _ _ _ (hx i (by simp))
    · rfl

/-- A byte outside the bytes written reads as before. -/
theorem memOf_putMem_out (hbm : Bool) (s : State) (a : Nat) (bs : List Byte) (x : Nat) (h : x < a ∨ a + bs.length ≤ x) :
    tblGet memDefault (memOf hbm (putMem hbm s a bs)) x = tblGet memDefault (memOf hbm s) x := by
  have hw := tblGet_memWrite_out memDefault (memOf hbm s) a bs x h
  unfold putMem
  simp only [memOf_setMem]
  unfold landCells
  repeat' split
  all_goals first
    | exact hw
    | (rw [foldRestore_out (fun i => unitFailed _ s (a + i)) _ a _ _ x ?_, hw]
       intro i hi
       have := List.mem_range.1 hi
       omega)

/-- A byte written reads as written while no unit has failed in service. -/
theorem memOf_putMem_in (hbm : Bool) (s : State) (a : Nat) (bs : List Byte) (i : Nat) (h : i < bs.length)
    (hu : (if hbm then s.ba.stackFail = 0 else s.ba.bankFail = 0)) :
    tblGet memDefault (memOf hbm (putMem hbm s a bs)) (a + i) = bs[i] := by
  unfold putMem
  simp only [memOf_setMem, landCells]
  rw [if_pos hu]
  exact tblGet_memWrite_in memDefault (memOf hbm s) a bs i h

/-- A byte outside the bytes given reads as before, however many of them land. -/
theorem memOf_writeMem_out (hbm : Bool) (s : State) (a : Nat) (bs : List Byte) (x : Nat) (h : x < a ∨ a + bs.length ≤ x) :
    tblGet memDefault (memOf hbm (writeMem hbm s a bs).1) x = tblGet memDefault (memOf hbm s) x := by
  unfold writeMem
  simp only
  split
  · rfl
  · apply memOf_putMem_out
    rw [List.length_take]
    omega

/-- The other memory is untouched. -/
theorem memOf_putMem_other (hbm : Bool) (s : State) (a : Nat) (bs : List Byte) :
    memOf (!hbm) (putMem hbm s a bs) = memOf (!hbm) s := by
  unfold putMem
  exact memOf_setMem_other hbm s _ _

/-- Zeroing makes every byte of the range read 0 and leaves the others. -/
theorem memOf_zeroMem (hbm : Bool) (s : State) (a n x : Nat) :
    tblGet memDefault (memOf hbm (zeroMem hbm s a n)) x
      = if a ≤ x ∧ x < a + n then 0 else tblGet memDefault (memOf hbm s) x := by
  unfold zeroMem
  split
  · rename_i hn
    rw [if_neg (by omega)]
  · rw [memOf_setMem, tblGet_clear]
    rfl

end Sys2Proof.Machine
end

