-- ==== Sys2Proof/Laws/Ops.lean ====
section
/-!
SUPPORT. Everything that each shared operation can change, as one equation per operation: the result is the
state before with the named fields replaced.
-/
namespace Sys2Proof.Machine

/-! ## Frames as relations that compose -/

/-- Only the furrow table differs. -/
def OnlyFurrows (s t : State) : Prop := t = { s with hg := { s.hg with furrows := t.hg.furrows } }
/-- Only the furrow table and the domains' slices differ. -/
def OnlyTurns (s t : State) : Prop := t = { s with hg := { s.hg with furrows := t.hg.furrows, domains := t.hg.domains } }
/-- Only the Headgate's registers, what was sent, and the vectors that wait in a PBA differ. -/
def OnlyHeadgate (s t : State) : Prop := t = { s with hg := t.hg, out := t.out, hp := { s.hp with vectors := t.hp.vectors } }

theorem OnlyFurrows.rfl' (s : State) : OnlyFurrows s s := rfl
theorem OnlyTurns.rfl' (s : State) : OnlyTurns s s := rfl
theorem OnlyHeadgate.rfl' (s : State) : OnlyHeadgate s s := rfl

theorem OnlyFurrows.trans {s t u : State} (h : OnlyFurrows s t) (k : OnlyFurrows t u) : OnlyFurrows s u := by
  unfold OnlyFurrows at *; rw [h] at k; exact k
theorem OnlyTurns.trans {s t u : State} (h : OnlyTurns s t) (k : OnlyTurns t u) : OnlyTurns s u := by
  unfold OnlyTurns at *; rw [h] at k; exact k
theorem OnlyHeadgate.trans {s t u : State} (h : OnlyHeadgate s t) (k : OnlyHeadgate t u) : OnlyHeadgate s u := by
  unfold OnlyHeadgate at *; rw [h] at k; exact k

theorem OnlyFurrows.turns {s t : State} (h : OnlyFurrows s t) : OnlyTurns s t := by
  unfold OnlyFurrows at h; unfold OnlyTurns; rw [h]
theorem OnlyTurns.headgate {s t : State} (h : OnlyTurns s t) : OnlyHeadgate s t := by
  unfold OnlyTurns at h; unfold OnlyHeadgate; rw [h]

/-- A list of changes, each within a frame that composes, stays within it. -/
theorem foldl_frame {α : Type} {R : State → State → Prop} (g : State → α → State) (refl : ∀ s, R s s)
    (trans : ∀ {s t u}, R s t → R t u → R s u) (hg : ∀ s a, R s (g s a)) (xs : List α) (s : State) :
    R s (xs.foldl g s) := by
  induction xs generalizing s with
  | nil => exact refl s
  | cons x xs ih => exact trans (hg s x) (ih (g s x))

/-! ## What leaves the tile, power, free values -/

/-- MSI-X sends at most one request, or its vector waits. -/
theorem msix_frame (fn v : Nat) (s : State) :
    msix fn v s = { s with out := (msix fn v s).out, hp := { s.hp with vectors := (msix fn v s).hp.vectors } } := by
  unfold msix
  split
  · split <;> rfl
  · rfl

/-- A function that cannot send requests, or whose MSI-X is disabled, sends nothing. -/
theorem msix_silent (fn v : Nat) (s : State) (h : hostOpen s fn = false ∨ s.hp.msixOn.contains fn = false) : msix fn v s = s := by
  unfold msix
  rcases h with h | h
  · rw [h, Bool.false_and]; rfl
  · rw [h, Bool.and_false]; rfl

/-- A masked vector waits in the PBA: nothing leaves the tile. -/
theorem msix_masked (fn v : Nat) (s : State) (h : s.hp.msixMask.contains fn = true ∨ (getVector s fn v).masked = true) :
    (msix fn v s).out = s.out := by
  unfold msix
  split
  · rw [if_pos (by simpa using h)]; rfl
  · rfl

/-- Ignition only lists domains that will wake. -/
theorem ignite_frame (ds : List Nat) (s : State) :
    ignite ds s = { s with pi := { s.pi with waking := (ignite ds s).pi.waking } } := by
  unfold ignite; split <;> rfl

/-- A free value's index is taken once. -/
theorem takeFree_eq (s : State) : takeFree s = (s.free, { s with free := s.free + 1 }) := rfl

theorem modFbs_frame (qs : List Nat) (g : Firebox → Firebox) (s : State) :
    modFbs qs g s = { s with he := { s.he with fb := (modFbs qs g s).he.fb } } := by
  unfold modFbs
  exact foldl_frame (R := fun s t => t = { s with he := { s.he with fb := t.he.fb } }) _ (fun _ => rfl)
    (fun h k => by rw [h] at k; exact k) (fun _ _ => rfl) qs s

theorem rewriteService_frame (s : State) :
    rewriteService s = { s with pi := { s.pi with service := (rewriteService s).pi.service }
                                sb := { s.sb with escHgStop := (rewriteService s).sb.escHgStop }
                                pins := { s.pins with tileReady := (rewriteService s).pins.tileReady } } := by
  unfold rewriteService
  split
  · simp only
    split
    · rfl
    · split <;> rfl
  · rfl

/-! ## Operations of a furrow -/

theorem modFur_only (f : Nat) (g : Furrow → Furrow) (s : State) : OnlyFurrows s (modFur f g s) := rfl
theorem setFur_only (s : State) (f : Nat) (x : Furrow) : OnlyFurrows s (setFur s f x) := rfl
theorem modOp_only (f id : Nat) (g : Op → Op) (s : State) : OnlyFurrows s (modOp f id g s) := rfl
theorem launched_only (f : Nat) (o : Op) (s : State) : OnlyFurrows s (launched f o s) := rfl
theorem endOp_only (f id reason : Nat) (s : State) : OnlyFurrows s (endOp f id reason s) := rfl

theorem bumpProgress_only (f : Nat) (s : State) : OnlyFurrows s (bumpProgress f s) := by
  unfold bumpProgress; simp only; split <;> rfl

theorem times_frame {R : State → State → Prop} (refl : ∀ s, R s s) (trans : ∀ {s t u}, R s t → R t u → R s u)
    (n : Nat) (g : State → State) (hg : ∀ s, R s (g s)) (s : State) : R s (times n g s) :=
  foldl_frame (fun s _ => g s) refl trans (fun s _ => hg s) _ s

theorem retire_only (f : Nat) (s : State) : OnlyFurrows s (retire f s) := by
  unfold retire
  exact OnlyFurrows.trans (setFur_only s f _)
    (times_frame OnlyFurrows.rfl' OnlyFurrows.trans _ _ (bumpProgress_only f) _)

theorem drainCheck_only (f : Nat) (s : State) : OnlyFurrows s (drainCheck f s) := by
  unfold drainCheck; simp only; split <;> rfl

theorem modDom_turns (d : Nat) (g : Domain → Domain) (s : State) : OnlyTurns s (modDom d g s) := rfl

theorem dropIdleHolder_turns (d : Nat) (s : State) : OnlyTurns s (dropIdleHolder d s) := by
  unfold dropIdleHolder
  split
  · split <;> rfl
  · rfl

theorem yieldSlice_turns (d f : Nat) (s : State) : OnlyTurns s (yieldSlice d f s) := by
  unfold yieldSlice
  split
  · refine OnlyTurns.trans ?_ (dropIdleHolder_turns d _)
    split <;> rfl
  · rfl

/-- Completion changes the furrow table, the slice of the operation's domain, its channel and its Fireboxes'
run state, and nothing else. -/
theorem completeOp_frame (f id reason : Nat) (sat : Bool) (s : State) :
    completeOp f id reason sat s
      = { s with hg := { s.hg with furrows := (completeOp f id reason sat s).hg.furrows
                                   domains := (completeOp f id reason sat s).hg.domains }
                 sl := { s.sl with channels := (completeOp f id reason sat s).sl.channels }
                 he := { s.he with fb := (completeOp f id reason sat s).he.fb } } := by
  unfold completeOp
  split
  · rfl
  · rename_i o _
    simp only
    generalize h2 : (if sat = true then modFur f _ _ else modOp f id _ s) = s2
    have e2 : OnlyFurrows s s2 := by
      rw [← h2]; split
      · exact (modOp_only ..).trans (modFur_only ..)
      · exact modOp_only ..
    have key : ∀ s4 : State,
        s4 = { s2 with sl := { s2.sl with channels := s4.sl.channels }, he := { s2.he with fb := s4.he.fb } } →
        ∀ t, OnlyTurns s4 t →
          t = { s with hg := { s.hg with furrows := t.hg.furrows, domains := t.hg.domains }
                       sl := { s.sl with channels := t.sl.channels }, he := { s.he with fb := t.he.fb } } := by
      intro s4 h4 t ht
      unfold OnlyTurns at ht; unfold OnlyFurrows at e2
      rw [h4, e2] at ht
      rw [ht]
    generalize opDomain s o = dom
    cases dom with
    | none => exact key _ rfl _ ((retire_only ..).trans (drainCheck_only ..)).turns
    | some d =>
      refine key _ ?_ _ (((retire_only ..).trans (drainCheck_only ..)).turns.trans (yieldSlice_turns ..))
      simp only
      split
      · unfold idleFbs
        rw [modFbs_frame]
      · rfl

/-- A rejection changes what a completion changes. -/
theorem reject_frame (f : Nat) (o : Op) (code : Nat) (s : State) :
    reject f o code s
      = { s with hg := { s.hg with furrows := (reject f o code s).hg.furrows, domains := (reject f o code s).hg.domains }
                 sl := { s.sl with channels := (reject f o code s).sl.channels }
                 he := { s.he with fb := (reject f o code s).he.fb } } := by
  unfold reject
  rw [completeOp_frame]
  rfl

/-- A dispatch that may go on has changed its furrow alone. -/
theorem takeSnapshot_ok {f : Nat} {o o' : Op} {s u : State} (h : takeSnapshot f o s = .ok (o', u)) : OnlyFurrows s u := by
  unfold takeSnapshot at h
  simp only at h
  split at h
  · cases h; rfl
  · split at h
    · cases h
    · split at h
      · cases h; exact (modOp_only ..).trans (launched_only ..)
      · split at h
        · unfold innerSnap at h
          simp only at h
          split at h
          · cases h; exact (modOp_only ..).trans (launched_only ..)
          · split at h
            · cases h
            · cases h; exact (modOp_only ..).trans (launched_only ..)
        · cases h

theorem beginDispatch_ok {f : Nat} {sel : Op → Bool} {needs : List Nat} {s u : State} {o : Op}
    (h : beginDispatch f sel needs s = .ok (o, u)) :
    OnlyFurrows s u ∧ awake s needs = true ∧ ∃ o', turnOp s f = some o' ∧ sel o' = true ∧ o'.phase ≠ .snapshot := by
  unfold beginDispatch at h
  split at h
  · cases h
  · rename_i o' ho
    split at h
    · cases h
    · rename_i h1
      split at h
      · cases h
      · rename_i h2
        refine ⟨takeSnapshot_ok h, by simpa using h2, o', ho, ?_⟩
        simpa [not_or] using h1

/-! ## Mailboxes and slices -/

theorem modMail_headgate (p : Nat) (g : Mailbox → Mailbox) (s : State) : OnlyHeadgate s (modMail p g s) := rfl
theorem modPlot_headgate (p : Nat) (g : Plot → Plot) (s : State) : OnlyHeadgate s (modPlot p g s) := rfl
theorem msix_headgate (fn v : Nat) (s : State) : OnlyHeadgate s (msix fn v s) := by
  unfold OnlyHeadgate; rw [msix_frame]

/-- A response changes the plot's mailbox and may raise its vector. -/
theorem respond_headgate (p status : Nat) (body : List Byte) (s : State) : OnlyHeadgate s (respond p status body s) := by
  unfold respond
  simp only
  split
  · exact modMail_headgate ..
  · exact (modMail_headgate ..).trans (msix_headgate ..)

/-- A notice changes the plot's mailbox and may raise its vector. -/
theorem postNow_headgate (p type : Nat) (body : List Byte) (s : State) : OnlyHeadgate s (postNow p type body s) := by
  unfold postNow
  simp only
  split
  · exact modMail_headgate ..
  · exact (modMail_headgate ..).trans (msix_headgate ..)

theorem answerSchedSet_headgate (s : State) : OnlyHeadgate s (answerSchedSet s) := by
  unfold answerSchedSet
  simp only
  split
  · exact respond_headgate ..
  · rfl

theorem settleCommit_headgate (s : State) : OnlyHeadgate s (settleCommit s) := by
  unfold settleCommit
  split
  · refine OnlyHeadgate.trans ?_ (answerSchedSet_headgate _)
    refine OnlyHeadgate.trans ?_ (foldl_frame (fun t p => modPlot p _ t) OnlyHeadgate.rfl' OnlyHeadgate.trans (fun s p => modPlot_headgate p _ s) _ _)
    exact OnlyHeadgate.trans (t := { s with hg := { s.hg with commit := false } }) rfl
      (foldl_frame (fun t d => modDom d _ t) OnlyHeadgate.rfl' OnlyHeadgate.trans (fun s d => (modDom_turns d _ s).headgate) _ _)
  · rfl

theorem takeTable_headgate (d : Nat) (s : State) : OnlyHeadgate s (takeTable d s) := by
  unfold takeTable
  split
  · exact (modDom_turns ..).headgate.trans (settleCommit_headgate _)
  · rfl

theorem newCredits_turns (d : Nat) (z : Bool) (s : State) : OnlyTurns s (newCredits d z s) := by
  unfold newCredits; split <;> rfl

theorem roundStart_headgate (d : Nat) (s : State) : OnlyHeadgate s (roundStart d s) :=
  (takeTable_headgate d s).trans (newCredits_turns ..).headgate

theorem useCredit_headgate (d : Nat) (g : Grant) (s : State) : OnlyHeadgate s (useCredit d g s) := by
  unfold useCredit
  simp only
  refine OnlyHeadgate.trans ?_ (modDom_turns ..).headgate
  split
  · exact roundStart_headgate ..
  · rfl

/-- A grant changes the Headgate, and what a commit that it settles sends. -/
theorem giveSlice_headgate (d : Nat) (g : Grant) (s : State) : OnlyHeadgate s (giveSlice d g s) :=
  (useCredit_headgate d g s).trans (modDom_turns ..).headgate

theorem passOn_headgate (d : Nat) (g : Grant) (s : State) : OnlyHeadgate s (passOn d g s) :=
  (useCredit_headgate d g s).trans (modDom_turns ..).headgate

theorem takeTurn_headgate {d f : Nat} {s u : State} (h : takeTurn d f s = some u) : OnlyHeadgate s u := by
  unfold takeTurn at h
  simp only at h
  have h0 := (dropIdleHolder_turns d s).headgate
  split at h
  · split at h
    · cases h; exact h0
    · cases h
  · split at h
    · split at h
      · cases h; exact h0.trans (giveSlice_headgate ..)
      · cases h
    · cases h

/-! ## Fault events -/

/-- What an event of a source may change: the Smokebox, the domains that wake, CH3's latched vectors, what is sent, and the
vectors that wait in a PBA. -/
def OnlyEvent (s t : State) : Prop :=
  t = { s with sb := t.sb, pi := { s.pi with waking := t.pi.waking }, ch := { s.ch with localPend := t.ch.localPend }, out := t.out
               hp := { s.hp with vectors := t.hp.vectors } }

theorem OnlyEvent.rfl' (s : State) : OnlyEvent s s := rfl
theorem OnlyEvent.trans {s t u : State} (h : OnlyEvent s t) (k : OnlyEvent t u) : OnlyEvent s u := by
  unfold OnlyEvent at *; rw [h] at k; exact k

theorem ignite_event (ds : List Nat) (s : State) : OnlyEvent s (ignite ds s) := by
  unfold OnlyEvent; rw [ignite_frame]
theorem msix_event (fn v : Nat) (s : State) : OnlyEvent s (msix fn v s) := by
  unfold OnlyEvent; rw [msix_frame]

theorem collectorIrq_event (s : State) : OnlyEvent s (collectorIrq s) := by
  unfold collectorIrq
  have h1 : OnlyEvent s (if s.sb.ch3IrqEn then ignite [dChimney] (emit .ch3Irq s) else s) := by
    split
    · exact OnlyEvent.trans (t := emit .ch3Irq s) rfl (ignite_event ..)
    · rfl
  simp only
  split
  · exact h1.trans (msix_event ..)
  · exact h1

theorem collect_event (n : Nat) (plot : Option Nat) (eff : BitVec 3) (s : State) : OnlyEvent s (collect n plot eff s) := by
  unfold collect
  simp only
  split
  · exact OnlyEvent.trans (by rfl) (collectorIrq_event _)
  · split
    · exact OnlyEvent.trans (by rfl) (collectorIrq_event _)
    · split
      · exact OnlyEvent.trans (by rfl) (collectorIrq_event _)
      · rfl

theorem localVector_event (n : Nat) (s : State) : OnlyEvent s (localVector n s) := by
  unfold localVector
  split
  · exact OnlyEvent.trans (t := emit (.ch3Local n) s) rfl (ignite_event ..)
  · rfl

/-- An event of a source touches the Smokebox, what wakes, the latched vectors and the output, nothing else. -/
theorem raiseBare_event (n : Nat) (plot : Option Nat) (s : State) : OnlyEvent s (raiseBare n plot s) := by
  unfold raiseBare
  split
  · rfl
  · simp only
    generalize hs : setSrc _ n _ = s1
    have e1 : OnlyEvent s s1 := by rw [← hs]; rfl
    have e2 : OnlyEvent s (if (getSrc s n).chan = 1 then s1 else localVector n s1) := by
      split
      · exact e1
      · exact e1.trans (localVector_event ..)
    split
    · exact e2
    · exact e2.trans (collect_event ..)

/-- A reserved source line never sets (R263). -/
theorem raiseBare_reserved (n : Nat) (plot : Option Nat) (s : State) (h : sourceReserved n = true) : raiseBare n plot s = s := by
  unfold raiseBare; rw [if_pos h]

end Sys2Proof.Machine
end

