-- ==== Sys2Proof/Tests/Build.lean ====
section
/-!
SUPPORT. Small states for the tests: a tile that is up, with two plots, their furrows and the operations that
they hold.
-/
namespace Sys2Proof.Tests
open Sys2Proof Sys2Proof.Machine

/-- `n` bytes with little-endian fields (offset, bytes, value) put in. -/
def body (n : Nat) (fs : List (Nat × Nat × Nat)) : List Byte :=
  fs.foldl (fun b f => putBytes b f.1 (natLe f.2.1 f.2.2)) (List.replicate n 0)

/-- An entry of a ring: opcode, ticket, and the fields of its body (Table 7-4). -/
def entry (code ticket : Nat) (fs : List (Nat × Nat × Nat)) : List Byte :=
  body 128 ([(0, 1, code), (2, 1, 1), (8, 6, ticket)] ++ fs)

/-- An accepted operation whose empty constant buffer has been taken. -/
def mkOp (id code : Nat) (fs : List (Nat × Nat × Nat)) : Op :=
  { id := id, opcode := code, ticket := bv 48 (id + 1), bytes := entry code (id + 1) fs, snapTaken := true }

/-- An armed furrow of 16 entries with the operations given. -/
def furOf (plot idx kind : Nat) (q : List Op) : Furrow :=
  { plot := bv 6 plot, localIdx := bv 10 idx, alloc := true, kind := bv 2 kind, sizeLog2 := 4, arm := true
    state := .active, queue := q }

/-- Plot 0, with furrows 0 to 7 and the first 4 MiB of Basin. -/
def plot0 : Plot :=
  { state := .live, slotMask := 0xFF, furFirst := 0, furCount := 8, evtCount := 64, sluiceMax := 8
    basinBase := 0, basinSize := 4, hbmBase := 0, hbmSize := 1 }

/-- Plot 1, with furrows 16 to 23, the next 4 MiB of Basin, the last of them its residency region. -/
def plot1 : Plot :=
  { state := .live, slotMask := 0xFF00, furFirst := 16, furCount := 8, evtCount := 128, sluiceMax := 2
    basinBase := 4, basinSize := 4, resBase := 3, resSize := 1, hbmBase := 1, hbmSize := 1 }

/-- A tile that is up, FULL service (the word of 15_reset_and_bringup), with plots 0 and 1 live. -/
def up : State :=
  { pi := { phase := .ready, refLocked := true, everLocked := true, service := 0x3E0863F8 }
    pins := { strapHost := 1, tileReady := true }
    hp := { up := true, cxl := true, lanes := 16, rate := 5, numVfs := 2, vfWant := 2, vfOn := true, modules := 0xF, carry := 0xF
            master := [0, 1, 2], msixOn := [0, 1, 2]
            vectors := (List.range 12).map fun i => (i, { addr := 0xFEE00000, data := bv 32 i, masked := false }) }
    hg := { plots := [(0, plot0), (1, plot1)], nextOp := 100 }
    ch := { cores := [(0, { state := .running }), (1, { state := .running }), (2, { state := .running }), (3, { state := .running })]
            mbVer := 0x0100, svn := 3, minSvn := 2 } }

/-- The same with furrows, as (furrow, its contents), rising. -/
def tile (fs : List (Nat × Furrow)) : State := { up with hg := { up.hg with furrows := fs } }

/-- One USER furrow, 16, of plot 1, with the operations given. -/
def userTile (q : List Op) : State := tile [(16, furOf 1 0 0 q)]

/-- One KERNEL furrow, 0, of plot 0, with the operations given. -/
def kernelTile (q : List Op) : State := tile [(0, furOf 0 0 1 q)]

/-- The command answers a next state of which `q` holds. -/
def ends (c : Instr) (s : State) (q : State → Bool) : Bool :=
  match exec c s with
  | .next t => q t
  | _ => false

/-- Whether an operation is gone from its furrow, or complete. -/
def closed (t : State) (f id r : Nat) : Bool :=
  (getFur t f).queue.all fun x => x.id != id || (x.phase == .done && x.reason == bv 8 r)

end Sys2Proof.Tests
end

