-- ==== Sys2Proof/Tests/Slice0.lean ====
section
/-!
SUPPORT. Tests: for every statement a state and operands that meet its hypotheses, clause by clause; for every
family of commands what one step gives, expected from the manual's words, tables and worked examples; an ill-formed
command for every check of well-formedness.
-/
namespace Sys2Proof.Tests
set_option Elab.async false
open Sys2Proof Sys2Proof.Machine Sys2Proof.Claims

/-! ## Well-formedness: one term that each check refuses -/

theorem test_wf_plot : (Instr.doorbell 64 0 0).wf = false ∧ (Instr.doorbell 63 0 0).wf = true := by decide +kernel
theorem test_wf_local : (Instr.doorbell 0 1024 0).wf = false ∧ (Instr.doorbell 0 1023 0).wf = true := by decide +kernel
theorem test_wf_furrow : (Instr.nop 16384).wf = false ∧ (Instr.nop 16383).wf = true := by decide +kernel
theorem test_wf_agent : (Instr.furrowArm (.vf 0) 0 0).wf = false ∧ (Instr.furrowArm (.vf 64) 0 0).wf = false
    ∧ (Instr.furrowArm (.core 4) 0 0).wf = false ∧ (Instr.furrowArm (.core 3) 0 0).wf = true := by decide +kernel
theorem test_wf_domain : (Instr.slotRowReadout 7).wf = false ∧ (Instr.slotRowReadout 6).wf = true := by decide +kernel
theorem test_wf_passFault : (Instr.passStart 0 1 (.parity 4)).wf = false ∧ (Instr.passStart 0 1 (.lockstep 0)).wf = false
    ∧ (Instr.passStart 0 1 (.lockstep 3)).wf = true := by decide +kernel
theorem test_wf_channel : (Instr.sluiceSegment 32 .error).wf = false ∧ (Instr.sluiceSegment 31 .error).wf = true := by decide +kernel
theorem test_wf_slot : (Instr.ctxSave .pf 16).wf = false ∧ (Instr.ctxSave .pf 15).wf = true := by decide +kernel
theorem test_wf_core : (Instr.wdogExpiry 4).wf = false ∧ (Instr.wdogExpiry 3).wf = true := by decide +kernel
theorem test_wf_port : (Instr.replayTimeout 4).wf = false ∧ (Instr.replayTimeout 3).wf = true := by decide +kernel
theorem test_wf_source : (Instr.smokeboxEvent 64 none 0).wf = false ∧ (Instr.smokeboxEvent 63 none 0).wf = true := by decide +kernel
theorem test_wf_event_plot : (Instr.smokeboxEvent 0 none 0).wf = false ∧ (Instr.smokeboxEvent 0 (some 64) 0).wf = false
    ∧ (Instr.smokeboxEvent 0 (some 63) 0).wf = true ∧ (Instr.smokeboxEvent 18 none 0).wf = true := by decide +kernel
theorem test_wf_other_agents : (Instr.registerWrite (.coreRead 4) 0 4 0).wf = false ∧ (Instr.registerWrite (.cfg 64) 0 4 0).wf = false
    ∧ (Instr.registerWrite (.bar4 64) 0 4 0).wf = false ∧ (Instr.registerWrite (.cfg 63) 0 4 0).wf = true ∧ (Instr.registerWrite .bar2 0 4 0).wf = true := by decide +kernel
theorem test_wf_host : (Instr.spdmGetCertificate 8 0 0).wf = false ∧ (Instr.spdmGetCertificate 7 0 0).wf = true
    ∧ (Instr.vfRemove 64).wf = false ∧ (Instr.ucieModuleFail 4).wf = false ∧ (Instr.ucieModuleFail 3).wf = true := by decide +kernel
theorem test_wf_words : (Instr.unitFailsInService (.basinWord (24 * 2 ^ 22))).wf = false ∧ (Instr.unitFailsInService (.hbmWord (24 * 2 ^ 30))).wf = false
    ∧ (Instr.unitFailsInService (.flueHalf 2)).wf = false := by decide +kernel
theorem test_wf_power : (Instr.domainWakeComplete 14).wf = false ∧ (Instr.domainWakeComplete 13).wf = true := by decide +kernel
theorem test_wf_size : (Instr.registerWrite .pf 0 3 0).wf = false ∧ (Instr.registerWrite .pf 0 8 0).wf = true := by decide +kernel
theorem test_wf_unit : (Instr.unitFailsInService (.bank 24)).wf = false ∧ (Instr.unitFailsInService (.stack 8)).wf = false
    ∧ (Instr.unitFailsInService (.tableBank 0 2)).wf = false ∧ (Instr.unitFailsInService (.slotEntry 16 0)).wf = false := by decide +kernel
set_option maxRecDepth 4000 in
theorem test_wf_flit : (Instr.idle 0 { type := 0, src := 0, dst := 0, arg := 0, payload := List.replicate 241 0, seq := 0
                                       ack := 0, nak := false, seqValid := false }).wf = false
    ∧ (Instr.idle 0 { type := 0, src := 0, dst := 0, arg := 0, payload := [], len := 241, seq := 0
                      ack := 0, nak := false, seqValid := false }).wf = false := by decide +kernel
theorem test_wf_timedOut : (Instr.completionTimeout (.segment 32)).wf = false ∧ (Instr.completionTimeout (.ringFetch 16384)).wf = false := by decide +kernel

/-! ## The whole machine -/

theorem test_up_canonical : up.wf = true := by decide +kernel

theorem test_step_runs_front : step { up with pending := [.modeChange, .hotReset] } = exec .modeChange { up with pending := [.hotReset] } := rfl
/-- An empty queue, before and after the first lock, and without PWROK. -/
theorem test_step_idles_hyps : up.pending = [] ∧ up.pi.pwrok = true ∧ State.reset.pi.everLocked = false
    ∧ ({ up with pi := { up.pi with pwrok := false } } : State).pi.pwrok = false := by decide +kernel
theorem test_clock_before_lock : (match step State.reset with | .next t => t.pi.time == 20 | _ => false) = true := by decide +kernel
theorem test_next_state_exists : ∃ t, step up = .next t := ⟨_, rfl⟩
theorem test_memoryWf_hyp : up.memoryWf = true ∧ up.tablesWf = true ∧ up.opsWf = true := by decide +kernel
theorem test_exec_next_exists : ∃ t, exec .modeChange up = .next t := ⟨_, rfl⟩

/-- Plot 1's mailbox with a held request, after HELLO. -/
def mailed (m : Mailbox) : State := { up with hg := { up.hg with plots := [(0, plot0), (1, { plot1 with mail := m })] } }
/-- A request of a plot whose last answer was VERSION, and one of another format version: R250 leaves the answer open. -/
def versionSent : State := mailed { held := body 16 [(0, 2, 2), (2, 2, 0x0100)], pending := true, helloDone := true, versionSent := true, lastSeq := 1 }
def otherVersion : State := mailed { held := body 16 [(0, 2, 0x41), (2, 2, 0x0200)], pending := true, helloDone := true, lastSeq := 1 }
theorem test_NoStepStops_hyps : versionSent.wf = true ∧ (getPlot versionSent 1).mail.helloDone = true ∧ (getPlot versionSent 1).mail.versionSent = true
    ∧ otherVersion.wf = true ∧ (getPlot otherVersion 1).mail.helloDone = true
    ∧ msgVer (getPlot otherVersion 1).mail.held ≠ otherVersion.ch.mbVer.toNat := by decide +kernel
theorem test_undefined_request : ∃ t, step { versionSent with pending := [.queryCaps 1] } = .next t := ⟨_, rfl⟩

/-! ## Furrows -/

theorem test_DoorbellReplacesTail_hyps : let s := userTile []
    s.wf = true ∧ globalFur s 1 0 = some 16 ∧ pageOpen s 1 = true ∧ s.hp.up = true ∧ s.pi.trip = false
      ∧ awake s [dFront] = true ∧ (getFur s 16).kind ≠ 2 ∧ (getFur s 16).arm = true
      ∧ (15 : Nat) < 2 ^ (getFur s 16).sizeLog2.toNat ∧ 2 ^ (getFur s 16).sizeLog2.toNat ≤ (16 : Nat) := by decide +kernel
/-- A sleeping FRONT, and a furrow that is not ACTIVE. -/
theorem test_DoorbellReplacesTail_hyps2 : let s := tile [(16, { furOf 1 0 0 [] with arm := false, state := .unarmed })]
    let u : State := { s with pi := { s.pi with dom := [(0, .ember)] } }
    s.wf = true ∧ globalFur s 1 0 = some 16 ∧ pageOpen s 1 = true ∧ (getFur s 16).arm = false ∧ (getFur s 16).state ≠ .active
      ∧ u.wf = true ∧ awake u [dFront] = false ∧ pageOpen u 1 = true ∧ globalFur u 1 0 = some 16 := by decide +kernel
theorem test_doorbell : ends (.doorbell 1 0 15) (userTile []) (fun t => (getFur t 16).tail == 15 && !(getFur t 16).badTail) = true := by decide +kernel
theorem test_doorbell_beyond_ring : ends (.doorbell 1 0 16) (userTile []) (fun t => (getFur t 16).tail == 0 && (getFur t 16).badTail) = true := by decide +kernel

theorem test_ArmAndDisarm_hyps : let s := tile [(16, { furOf 1 0 0 [] with arm := false, state := .unarmed, head := 3, last := 9 })]
    s.wf = true ∧ (getFur s 16).arm = false ∧ (0x84 : BitVec 32).getLsbD 7 = true ∧ s.pi.pwrok = true
      ∧ awake s (blockOf (.furCfg 16)) = true ∧ s.hp.up = true ∧ hostNone (.furCfg 16) = false := by decide +kernel
theorem test_ArmAndDisarm_hyps2 : let s := userTile [mkOp 1 0 []]
    s.wf = true ∧ (getFur s 16).arm = true ∧ (0x04 : BitVec 32).getLsbD 7 = false ∧ bv 5 4 = (getFur s 16).sizeLog2
      ∧ bv 2 (4 / 32) = (getFur s 16).kind ∧ awake s (blockOf (.furCfg 16)) = true ∧ hostNone (.furCfg 16) = false := by decide +kernel
theorem test_arm : ends (.furrowArm .pf 16 0x84) (tile [(16, { furOf 1 0 0 [] with arm := false, state := .unarmed, head := 3, last := 9 })])
    (fun t => (getFur t 16).arm && (getFur t 16).tail == 3 && (getFur t 16).doneTicket == 9) = true := by decide +kernel
theorem test_arm_refused : ends (.furrowArm .pf 16 0x83) (tile [(16, { furOf 1 0 0 [] with arm := false, state := .unarmed })])
    (fun t => !(getFur t 16).arm && (getFur t 16).armRefused) = true := by decide +kernel
theorem test_disarm : ends (.furrowDisarm .pf 16 0x04) (userTile [mkOp 1 0 []])
    (fun t => !(getFur t 16).arm && (getFur t 16).queue.isEmpty && (getFur t 16).state == .unarmed) = true := by decide +kernel

/-- A USER furrow with one entry to fetch, and an INNER one with a parked furrow and a ring at window offset 4 KiB. -/
def fetchTile : State := tile [(16, { furOf 1 0 0 [] with tail := 1 })]
def innerTile : State :=
  let s := tile [(16, { furOf 1 0 0 [] with state := .parked, parkedOn := some 17 }), (17, { furOf 1 1 2 [] with base := 1, tail := 1 })]
  { s with ba := { s.ba with basin := memWrite memDefault [] (4 * 2 ^ 20 + 4096) (entry 0 5 []) } }
theorem test_FetchChecksDescriptor_hyps : fetchTile.wf = true ∧ canFetch fetchTile 16 = true ∧ (getFur fetchTile 16).kind ≠ 2
    ∧ hostAnswer fetchTile 1 (.data (entry 0 5 [])) = .data (entry 0 5 [])
    ∧ fetchCheck (getFur fetchTile 16) (padTo 256 (entry 0 5 [])) = .accept
    ∧ fetchCheck (getFur fetchTile 16) (padTo 256 (entry 0 0 [])) = .drop
    ∧ fetchCheck (getFur fetchTile 16) (padTo 256 (entry 0x10 5 [])) = .halt hPriv
    ∧ scuttleUsed fetchTile 1 = true := by decide +kernel
/-- The second entry of an INVOKE lies at the tail. -/
def halfInvoke : List Byte := entry 0x0B 5 [(1, 1, 1)]
theorem test_FetchChecksDescriptor_wait_hyp : fetchCheck (getFur fetchTile 16) (fetchDesc (getFur fetchTile 16) halfInvoke [] fetchTile).bytes = .wait
    ∧ (match hostAnswer fetchTile 1 (.data halfInvoke) with | .data b g => b == halfInvoke && g.isEmpty | _ => false) = true := by decide +kernel
theorem test_fetch_waits_for_second_entry : ends (.descriptorFetch 16 (.data halfInvoke)) fetchTile
    (fun t => (getFur t 16).queue.isEmpty && (getFur t 16).head == 0 && (getFur t 16).state == .active) = true := by decide +kernel
theorem test_FetchChecksDescriptor_hyps2 : innerTile.wf = true ∧ canFetch innerTile 17 = true ∧ (getFur innerTile 17).kind = 2
    ∧ readBad false innerTile (innerEntry innerTile 17).1 (innerEntry innerTile 17).2 = false
    ∧ fetchCheck (getFur innerTile 17) (readMem false innerTile (innerEntry innerTile 17).1 (innerEntry innerTile 17).2) = .accept := by decide +kernel
theorem test_fetch : ends (.descriptorFetch 16 (.data (entry 0 5 []))) fetchTile
    (fun t => (getFur t 16).head == 1 && (getFur t 16).last == 5 && (getFur t 16).queue.length == 1) = true := by decide +kernel
theorem test_fetch_kernel_only_halts : ends (.descriptorFetch 16 (.data (entry 0x13 5 []))) fetchTile
    (fun t => (getFur t 16).head == 0 && (getFur t 16).state == .halted && (getFur t 16).haltReason == 0x80) = true := by decide +kernel

/-- How an operation whose turn has come, in a state that its dispatch leaves as it is, comes to act. -/
theorem acts_now {s : State} {f code : Nat} {needs : List Nat} {check : State → Op → Nat} {ready : State → Op → Bool} {o : Op}
    (h : goesOn s f code ready = none) (b : beginDispatch f (fun x => x.opcode == code) needs s = .ok (o, s)) (c : windowStep s f o (check s o) = 0)
    (r : ready (modOp f o.id (fun x => { x with phase := .waiting }) s) o = true) : Acts s f code needs check ready o :=
  Or.inr ⟨h, s, b, c, r⟩
theorem waits_now {s : State} {f code : Nat} {needs : List Nat} {check : State → Op → Nat} {ready : State → Op → Bool} {o : Op}
    (h : goesOn s f code ready = none) (b : beginDispatch f (fun x => x.opcode == code) needs s = .ok (o, s)) (c : windowStep s f o (check s o) = 0)
    (r : ready (modOp f o.id (fun x => { x with phase := .waiting }) s) o = false) : Waits s f code needs check ready o :=
  ⟨h, s, b, c, r⟩

def nopOp : Op := mkOp 1 0x00 []
def fenceOp : Op := mkOp 2 0x01 []
def recordOp : Op := mkOp 2 0x02 [(32, 2, 7), (40, 8, 5)]
def waitOp : Op := mkOp 2 0x03 [(32, 2, 7), (40, 8, 5)]
/-- An operation that still runs before the one tested. -/
def runOp : Op := { mkOp 1 0x09 [] with phase := .running }

theorem test_nop_acts : Acts (userTile [nopOp]) 16 0x00 [] (fun _ _ => 0) (fun _ _ => true) nopOp :=
  acts_now (by decide +kernel) rfl (by decide +kernel) (by decide +kernel)
theorem test_fence_acts : Acts (userTile [fenceOp]) 16 0x01 [] (fun _ _ => 0) (allEarlierDone 16) fenceOp :=
  acts_now (by decide +kernel) rfl (by decide +kernel) (by decide +kernel)
theorem test_fence_waits : Waits (userTile [runOp, fenceOp]) 16 0x01 [] (fun _ _ => 0) (allEarlierDone 16) fenceOp :=
  waits_now (by decide +kernel) rfl (by decide +kernel) (by decide +kernel)
def eventAt (v : BitVec 64) (s : State) : State := { s with hg := { s.hg with events := [(1024 + 7, v)] } }
theorem test_wait_acts : Acts (eventAt 5 (userTile [waitOp])) 16 0x03 [] (fun u o => if eventOk u 16 (evtOf o.bytes) then 0 else rEvent)
    (fun u o => decide (valueOf o.bytes ≤ (getEvent u (furPlot u 16) (evtOf o.bytes)).toNat)) waitOp :=
  acts_now (by decide +kernel) rfl (by decide +kernel) (by decide +kernel)
theorem test_wait_waits : Waits (eventAt 4 (userTile [waitOp])) 16 0x03 [] (fun u o => if eventOk u 16 (evtOf o.bytes) then 0 else rEvent)
    (fun u o => decide (valueOf o.bytes ≤ (getEvent u (furPlot u 16) (evtOf o.bytes)).toNat)) waitOp :=
  waits_now (by decide +kernel) rfl (by decide +kernel) (by decide +kernel)
theorem test_record_acts : Acts (userTile [recordOp]) 16 0x02 [] (fun u o => if eventOk u 16 (evtOf o.bytes) then 0 else rEvent)
    (allEarlierDone 16) recordOp :=
  acts_now (by decide +kernel) rfl (by decide +kernel) (by decide +kernel)
theorem test_order_states_canonical : (userTile [nopOp]).wf = true ∧ (userTile [runOp, fenceOp]).wf = true
    ∧ (eventAt 5 (userTile [waitOp])).wf = true ∧ (userTile [recordOp]).wf = true := by decide +kernel
theorem test_nop : ends (.nop 16) (userTile [nopOp]) (fun t => (getFur t 16).queue.isEmpty && (getFur t 16).doneTicket == 2) = true := by decide +kernel
theorem test_fence : ends (.fence 16) (userTile [runOp, fenceOp]) (fun t => (findOp t 16 2).any (·.phase == .waiting)) = true := by decide +kernel
theorem test_record : ends (.record 16) (userTile [recordOp]) (fun t => getEvent t 1 7 == 5 && (getFur t 16).queue.isEmpty) = true := by decide +kernel
theorem test_record_never_lowers : ends (.record 16) (eventAt 6 (userTile [recordOp])) (fun t => getEvent t 1 7 == 6) = true := by decide +kernel
theorem test_wait : ends (.wait 16) (eventAt 5 (userTile [waitOp])) (fun t => (getFur t 16).queue.isEmpty) = true := by decide +kernel

def leaseOp : Op := mkOp 2 0x04 [(32, 1, 8)]
def releaseOp : Op := mkOp 2 0x05 [(32, 1, 8)]
/-- Slot 8 leased to furrow 16, with one entry. -/
def leased (s : State) : State :=
  { s with ap := { s.ap with slots := [(8, { lease := some 16, word := .a96, entries := [(0, 77)], sat := true })] } }
theorem test_lease_acts : Acts (userTile [leaseOp]) 16 0x04 (hearthNeeds (userTile [leaseOp])
      (match turnOp (userTile [leaseOp]) 16 with | some o => leaseSlot o.bytes | none => 0)) (leaseCheck 16) (fun _ _ => true) leaseOp :=
  acts_now (by decide +kernel) rfl (by decide +kernel) (by decide +kernel)
theorem test_release_acts : Acts (leased (userTile [releaseOp])) 16 0x05 [] (releaseCheck 16) (releaseReady 16) releaseOp :=
  acts_now (by decide +kernel) rfl (by decide +kernel) (by decide +kernel)
theorem test_lease_states_canonical : (userTile [leaseOp]).wf = true ∧ (leased (userTile [releaseOp])).wf = true := by decide +kernel
theorem test_lease_zeroes : ends (.lease 16) (userTile [leaseOp]) (fun t => (getSlot t 8).lease == some 16 && (getSlot t 8).entries.isEmpty) = true := by decide +kernel
theorem test_lease_again_keeps : ends (.lease 16) (leased (userTile [leaseOp])) (fun t => (getSlot t 8).entries == [(0, 77)]) = true := by decide +kernel
theorem test_release : ends (.release 16) (leased (userTile [releaseOp])) (fun t => (getSlot t 8).lease == none && (getFur t 16).queue.isEmpty) = true := by decide +kernel

def spawnOp : Op := mkOp 2 0x0C [(32, 2, 1), (34, 2, 2), (36, 4, 0x2000)]
/-- The inner ring has its tail at its last entry, so two entries wrap. -/
def spawnTile : State :=
  let s := tile [(16, furOf 1 0 0 [spawnOp]), (17, { furOf 1 1 2 [] with base := 1, head := 15, tail := 15 })]
  { s with ba := { s.ba with basin := memWrite memDefault [] (4 * 2 ^ 20 + 0x2000) (entry 0 5 [] ++ entry 1 6 []) } }
theorem test_spawn_acts : Acts spawnTile 16 0x0C [dBasin] (spawnCheck 16) (fun _ _ => true) spawnOp :=
  acts_now (by decide +kernel) rfl (by decide +kernel) (by decide +kernel)
theorem test_SpawnCopies_hyps : spawnTile.wf = true ∧ globalFur spawnTile (furPlot spawnTile 16) (targetOf spawnOp.bytes) = some 17
    ∧ spawnTile.ba.bankFail = 0 ∧ readBad false spawnTile (basinAddr spawnTile 1 (spawnBase spawnOp.bytes)) (128 * 2) = false
    ∧ (getFur spawnTile 17).tail.toNat < 16 ∧ (getFur spawnTile 17).head.toNat < 16 ∧ 2 ≤ (getFur spawnTile 17).room := by decide +kernel
set_option maxRecDepth 4000 in
theorem test_spawn_wraps : ends (.spawn 16) spawnTile (fun t => (getFur t 17).tail == 1
    && readMem false t (4 * 2 ^ 20 + 4096) 3 == [1, 0, 1] && readMem false t (4 * 2 ^ 20 + 4096 + 15 * 128) 3 == [0, 0, 1]) = true := by decide +kernel
def parkOp : Op := mkOp 2 0x0D [(32, 2, 1), (34, 2, 7), (40, 8, 5)]
def parkTile (v : BitVec 64) : State := eventAt v (tile [(16, furOf 1 0 0 [parkOp]), (17, { furOf 1 1 2 [] with base := 1 })])
theorem test_park_acts (v : BitVec 64) : Acts (parkTile v) 16 0x0D [] (parkCheck 16) (fun _ _ => true) parkOp :=
  acts_now (by rfl) rfl (by rfl) (by rfl)
theorem test_park_hyps : (parkTile 4).wf = true ∧ (parkTile 5).wf = true
    ∧ (getEvent (parkTile 4) (furPlot (parkTile 4) 16) (parkEvent parkOp.bytes)).toNat < valueOf parkOp.bytes
    ∧ valueOf parkOp.bytes ≤ (getEvent (parkTile 5) (furPlot (parkTile 5) 16) (parkEvent parkOp.bytes)).toNat := by decide +kernel
theorem test_park : ends (.park 16) (parkTile 4) (fun t => (getFur t 16).state == .parked && (getFur t 16).parkedOn == some 17) = true := by decide +kernel
theorem test_park_event_reached : ends (.park 16) (parkTile 5) (fun t => (getFur t 16).state == .active && (getFur t 16).queue.isEmpty) = true := by decide +kernel

def endedOp : Op := { mkOp 1 0x0A [] with phase := .ended, reason := 0x20 }
theorem test_CompletionRetires_hyps : let s := userTile [endedOp]
    s.wf = true ∧ (getFur s 16).queue.find? (fun x => x.phase == .ended && x.ticket == endedOp.ticket) = some endedOp
      ∧ awake s [dFront] = true ∧ (getFur s 16).queue = [endedOp] ∧ (getFur s 16).fail = false ∧ endedOp.reason ≠ 0 := by decide +kernel
theorem test_complete_fails : ends (.operationComplete 16 2) (userTile [endedOp])
    (fun t => (getFur t 16).fail && (getFur t 16).failReason == 0x20 && (getFur t 16).doneTicket == 2) = true := by decide +kernel
/-- A second failure holds until FAIL is cleared (R170). -/
def heldTile : State := tile [(16, { furOf 1 0 0 [{ mkOp 1 0 [] with phase := .done, reason := 3 }] with fail := true, failReason := 1 })]
theorem test_FailClear_hyps : heldTile.wf = true ∧ globalFur heldTile 1 0 = some 16 ∧ heldTile.hp.up = true
    ∧ (1 : Nat) ≤ heldTile.hp.numVfs ∧ (getPlot heldTile 1).state = .live := by decide +kernel
theorem test_fail_clear : ends (.failClear 1 0) heldTile (fun t => (getFur t 16).fail && (getFur t 16).failReason == 3 && (getFur t 16).queue.isEmpty) = true := by decide +kernel

theorem test_StallGaugeCounts_hyps : let s := tile [(16, { furOf 1 0 0 [] with tail := 1, slicesIdle := 15 })]
    s.wf = true ∧ s.hg.gaugeEn = true ∧ (getFur s 16).alloc = true ∧ furLive s 16 = true ∧ compRuns s 1 = true := by decide +kernel
/-- Furrow 16 alone is due in plot 1, whose notice ring has room; plot 0 has none; 17 stands unallocated. -/
theorem test_StallScan_hyps : let s := tile [(16, { furOf 1 0 0 [] with tail := 1, slicesIdle := 16 }), (17, { furOf 1 1 0 [] with alloc := false, slicesIdle := 20 })]
    s.wf = true ∧ (getFur s 16).reported = false ∧ stallN s ≤ (getFur s 16).slicesIdle.toNat ∧ (getFur s 17).alloc = false
      ∧ (getPlot s 1).mail.ntcTail - (getPlot s 1).mail.ntcHead ≠ 32 := by decide +kernel
theorem test_gauge_off : ends (.gaugeSpan 16) (let s := tile [(16, { furOf 1 0 0 [] with tail := 1, slicesIdle := 15 })]; { s with hg := { s.hg with gaugeEn := false } })
    (fun t => (getFur t 16).slicesIdle == 15) = true := by decide +kernel
theorem test_gauge_sets_stalled : ends (.gaugeSpan 16) (tile [(16, { furOf 1 0 0 [] with tail := 1, slicesIdle := 15 })])
    (fun t => (getFur t 16).slicesIdle == 16 && (getFur t 16).stalled) = true := by decide +kernel
theorem test_stall_scan_reports_once : ends .stallScan (tile [(16, { furOf 1 0 0 [] with tail := 1, slicesIdle := 16 })])
    (fun t => (getFur t 16).reported && (getPlot t 1).mail.ntcTail == 1 && (match exec .stallScan t with | .next u => (getPlot u 1).mail.ntcTail == 1 | _ => false)) = true := by decide +kernel

/-! ## Hearth and Ashpan -/

/-- M = 1, N = 2, K = 2, L8 by L8 into L8, on slot 8: activations at 0, weights at 0x1000, scales at 0x2000, output at
0x3000. -/
def gemmFields : List (Nat × Nat × Nat) :=
  [(34, 2, 1), (36, 4, 1), (41, 1, 8), (44, 1, 0xFF), (52, 4, 0x1000), (56, 4, 0x2000), (60, 4, 0x3000), (64, 4, 64), (68, 4, 64), (72, 4, 64)]
def gemmOp : Op := mkOp 2 0x08 gemmFields
/-- Activations 1, 1; weights 1, 1 and 2, 1; scales 1. -/
def gemmMem : Memory :=
  let b := 4 * 2 ^ 20
  memWrite memDefault (memWrite memDefault (memWrite memDefault (memWrite memDefault [] b [0x44, 0x44])
    (b + 0x1000) [0x44, 0x44]) (b + 0x1040) [0x4C, 0x44]) (b + 0x2000) [0x08, 0x40, 0x08, 0x40]
/-- Slot 8 is leased to furrow 16 and holds an old entry. -/
def gemmTile (q : List Op) : State := let s := leased (userTile q); { s with ba := { s.ba with basin := gemmMem } }
set_option maxRecDepth 8000 in
theorem test_GemmStarts_hyps : (gemmTile [gemmOp]).wf = true
    ∧ (match beginEngine (nextDomain (gemmTile [gemmOp]) 16) 16 (fun x => x.opcode == 0x08)
          (gemmNeedsNext (gemmTile [gemmOp]) 16) (gemmTile [gemmOp]) with
       | .ok (o, u) => o == gemmOp && windowStep u 16 o (gemmCheck u 16 o) == 0 | .error _ => false) = true
    ∧ (gemmTile [gemmOp]).hg.ctxValid.getLsbD 8 = false := by decide +kernel
/-- Another furrow's slot: the first check that fails is the lease. -/
def strayGemm : Op := mkOp 2 0x08 (gemmFields ++ [(41, 1, 9)])
set_option maxRecDepth 8000 in
theorem test_GemmStarts_hyps2 : (gemmTile [strayGemm]).wf = true
    ∧ (match beginEngine (nextDomain (gemmTile [strayGemm]) 16) 16 (fun x => x.opcode == 0x08)
          (gemmNeedsNext (gemmTile [strayGemm]) 16) (gemmTile [strayGemm]) with
       | .ok (o, u) => o == strayGemm && windowStep u 16 o (gemmCheck u 16 o) == 0x06 | .error _ => false) = true := by decide +kernel
theorem test_gemm_starts : ends (.gemm 16) (gemmTile [gemmOp]) (fun t => (findOp t 16 2).any (·.phase == .running)
    && (getSlot t 8).entries.isEmpty && !(getSlot t 8).sat && (getDom t 0).holder == some 16) = true := by decide +kernel
theorem test_gemm_rejected : ends (.gemm 16) (gemmTile [strayGemm]) (fun t => (getFur t 16).failReason == 0x06) = true := by decide +kernel

/-- A running operation of furrow 16, which holds domain `d`. -/
def holds (d : Nat) (s : State) : State := { s with hg := { s.hg with domains := [(d, { holder := some 16 })] } }
def gemmRuns : Op := { gemmOp with phase := .running }
def passTile : State := let s := holds 0 (gemmTile [gemmRuns]); { s with ap := { s.ap with slots := [(8, { lease := some 16, word := .a96 })] } }
set_option maxRecDepth 8000 in
theorem test_PassFoldsRow_hyps : let s := passTile
    let g := gemmDesc gemmRuns.bytes
    let q := geoOf gemmRuns.quad g
    s.wf = true ∧ runningOp s 0 = some (16, gemmRuns) ∧ gemmRuns.opcode = 0x08 ∧ gemmRuns.phase = .running
      ∧ gemmRuns.prog.pass < passCount q ∧ gemmRuns.prog.row < (passAt q g 0).rows
      ∧ rowBlocked q gemmRuns.prog.await 0 (passAt q g 0).t = false
      ∧ tblWf (entryDef (getSlot s 8).word) (getSlot s 8).entries = true := by decide +kernel
theorem test_passTile_good : AllGood passTile := by
  refine ⟨rfl, rfl, rfl, rfl, fun n => ?_, fun n => rfl⟩
  show (tblGet slotDef [(8, _)] n).bad = []
  unfold tblGet
  split <;> rfl
/-- After the pass, 1 x 1 + 1 x 1 = 2 and 1 x 2 + 1 x 1 = 3 stand in the slot in units of 2^-44 (R69). -/
theorem test_pass : ends (.passStart 0 1 .none) passTile (fun t => (getSlot t 8).entries.map (·.1) == [0, 1]
    && (entryAcc (getSlot t 8) 0).src == .dy false (2 ^ 45) (-44) && (entryAcc (getSlot t 8) 1).src == .dy false (3 * 2 ^ 44) (-44)
    && (findOp t 16 2).any (fun o => o.prog.pass == 1 && o.prog.await == [⟨0, 0⟩])) = true := by decide +kernel
theorem test_pass_parity_stops : ends (.passStart 0 1 (.parity 2)) passTile (fun t => (findOp t 16 2).any (fun o => o.phase == .ended && o.reason == 0x20)) = true := by decide +kernel
theorem test_PassFault_hyps : passTile.wf = true ∧ passTile.he.modeCur = false ∧ (2 : Nat) ∈ slotFbs passTile 8
    ∧ gemmRuns.prog.loaded = false ∧ (gemmDesc gemmRuns.bytes).slot = 8 := by decide +kernel
/-- The same pass with its block in the cells: no word of it is read again, so no parity can fail and Basin does not matter. -/
def loadedRuns : Op := { gemmRuns with prog := { loaded := true } }
def loadedTile : State :=
  let s := holds 0 (gemmTile [loadedRuns])
  { s with ap := { s.ap with slots := [(8, { lease := some 16, word := .a96 })] }, ba := { s.ba with basin := memWrite memDefault s.ba.basin (4 * 2 ^ 20 + 0x1000) [0, 0] } }
theorem test_pass_parity_only_at_load : ends (.passStart 0 1 (.parity 2)) loadedTile (· == loadedTile) = true := by decide +kernel

/-- The slot as the pass leaves it, its one row awaiting read-out. -/
def readRuns : Op := { gemmRuns with prog := { pass := 1, await := [⟨0, 0⟩] } }
def readTile : State :=
  let s := holds 0 (gemmTile [readRuns])
  { s with ap := { s.ap with slots := [(8, { lease := some 16, word := .a96, entries := [(0, bv 96 (2 ^ 45)), (1, bv 96 (3 * 2 ^ 44))] })] } }
set_option maxRecDepth 8000 in
theorem test_ReadoutWritesRow_hyps : readTile.wf = true ∧ runningOp readTile 0 = some (16, readRuns) ∧ readRuns.opcode = 0x08
    ∧ readRuns.phase = .running ∧ readRuns.prog.await = [⟨0, 0⟩] ∧ (0 : Nat) < (gemmDesc readRuns.bytes).n
    ∧ (gemmDesc readRuns.bytes).out.reduce = .none
    ∧ readApart (gemmDesc readRuns.bytes).out [readScaleRange (gemmDesc readRuns.bytes).out] = true := by decide +kernel
theorem test_readTile_good : AllGood readTile := by
  refine ⟨rfl, rfl, rfl, rfl, fun n => ?_, fun n => rfl⟩
  show (tblGet slotDef [(8, _)] n).bad = []
  unfold tblGet
  split <;> rfl
set_option exponentiation.threshold 600 in
/-- 3.0 into L8 is 0x51 (02_log_formats, on the bench), 2.0 is 0x4C. -/
theorem test_readout : ends (.slotRowReadout 0) readTile (fun t => readMem false t (4 * 2 ^ 20 + 0x3000) 2 == [0x4C, 0x51]
    && (findOp t 16 2).any (·.phase == .ended)) = true := by decide +kernel

/-! ## Flue -/

/-- FLUE MUL (FN 0x03) of one row of two L8 elements, at 0 and 0x40, into 0x80. -/
def flueFields : List (Nat × Nat × Nat) := [(32, 1, 0x03), (35, 1, 1), (38, 2, 1), (40, 4, 0), (44, 4, 64), (48, 4, 0x40), (52, 4, 64), (64, 4, 0x80), (68, 4, 64)]
def flueOp : Op := mkOp 2 0x09 flueFields
def flueTile (q : List Op) : State :=
  let s := userTile q
  let b := 4 * 2 ^ 20
  { s with ba := { s.ba with basin := memWrite memDefault (memWrite memDefault [] b [0x51, 0x44]) (b + 0x40) [0xCC, 0x4C] } }
def badFlue : Op := mkOp 2 0x09 (flueFields ++ [(32, 1, 0x1F)])
theorem test_FlueStarts_hyps : (flueTile [flueOp]).wf = true ∧ runningOp (flueTile [flueOp]) 5 = none
    ∧ (match beginEngine 5 16 (flueTakes .simple) (flueNeeds (flueTile [flueOp])) (flueTile [flueOp]) with
       | .ok (o, u) => o == flueOp && windowStep u 16 o (flueCheck u (furPlot u 16) [] (flueDesc o.bytes) o.snapshot) == 0 | .error _ => false) = true := by decide +kernel
theorem test_FlueStarts_hyps2 : (flueTile [badFlue]).wf = true ∧ runningOp (flueTile [badFlue]) 5 = none
    ∧ (match beginEngine 5 16 (flueTakes .reserved) (flueNeeds (flueTile [badFlue])) (flueTile [badFlue]) with
       | .ok (o, u) => o == badFlue && windowStep u 16 o (flueCheck u (furPlot u 16) [] (flueDesc o.bytes) o.snapshot) != 0 | .error _ => false) = true := by decide +kernel
theorem test_flue_starts : ends (.flueElementwise 16 1) (flueTile [flueOp]) (fun t => (findOp t 16 2).any (·.phase == .running)) = true := by decide +kernel
theorem test_flue_reserved_code : ends (.flueElementwise 16 1) (flueTile [badFlue]) (fun t => (getFur t 16).fail) = true := by decide +kernel
def flueRuns : Op := { flueOp with phase := .running }
theorem test_FlueWritesRow_hyps : let s := holds 5 (flueTile [flueRuns])
    s.wf = true ∧ runningOp s 5 = some (16, flueRuns) ∧ flueRuns.phase = .running ∧ flueTakes .simple flueRuns = true := by decide +kernel
theorem test_flueTile_good : AllGood (holds 5 (flueTile [flueRuns])) := ⟨rfl, rfl, rfl, rfl, fun _ => rfl, fun _ => rfl⟩
/-- A log-domain product adds codes and takes the exclusive or of the signs (R41): 81 + 76 - 68 = 89, negative. -/
theorem test_flue_row : ends (.flueElementwise 16 1) (holds 5 (flueTile [flueRuns])) (fun t => readMem false t (4 * 2 ^ 20 + 0x80) 2 == [0xD9, 0x4C]
    && (findOp t 16 2).any (·.phase == .ended)) = true := by decide +kernel

/-! ## User tables -/

def loadOp : Op := mkOp 2 0x10 [(32, 1, 3), (36, 4, 0x1000)]
def clearOp : Op := mkOp 2 0x10 [(32, 1, 3), (33, 1, 1)]
/-- A table image of zeros with a good header (Table 5-8): the CRC covers all but itself. -/
def imageHead : List Byte := body 60 [(0, 4, 0x46544231), (4, 2, 1)]
def imageTail : List Byte := List.replicate 4032 0
def goodImage : List Byte := imageHead ++ natLe 4 (crc32c (imageHead ++ imageTail)).toNat ++ imageTail
def tableTile (q : List Op) (img : Memory) : State :=
  let s := kernelTile q
  { s with ba := { s.ba with basin := img } }
theorem leNat_natLe (n v : Nat) : leNat (natLe n v) = v % 256 ^ n := by
  induction n generalizing v with
  | zero => simp [natLe, leNat, Nat.mod_one]
  | succ n ih =>
    simp only [natLe, leNat, ih, BitVec.toNat_ofNat]
    have h := Nat.mod_mul (x := v) (a := 256) (b := 256 ^ n)
    rw [show 256 ^ (n + 1) = 256 * 256 ^ n from Nat.pow_succ']
    exact h.symm
theorem leNat_word (x : BitVec 32) : leNat (natLe 4 x.toNat) = x.toNat := by
  exact (leNat_natLe 4 x.toNat).trans (Nat.mod_eq_of_lt (show x.toNat < 256 ^ 4 from x.isLt))
theorem natLe_length (n v : Nat) : (natLe n v).length = n := by
  induction n generalizing v with
  | zero => rfl
  | succ n ih => simp [natLe, ih]
theorem goodImage_length : goodImage.length = 4096 := by
  simp only [goodImage, List.length_append, natLe_length, imageTail, List.length_replicate]
  rfl
theorem goodImage_parts : goodImage.take 60 = imageHead ∧ goodImage.drop 64 = imageTail
    ∧ (goodImage.drop 60).take 4 = natLe 4 (crc32c (imageHead ++ imageTail)).toNat := by
  have h : imageHead.length = 60 := rfl
  have hc := natLe_length 4 (crc32c (imageHead ++ imageTail)).toNat
  refine ⟨?_, ?_, ?_⟩ <;> simp only [goodImage]
  · rw [List.append_assoc, List.take_left' h]
  · rw [List.drop_left' (by rw [List.length_append, h, hc])]
  · rw [List.append_assoc, List.drop_left' h, List.take_left' hc]
theorem goodImage_early (off n : Nat) (h : off + n ≤ 60) : leAt goodImage off n = leAt imageHead off n := by
  have e : imageHead.length = 60 := rfl
  unfold leAt goodImage
  rw [List.append_assoc, List.drop_append_of_le_length (by omega), List.take_append_of_le_length (by rw [List.length_drop]; omega)]
theorem goodImage_tail : (goodImage.drop 64).take 4032 = imageTail := by
  rw [goodImage_parts.2.1]
  exact List.take_of_length_le (Nat.le_of_eq List.length_replicate)
theorem goodImage_mid : (goodImage.drop 24).take 36 = (imageHead.drop 24).take 36 := by
  have e : imageHead.length = 60 := rfl
  unfold goodImage
  rw [List.append_assoc, List.drop_append_of_le_length (by omega), List.take_append_of_le_length (by rw [List.length_drop]; omega)]
theorem goodImage_rest : (goodImage.drop 3648).all (· == 0) = true := by
  rw [← List.drop_drop (i := 3584) (j := 64), goodImage_parts.2.1, imageTail, List.drop_replicate, List.all_eq_true]
  intro x hx
  rw [List.eq_of_mem_replicate hx]
  rfl
theorem goodImage_crc : leAt goodImage 60 4 = (crc32c (goodImage.take 60 ++ (goodImage.drop 64).take 4032)).toNat := by
  rw [goodImage_tail, goodImage_parts.1]
  unfold leAt
  rw [goodImage_parts.2.2]
  exact leNat_word _
theorem test_table_image : tableImageOk goodImage = true := by
  unfold tableImageOk
  rw [goodImage_rest, goodImage_crc, beq_self_eq_true, Bool.and_true, Bool.and_true, goodImage_mid, goodImage_early 0 4 (by omega),
    goodImage_early 4 2 (by omega), goodImage_early 6 2 (by omega), goodImage_early 18 2 (by omega)]
  decide +kernel
/-- The image as it lies in Basin. -/
def loadedMem : Memory := memWrite memDefault [] 0x1000 goodImage
theorem loadedMem_reads : (List.range 4096).map (fun i => tblGet memDefault loadedMem (0x1000 + i)) = goodImage := by
  apply List.ext_getElem
  · rw [List.length_map, List.length_range, goodImage_length]
  · intro i h1 h2
    rw [List.getElem_map, List.getElem_range]
    exact tblGet_memWrite_in memDefault [] 0x1000 goodImage i h2
theorem test_TableLoad_hyps : (tableTile [loadOp] []).wf = true
    ∧ (match beginDispatch 0 (fun x => x.opcode == 0x10) (flueNeeds (tableTile [loadOp] [])) (tableTile [loadOp] []) with
       | .ok (o, u) => o == loadOp && windowStep u 0 o (tableLoadCheck 0 u o) == 0 | .error _ => false) = true
    ∧ (let b := mkOp 2 0x10 [(32, 1, 3), (36, 4, 0x1001)]
       (kernelTile [b]).wf = true ∧ (match beginDispatch 0 (fun x => x.opcode == 0x10) (flueNeeds (kernelTile [b])) (kernelTile [b]) with
       | .ok (o, u) => o == b && windowStep u 0 o (tableLoadCheck 0 u o) == 0x01 | .error _ => false) = true) := by decide +kernel
def waiting (o : Op) : Op := { o with phase := .waiting }
theorem test_TableSwap_hyps : let s := tableTile [waiting loadOp] loadedMem
    s.memoryWf = true ∧ (s.tablesWf && s.opsWf) = true ∧ firstOp (pendingLoads s 3) = some (0, waiting loadOp) ∧ bankBound s 3 (idleBank s 3) = false
      ∧ awake s (flueNeeds s) = true ∧ tlClear loadOp.bytes = false
      ∧ readBad false s (basinAddr s (furPlot s 0) (tlBase loadOp.bytes)) 4096 = false
      ∧ basinAddr s (furPlot s 0) (tlBase loadOp.bytes) = 0x1000
      ∧ tableImageOk (readMem false s 0x1000 4096) = true := by
  refine ⟨?_, by rfl, by rfl, by rfl, by rfl, by rfl, by rfl, by rfl, ?_⟩
  · rw [memoryWf_iff]
    exact ⟨memWrite_wf memDefault [] 0x1000 goodImage rfl, by rfl, by rfl, by rfl, by rfl⟩
  · exact (congrArg tableImageOk loadedMem_reads).trans test_table_image
theorem test_TableSwap_hyps2 : (let s := kernelTile [waiting loadOp]
      s.wf = true ∧ tableImageOk (readMem false s (basinAddr s (furPlot s 0) (tlBase loadOp.bytes)) 4096) = false)
    ∧ (let s := kernelTile [waiting clearOp]
      s.wf = true ∧ firstOp (pendingLoads s 3) = some (0, waiting clearOp) ∧ bankBound s 3 (idleBank s 3) = false
      ∧ awake s (flueNeeds s) = true ∧ tlClear clearOp.bytes = true) := by decide +kernel
theorem test_table_load : ends (.tableLoad 0) (tableTile [loadOp] []) (fun t => (findOp t 0 2).any (·.phase == .waiting)) = true := by decide +kernel
theorem test_table_clear : ends (.tableLoadSwap 3) (kernelTile [waiting clearOp])
    (fun t => (getTable t 3).active && (getTable t 3).cur == none && (getFur t 0).queue.isEmpty) = true := by decide +kernel
theorem test_table_bad_image : ends (.tableLoadSwap 3) (kernelTile [waiting loadOp])
    (fun t => !(getTable t 3).active && (getFur t 0).failReason == 0x0B) = true := by decide +kernel

/-! ## Sluices -/

/-- A MOVE of one FP32 element from the host into an L8 element at window offset 0x40, converted. -/
def moveFields : List (Nat × Nat × Nat) := [(33, 1, 0x14), (34, 1, 0x08), (40, 4, 1), (48, 8, 0x1000), (56, 8, 0x40), (64, 4, 64), (68, 4, 64)]
def moveOp : Op := mkOp 2 0x0A moveFields
def badMove : Op := mkOp 2 0x0A (moveFields ++ [(34, 1, 0x07)])
def beginsMove (s : State) (o : Op) (code : Nat) : Bool :=
  match beginEngine 6 16 (fun x => x.opcode == 0x0A && moveForm x.bytes == 0) (moveNeeds (bytesOfNext s 16)) s with
  | .ok (o', u) => o' == o && windowStep u 16 o (moveCheck u 16 o) == code && freeChannel u == some 0
  | .error _ => false
theorem test_MoveTakesChannel_hyps : (userTile [moveOp]).wf = true ∧ turnOp (userTile [moveOp]) 16 = some moveOp ∧ badForm moveOp = false
    ∧ beginsMove (userTile [moveOp]) moveOp 0 = true := by decide +kernel
theorem test_MoveTakesChannel_hyps2 : (userTile [badMove]).wf = true ∧ turnOp (userTile [badMove]) 16 = some badMove ∧ badForm badMove = false
    ∧ beginsMove (userTile [badMove]) badMove 0x02 = true := by decide +kernel
theorem test_move : ends (.sluiceMove 16) (userTile [moveOp]) (fun t => (getChan t 0).busy && (getChan t 0).op == 2) = true := by decide +kernel
def moveRuns (dst : List (Nat × Nat × Nat)) : Op := { mkOp 2 0x0A (moveFields ++ dst) with phase := .running, basinSize := 4 * 2 ^ 20, hbmSize := 2 ^ 28 }
def channelTile (o : Op) : State :=
  let s := userTile [o]
  { s with sl := { s.sl with channels := [(0, { busy := true, plot := 1, furrow := 16, op := 2 })] } }
theorem test_SegmentMovesBytes_hyps : let o := moveRuns []
    let s := channelTile o
    let d := sluiceDesc o.bytes
    s.wf = true ∧ channelOp s 0 = some (16, o) ∧ awake s (moveNeeds o.bytes) = true ∧ o.prog.segElem = 0
      ∧ (match rowStart s 1 o d 0 with | .ok x => x == 0 | .error _ => false) = true
      ∧ segLen d (spaceAddr s 1 d.src (rowAt d 1 0 0)) (spaceAddr s 1 d.dst (rowAt d 2 0 0)) 0 = 1
      ∧ hostBeyond d (spaceAddr s 1 d.src (rowAt d 1 0 0)) (spaceAddr s 1 d.dst (rowAt d 2 0 0)) 4 1 = false
      ∧ segSource s 1 d (.data [0, 0, 0x40, 0x40]) 0x1000 1 = some [0, 0, 0x40, 0x40] := by decide +kernel
theorem test_channelTile_good (o : Op) : AllGood (channelTile o) := ⟨rfl, rfl, rfl, rfl, fun _ => rfl, fun _ => rfl⟩
/-- The other direction: BASIN to the host, unconverted. -/
def outRuns : Op := moveRuns [(33, 1, 0x01), (34, 1, 0), (48, 8, 0x40), (56, 8, 0x1000)]
theorem test_SegmentMovesBytes_hyps2 : let s := channelTile outRuns
    s.wf = true ∧ channelOp s 0 = some (16, outRuns) ∧ (sluiceDesc outRuns.bytes).dst = 0
      ∧ (match rowStart s 1 outRuns (sluiceDesc outRuns.bytes) 0 with | .ok x => x == 0 | .error _ => false) = true
      ∧ segSource s 1 (sluiceDesc outRuns.bytes) (.data []) (4 * 2 ^ 20 + 0x40) 1 = some [0] := by decide +kernel
/-- The FP32 value 3.0 enters as L8 0x51 (02_log_formats, on the bench). -/
theorem test_segment_converts : ends (.sluiceSegment 0 (.data [0, 0, 0x40, 0x40])) (channelTile (moveRuns []))
    (fun t => readMem false t (4 * 2 ^ 20 + 0x40) 1 == [0x51] && (findOp t 16 2).any (·.phase == .ended)) = true := by decide +kernel
theorem test_segment_to_host : ends (.sluiceSegment 0 (.data [])) (channelTile outRuns) (fun t => t.out == [.hostWrite 1 none 0x1000 [0]]) = true := by decide +kernel

def snapOp : Op := { mkOp 2 0x09 [(16, 8, 0x2000), (24, 2, 8)] with phase := .snapshot, snapTaken := false }
theorem test_HostAnswers_hyps : fetchTile.wf = true ∧ canFetch fetchTile 16 = true ∧ (getFur fetchTile 16).kind ≠ 2
    ∧ hostAnswer fetchTile 1 .error = .error ∧ (userTile [snapOp]).wf = true
    ∧ (getFur (userTile [snapOp]) 16).queue.find? (·.phase == .snapshot) = some snapOp
    ∧ hostAnswer (userTile [snapOp]) 1 .poison = .poison ∧ hostAnswer (userTile [snapOp]) 1 (.data [7]) = .data [7] := by decide +kernel
theorem test_HostAnswers_hyps2 : let o := moveRuns []
    let s := channelTile o
    s.wf = true ∧ channelOp s 0 = some (16, o) ∧ awake s (moveNeeds o.bytes) = true ∧ (sluiceDesc o.bytes).src = 0
      ∧ hostAnswer s 1 .timeout = .timeout
      ∧ (match rowStart s (furPlot s 16) o (sluiceDesc o.bytes) 0 with | .ok _ => true | .error _ => false) = true := by decide +kernel
/-- An inner ring whose word cannot be read, and a snapshot of a plot that is no longer LIVE. -/
def badInner : State := { innerTile with ba := { innerTile.ba with basinBad := [(4 * 2 ^ 20 + 4096) / 8] } }
def quarPlot1 (s : State) : State := modPlot 1 (fun x => { x with state := .quarantined }) s
theorem test_HostAnswers_hyps3 : badInner.wf = true ∧ canFetch badInner 17 = true ∧ (getFur badInner 17).kind = 2
    ∧ readBad false badInner (innerEntry badInner 17).1 (innerEntry badInner 17).2 = true
    ∧ (getPlot (userTile [snapOp]) (furPlot (userTile [snapOp]) 16)).state = .live ∧ scuttleUsed (userTile [snapOp]) 1 = true
    ∧ (getPlot (quarPlot1 (userTile [snapOp])) (furPlot (quarPlot1 (userTile [snapOp])) 16)).state ≠ .live := by decide +kernel
theorem test_inner_unreadable : ends (.descriptorFetch 17 .error) badInner (fun t => (getFur t 17).haltReason == 0x85 && t.sb.status.getLsbD 18) = true := by decide +kernel
theorem test_ring_timeout : ends (.completionTimeout (.ringFetch 16)) fetchTile (fun t => (getFur t 16).haltReason == 0x85) = true := by decide +kernel
theorem test_snapshot : ends (.snapshotTaken 16 (.data [7])) (userTile [snapOp])
    (fun t => (findOp t 16 2).any (fun o => o.snapshot == [7, 0, 0, 0, 0, 0, 0, 0]) && (getFur t 16).launchTicket == 3) = true := by decide +kernel
theorem test_segment_host_fault : ends (.sluiceSegment 0 .poison) (channelTile (moveRuns []))
    (fun t => (findOp t 16 2).any (fun o => o.phase == .ended && o.reason == 0x21)) = true := by decide +kernel

/-! ## Slot transfers -/

/-- A slot read of one element to 0x3000 with scale at 0x2000, a slot write of one L8 element at 0x1000, a save and a
restore at 0. -/
def slotReadOp : Op := mkOp 2 0x0A [(32, 1, 1), (33, 1, 8), (40, 4, 0x3000), (44, 4, 64)]
def slotWriteOp : Op := mkOp 2 0x0A [(32, 1, 2), (33, 1, 8), (40, 4, 0x1000), (44, 4, 64)]
def slotSaveOp : Op := mkOp 2 0x0A [(32, 1, 3), (33, 1, 8)]
def slotRestoreOp : Op := mkOp 2 0x0A [(32, 1, 4), (33, 1, 8)]
/-- The full-width image header of an empty slot in full mode: word kind 0, L 1, 128 rows, 1,024 columns (Table 4-9). -/
def imageTile : State :=
  let s := gemmTile [slotRestoreOp]
  { s with ba := { s.ba with basin := memWrite memDefault [] (4 * 2 ^ 20) (body 64 [(1, 1, 1), (4, 2, 128), (8, 4, 1024)]) } }
def beginsSlot (s : State) (form : Nat) (check : State → Nat → Op → Nat) (code : Nat) : Bool :=
  match beginEngine (nextDomain s 16) 16 (fun x => x.opcode == 0x0A && moveForm x.bytes == form) (slotNeedsNext s 16) s with
  | .ok (o, u) => windowStep u 16 o (check u 16 o) == code
  | .error _ => false
/-- The forms that store into a slot or save it, on slot 9, which furrow 16 does not hold. -/
def strayWrite : Op := mkOp 2 0x0A [(32, 1, 2), (33, 1, 9), (40, 4, 0x1000), (44, 4, 64)]
def straySave : Op := mkOp 2 0x0A [(32, 1, 3), (33, 1, 9)]
def strayRestore : Op := mkOp 2 0x0A [(32, 1, 4), (33, 1, 9)]
theorem test_SlotTransfers_hyps2 : (gemmTile [strayWrite]).wf = true ∧ beginsSlot (gemmTile [strayWrite]) 2 slotWriteCheck 0x06 = true
    ∧ (gemmTile [straySave]).wf = true ∧ beginsSlot (gemmTile [straySave]) 3 saveCheck 0x06 = true
    ∧ (gemmTile [strayRestore]).wf = true ∧ beginsSlot (gemmTile [strayRestore]) 4 restoreCheck 0x06 = true
    ∧ (0x06 : Nat) ≠ rHwError := by decide +kernel
theorem test_SlotTransfers_hyps : (gemmTile [slotReadOp]).wf = true ∧ beginsSlot (gemmTile [slotReadOp]) 1 slotReadCheck 0 = true
    ∧ isCollective (gemmTile [slotReadOp]) 16 = false ∧ (gemmTile [slotReadOp]).hg.ctxValid = 0
    ∧ (gemmTile [slotWriteOp]).wf = true ∧ beginsSlot (gemmTile [slotWriteOp]) 2 slotWriteCheck 0 = true
    ∧ (gemmTile [slotSaveOp]).wf = true ∧ beginsSlot (gemmTile [slotSaveOp]) 3 saveCheck 0 = true
    ∧ imageTile.wf = true ∧ beginsSlot imageTile 4 restoreCheck 0 = true
    ∧ (imageShape (readMem false imageTile (basinAddr imageTile 1 0) 64)).isSome = true := by decide +kernel
theorem test_gemmTile_good (q : List Op) : AllGood (gemmTile q) := by
  refine ⟨rfl, rfl, rfl, rfl, fun n => ?_, fun n => rfl⟩
  show (tblGet slotDef [(8, _)] n).bad = []
  unfold tblGet
  split <;> rfl
/-- The element 1.0 is 2^44 units in an A96 entry. -/
theorem test_slot_write : ends (.slotWrite 16) (gemmTile [slotWriteOp]) (fun t => (getSlot t 8).word == .a96
    && (getSlot t 8).entries == [(0, bv 96 (2 ^ 44))] && !(getSlot t 8).sat) = true := by decide +kernel
theorem test_slot_read : ends (.slotRead 16) (leased (gemmTile [slotReadOp])) (fun t => (getSlot t 8).entries == [(0, 77)]
    && (findOp t 16 2).any (·.phase == .ended)) = true := by decide +kernel
/-- +6.168843 and its negative, as the bench of 04_ashpan spells the words. -/
theorem test_a96_words : encodeA96 (.fin ⟨12937002 * 2 ^ 23, -44⟩) = 0x62B395000000
    ∧ encodeA96 (.fin ⟨-(12937002 * 2 ^ 23), -44⟩) = 0x1FFFFFFFFFFF9D4C6B000000 := by decide +kernel

/-! ## Firing lists and invocations -/

/-- An image of one layer, FLUE COPY of one L8 element within the working buffer, whose only I/O entry is an input. -/
def imageFields : List (Nat × Nat × Nat) :=
  [(0, 4, 0x4C495346), (4, 2, 1), (6, 2, 1), (8, 4, 256), (12, 2, 1), (16, 4, 0x100), (32, 4, 128),
   (68, 4, 1), (76, 4, 64), (128, 1, 0x09), (172, 4, 64), (192, 4, 0x40), (196, 4, 64)]
def listImage : List Byte := body 256 (imageFields ++ [(60, 4, 0x20db7ecd)])
def mkList : FiringList :=
  { plot := 1, head := listImage.take 96, base := 0, workBase := 0x10000, waitUs := 10, mode := 1, resident := none
    opened := none, closed := [], lastUse := 0, doomed := false }
/-- An INVOKE of list 1: one row, one binding, from HBM offset 0x1000, unconverted. -/
def invokeBytes (id : Nat) : List Byte :=
  body 256 [(0, 1, 0x0B), (1, 1, 1), (2, 1, 1), (8, 6, 3), (32, 4, id), (38, 1, 1), (40, 4, 0xFFFFFFFF), (129, 1, 2), (132, 4, 64), (136, 8, 0x1000)]
def invokeOp (id : Nat) : Op := { id := 2, opcode := 0x0B, ticket := 3, bytes := invokeBytes id, snapTaken := true }
/-- The image lies at the start of plot 1's HBM window. -/
def listTile (ls : Tbl (Option FiringList)) (q : List Op) : State :=
  let s := userTile q
  { s with ba := { s.ba with hbm := memWrite memDefault [] (2 ^ 28) listImage }, ch := { s.ch with lists := ls, nextList := 2 } }

/-- The CRC of the image, 64 bytes at a time. -/
def crcFrom (c : BitVec 32) (i : Nat) : BitVec 32 := crcRun (((body 256 imageFields).drop (64 * i)).take 64) c
theorem crc_part0 : crcFrom 0xFFFFFFFF#32 0 = 0x76143336#32 := by decide +kernel
theorem crc_part1 : crcFrom 0x76143336#32 1 = 0x45bc5435#32 := by decide +kernel
theorem crc_part2 : crcFrom 0x45bc5435#32 2 = 0xdac25ac3#32 := by decide +kernel
theorem crc_part3 : crcFrom 0xdac25ac3#32 3 = 0xdf248132#32 := by decide +kernel
theorem image_crc : listCrcOk listImage = true := by
  have h : putBytes listImage 60 [0, 0, 0, 0] = ((body 256 imageFields).drop (64 * 0)).take 64 ++ (((body 256 imageFields).drop (64 * 1)).take 64
      ++ (((body 256 imageFields).drop (64 * 2)).take 64 ++ ((body 256 imageFields).drop (64 * 3)).take 64)) := by decide +kernel
  unfold listCrcOk crc32c
  rw [h, crcRun_append, crcRun_append, crcRun_append]
  have h0 := crc_part0
  have h1 := crc_part1
  have h2 := crc_part2
  have h3 := crc_part3
  unfold crcFrom at h0 h1 h2 h3
  rw [h0, h1, h2, h3]
  decide +kernel
theorem image_ok (s : State) (h : ((List.range (hdrLayers listImage)).all fun i =>
    layerFixedOk listImage (layerAt listImage listImage i) && layerFieldsOk s ⟨0x10000, 0x10000 + hdrStageOff listImage, none, 0⟩ (layerAt listImage listImage i)) = true) :
    imageListOk s 0x10000 listImage = true := by
  unfold imageListOk
  simp only [image_crc, h, Bool.and_true]
  decide +kernel
theorem test_image_ok : imageListOk (listTile [] []) 0x10000 listImage = true ∧ headOk listImage = true :=
  ⟨image_ok _ (by decide +kernel), by decide +kernel⟩
theorem test_Invoke_hyps : let s := listTile [(1, some mkList)] [invokeOp 1]
    s.wf = true ∧ headInvoke s 16 = none
      ∧ (match beginDispatch 16 (fun x => x.opcode == 0x0B) [dFront] s with | .ok (o, _) => o == invokeOp 1 | .error _ => false) = true := by decide +kernel
def awaits (id : Nat) : Op := { waiting (invokeOp id) with basinSize := 4 * 2 ^ 20, hbmSize := 2 ^ 28 }
theorem test_Admit_hyps (id : Nat) (h : id = 1 ∨ id = 9) : (listTile [(1, some mkList)] [awaits id]).wf = true
    ∧ Admissible (listTile [(1, some mkList)] [awaits id]) 16 (awaits id) := by
  unfold Admissible
  rcases h with rfl | rfl <;> decide +kernel
/-- Under the windows that the INVOKE found at its dispatch. -/
def asDispatched (s : State) : State := underWindow 1 (4 * 2 ^ 20) (2 ^ 28) s
def codeOf (s : State) (o : Op) : Nat := windowStep s 16 o (invokeCode (asDispatched s) 16 (some mkList) o)
theorem test_Admit_hyps2 : namedList (listTile [(1, some mkList)] [awaits 9]) 1 9 = none
    ∧ (let s := listTile [(1, some mkList)] [awaits 1]
       namedList s (furPlot s 16) (invokeDesc (awaits 1).bytes).listId = some mkList
        ∧ awake s (if (resNow mkList).isSome then [dBasin] else [dBasin, dHbm]) = true
        ∧ codeOf s (awaits 1) = 0
        ∧ layersCode (asDispatched s) (admission s 16 (awaits 1) mkList).1 mkList (admission s 16 (awaits 1) mkList).2 = 0) := by decide +kernel
/-- A binding outside the window, and an image whose layer has been overwritten. -/
def strayInvoke : Op := { awaits 1 with bytes := putBytes (invokeBytes 1) 136 (natLe 8 (2 ^ 28)) }
def spoiltTile : State := let s := listTile [(1, some mkList)] [awaits 1]; { s with ba := { s.ba with hbm := [] } }
theorem test_Admit_hyps3 : (let s := listTile [(1, some mkList)] [strayInvoke]
      s.wf = true ∧ codeOf s strayInvoke ≠ 0)
    ∧ spoiltTile.wf = true ∧ codeOf spoiltTile (awaits 1) = 0
    ∧ layersCode (asDispatched spoiltTile) (admission spoiltTile 16 (awaits 1) mkList).1 mkList (admission spoiltTile 16 (awaits 1) mkList).2 = 0x0E := by decide +kernel
theorem test_stray_admissible : Admissible (listTile [(1, some mkList)] [strayInvoke]) 16 strayInvoke ∧ Admissible spoiltTile 16 (awaits 1) := by
  unfold Admissible
  decide +kernel
theorem test_lists_good (ls : Tbl (Option FiringList)) (q : List Op) : AllGood (listTile ls q) := ⟨rfl, rfl, rfl, rfl, fun _ => rfl, fun _ => rfl⟩
theorem test_invoke_waits : ends (.invoke 16 []) (listTile [(1, some mkList)] [invokeOp 1]) (fun t => (findOp t 16 2).any (·.phase == .waiting)) = true := by decide +kernel
theorem test_invoke_admitted : ends (.invokeAdmit 16) (listTile [(1, some mkList)] [awaits 1])
    (fun t => (findOp t 16 2).any (·.prog.pass == 1) && (getList t 1).any (fun l => l.closed.length == 1)) = true := by decide +kernel

/-- The same INVOKE admitted, at the head of its list. -/
def headTile : State :=
  listTile [(1, some { mkList with closed := [{ members := [(16, 2, 1)], res := none, page := none, pageId := 0xFFFFFFFF }] })]
    [{ awaits 1 with prog := { pass := 1 } }]
theorem test_HeadInvocation_hyps : (match getList headTile 1 with
    | some l => l.plot == 1 && (match l.closed with
        | b :: _ => awake headTile (imageAwake b) && awake headTile (batchNeeds headTile l b) && batchFree headTile l b
        | [] => false) && (headInvoke headTile 16 == some (1, l))
    | none => false) = true
    ∧ headTile.wf = true ∧ (getPlot headTile 1).state = .live ∧ headTile.sb.escHgStop = false ∧ headTile.pi.trip = false := by decide +kernel
/-- Its list with the batch open, HG_STOP taken or not; a list with nothing to run. -/
def openBatch : Batch := { members := [(16, 2, 1)], res := none, page := none, pageId := 0xFFFFFFFF }
def openTile (stop : Bool) : State :=
  let s := listTile [(1, some { mkList with opened := some openBatch })] [{ awaits 1 with prog := { pass := 1 } }]
  { s with sb := { s.sb with escHgStop := stop } }
theorem test_HeadInvocation_hyps2 : (openTile true).wf = true ∧ (openTile true).sb.escHgStop = true ∧ (openTile false).wf = true
    ∧ compRuns (openTile true) 2 = true ∧ (openTile false).sb.escHgStop = false ∧ awake (openTile false) (imageAwake openBatch) = true
    ∧ awake (openTile false) (batchNeeds (openTile false) { mkList with opened := some openBatch } openBatch) = true
    ∧ batchFree (openTile false) { mkList with opened := some openBatch } openBatch = true
    ∧ (listTile [(1, some mkList)] []).wf = true ∧ mkList.closed = [] ∧ mkList.opened = none := by decide +kernel
theorem test_HeadInvocation_member : (findOp headTile 16 2).isSome = true
    ∧ (getList headTile 1).any (fun l => l.closed.map (·.members) == [[(16, 2, 1)]]) = true := by decide +kernel
theorem test_batch_closes : ends (.batchClose 1 1 []) (openTile true) (fun t => (getList t 1).any (fun l => l.opened == none && l.closed == [openBatch]))
    && ends (.batchClose 1 1 []) (openTile false) (fun t => (getList t 1).any (fun l => l.opened == none && l.closed == []) && (getFur t 16).queue.isEmpty) = true := by decide +kernel
theorem test_invocation_runs : ends (.batchClose 1 1 []) headTile (fun t => (getFur t 16).queue.isEmpty && !(getFur t 16).fail
    && (getList t 1).any (·.closed.isEmpty)) = true := by decide +kernel

theorem test_ResidencyCopy_hyps : let s := listTile [(1, some mkList)] []
    s.wf = true ∧ getList s 1 = some mkList ∧ compRuns s 2 = true ∧ awake s copyNeeds = true
      ∧ (getPlot s 1).state = .live ∧ sluiceFree s 1 = true ∧ roomFor s 1 mkList = some 0x300000 := by decide +kernel
/-- Lists of 1 MiB fill the region of 1 MiB. -/
def bigList : FiringList := { mkList with head := putBytes mkList.head 8 (natLe 4 0x100000) }
def fullTile (mode : Nat) : State :=
  listTile [(1, some mkList), (2, some { bigList with mode := mode, resident := some 0x300000 })] []
def noChannels (s : State) : State := modPlot 1 (fun x => { x with sluiceMax := 0 }) s
theorem test_ResidencyCopy_hyps2 : (noChannels (listTile [(1, some mkList)] [])).wf = true ∧ sluiceFree (noChannels (listTile [(1, some mkList)] [])) 1 = false
    ∧ awake (noChannels (listTile [(1, some mkList)] [])) copyNeeds = true ∧ (getPlot (noChannels (listTile [(1, some mkList)] [])) 1).state = .live
    ∧ (fullTile 2).wf = true ∧ roomFor (fullTile 2) 1 mkList = none ∧ oldestAuto (fullTile 2) 1 1 = none ∧ sluiceFree (fullTile 2) 1 = true
    ∧ (fullTile 1).wf = true ∧ roomFor (fullTile 1) 1 mkList = none
    ∧ oldestAuto (fullTile 1) 1 1 = some (2, { bigList with mode := 1, resident := some 0x300000 })
    ∧ roomFor (dropResident 2 { bigList with mode := 1, resident := some 0x300000 } (fullTile 1)) 1 mkList = some 0x300000
    ∧ (getPlot (quarPlot1 (fullTile 1)) 1).state ≠ .live := by decide +kernel
theorem test_residency_makes_room : ends (.residencyCopy 1 1) (fullTile 1) (fun t => (getList t 1).any (·.resident == some 0x300000)
    && (getList t 2).any (·.resident == none)) = true := by decide +kernel
def residentList : FiringList := { mkList with resident := some 0x300000 }
theorem test_ResidencyRelease_hyps : let s := listTile [(1, some residentList)] []
    s.wf = true ∧ getList s 1 = some residentList ∧ residentList.mode ≠ 2 ∧ residentList.inUse = false ∧ compRuns s 2 = true
      ∧ (getPlot s 1).state = .live ∧ ({ residentList with mode := 2 } : FiringList).mode = 2 ∧ ({ residentList with opened := some openBatch } : FiringList).inUse = true
      ∧ (listTile [(1, some { residentList with mode := 2 })] []).wf = true
      ∧ (listTile [(1, some { residentList with opened := some openBatch })] []).wf = true := by decide +kernel
theorem test_residency_copy : ends (.residencyCopy 1 1) (listTile [(1, some mkList)] []) (fun t => (getPlot t 1).resLevel == 1
    && readMem false t (4 * 2 ^ 20 + 0x300000) 4 == [0x46, 0x53, 0x49, 0x4C]) = true := by decide +kernel
theorem test_residency_release : ends (.residencyRelease 1 1) (listTile [(1, some residentList)] [])
    (fun t => (getList t 1).any (·.resident == none)) = true := by decide +kernel

/-! ## Requests -/

/-- A held request with SEQ 1. -/
def request (type : Nat) (b : List Byte) : Mailbox :=
  { held := body 16 [(0, 2, type), (2, 2, 0x0100), (4, 2, b.length), (6, 2, 1)] ++ b, pending := true, helloDone := true, lastSeq := 1 }
def withMail (p : Nat) (m : Mailbox) (s : State) : State :=
  { s with hg := { s.hg with plots := if p = 0 then [(0, { plot0 with mail := m }), (1, plot1)] else [(0, plot0), (1, { plot1 with mail := m })] } }
/-- The status of plot `p`'s answer, once there is one. -/
def answer (t : State) (p : Nat) : Nat := if (getPlot t p).mail.respSeq = 1 then leAt (getPlot t p).mail.respBuf 8 2 else 99

def registerBody (mode : Nat) : List Byte := body 16 [(8, 4, 0x10000), (12, 1, mode), (14, 2, 10)]
def registerTile (mode : Nat) : State := withMail 1 (request 0x0020 (registerBody mode)) (listTile [] [])
theorem test_ListRegisters_hyps (mode : Nat) (h : mode = 1 ∨ mode = 2) : let s := registerTile mode
    let b := registerBody mode
    let hd := readMem true s (hbmAddr s 1 0) 64
    let img := readMem true s (hbmAddr s 1 0) (hdrTotal hd)
    s.wf = true ∧ Served s 1 0x0020 false [2] copyNeeds b ∧ b.length = 16 ∧ leAt b 12 1 = mode ∧ leAt b 14 2 ≤ 1000 ∧ leAt b 0 8 = 0
      ∧ 64 ≤ hbmWin s 1 ∧ headOk hd = true ∧ hdrTotal hd ≤ hbmWin s 1
      ∧ bufferFree s 1 ⟨0x10000, hdrBuf hd⟩ = true ∧ (listsOf s 1).length < 64 ∧ img = listImage ∧ sluiceFree s 1 = true := by
  unfold Served
  rcases h with rfl | rfl <;> decide +kernel
/-- The list that a pinning registration makes: it has room, has none, or finds no channel. -/
def pinned : FiringList := { mkList with mode := 2 }
theorem test_ListRegisters_pin : roomFor (setList (registerTile 2) 2 none) 1 pinned = some 0x300000
    ∧ (let s := modPlot 1 (fun x => { x with resSize := 0 }) (registerTile 2)
       s.wf = true ∧ Served s 1 0x0020 false [2] copyNeeds (registerBody 2) ∧ sluiceFree s 1 = true ∧ roomFor (setList s 2 none) 1 pinned = none)
    ∧ (noChannels (registerTile 2)).wf = true ∧ Served (noChannels (registerTile 2)) 1 0x0020 false [2] copyNeeds (registerBody 2)
    ∧ sluiceFree (noChannels (registerTile 2)) 1 = false := by unfold Served; decide +kernel
/-- Registrations that fail: RESIDE 3; no image; one that passes the window's end; a layer of opcode 0; a buffer in use; 64 lists. -/
def registers (mode : Nat) (ls : Tbl (Option FiringList)) (hbm : List Byte) : State :=
  let s := withMail 1 (request 0x0020 (registerBody mode)) (listTile ls [])
  { s with ba := { s.ba with hbm := memWrite memDefault [] (2 ^ 28) hbm }, ch := { s.ch with nextList := 65 } }
def otherList (k : Nat) : FiringList := { mkList with workBase := 0x20000 + 0x1000 * k }
def manyLists : Tbl (Option FiringList) := (List.range 64).map fun k => (k + 1, some (otherList k))
def longImage : List Byte := putBytes (listImage.take 64) 8 (natLe 4 0x20000000)
def noLayer : List Byte := putBytes listImage 128 [0]
theorem test_ListRegisters_hyps2 : (registers 3 [] listImage).wf = true ∧ Served (registers 3 [] listImage) 1 0x0020 false [2] copyNeeds (registerBody 3)
    ∧ (registers 1 [] []).wf = true ∧ Served (registers 1 [] []) 1 0x0020 false [2] copyNeeds (registerBody 1)
    ∧ headOk (readMem true (registers 1 [] []) (hbmAddr (registers 1 [] []) 1 0) 64) = false
    ∧ (registers 1 [] longImage).wf = true ∧ headOk (readMem true (registers 1 [] longImage) (hbmAddr (registers 1 [] longImage) 1 0) 64) = true
    ∧ hbmWin (registers 1 [] longImage) 1 < hdrTotal longImage
    ∧ (registers 1 [] noLayer).wf = true ∧ headOk noLayer = true
    ∧ (registers 1 [(1, some mkList)] listImage).wf = true ∧ bufferFree (registers 1 [(1, some mkList)] listImage) 1 ⟨0x10000, hdrBuf listImage⟩ = false
    ∧ (registers 1 manyLists listImage).wf = true ∧ bufferFree (registers 1 manyLists listImage) 1 ⟨0x10000, hdrBuf listImage⟩ = true
    ∧ 64 ≤ (listsOf (registers 1 manyLists listImage) 1).length := by unfold Served; decide +kernel
theorem test_ListRegisters_bad_layer : imageListOk (registers 1 [] noLayer) 0x10000 noLayer = false := by
  have h : ((List.range (hdrLayers noLayer)).all fun i => layerFixedOk noLayer (layerAt noLayer noLayer i)
      && layerFieldsOk (registers 1 [] noLayer) ⟨0x10000, 0x10000 + hdrStageOff noLayer, none, 0⟩ (layerAt noLayer noLayer i)) = false := by decide +kernel
  unfold imageListOk
  simp only [h, Bool.and_false]
theorem test_ListRegisters_image2 : imageListOk (registers 1 manyLists listImage) 0x10000 listImage = true
    ∧ imageListOk (registers 1 [(1, some mkList)] listImage) 0x10000 listImage = true :=
  ⟨image_ok _ (by decide +kernel), image_ok _ (by decide +kernel)⟩
theorem test_ListRegisters_image (mode : Nat) (h : mode = 1 ∨ mode = 2) : imageListOk (registerTile mode) 0x10000 listImage = true := by
  rcases h with rfl | rfl <;> exact image_ok _ (by decide +kernel)
theorem test_registerTile_good (mode : Nat) : AllGood (registerTile mode) := ⟨rfl, rfl, rfl, rfl, fun _ => rfl, fun _ => rfl⟩
theorem test_list_register_bad_arg : ends (.listRegister 1) (withMail 1 (request 0x0020 (registerBody 3)) (listTile [] []))
    (fun t => answer t 1 == 3 && t.ch.nextList == 2) = true := by decide +kernel

/-- A list with a state of 64 bytes, a page of it, and requests about both. -/
def stateList : FiringList := { mkList with head := putBytes mkList.head 20 (natLe 4 64) }
def pageTile (type : Nat) (b : List Byte) : State :=
  let s := withMail 1 (request type b) (listTile [(1, some stateList)] [awaits 1])
  { s with ch := { s.ch with pages := [(1, some { plot := 1, base := 0x20000, size := 64, list := 1 })], nextPage := 2 } }
theorem test_ListUnregister_hyps : let s := pageTile 0x0021 (natLe 4 1)
    s.wf = true ∧ Served s 1 0x0021 false [2] [dFront] (natLe 4 1) ∧ (getPlot s 1).mail.begun = false
      ∧ namedList s 1 1 = some stateList ∧ stateList.inUse = false := by unfold Served; decide +kernel
theorem test_ListReside_hyps : let s := pageTile 0x0022 (natLe 4 1 ++ [0])
    s.wf = true ∧ Served s 1 0x0022 false [2] [dFront] (natLe 4 1 ++ [0]) ∧ namedList s 1 1 = some stateList := by unfold Served; decide +kernel
theorem test_StateCreate_hyps : let b := natLe 4 1 ++ natLe 4 0x21000
    let s := pageTile 0x0030 b
    s.wf = true ∧ Served s 1 0x0030 false [2] [dFront] b ∧ namedList s 1 1 = some stateList ∧ hdrState stateList.head ≠ 0
      ∧ bufferFree s 1 ⟨0x21000, hdrState stateList.head⟩ = true ∧ (pagesOf s 1).length < 4096 := by unfold Served; decide +kernel
theorem test_StateDestroy_hyps : let s := pageTile 0x0031 (natLe 4 1)
    s.wf = true ∧ Served s 1 0x0031 false [2] [dFront] (natLe 4 1) ∧ (getPage s 1).any (·.plot == 1) = true ∧ pageInUse s 1 = false := by
  unfold Served; decide +kernel
theorem test_NotFound_hyps : (let s := pageTile 0x0021 (natLe 4 7)
      s.wf = true ∧ Served s 1 0x0021 false [2] [dFront] (natLe 4 7) ∧ (getPlot s 1).mail.begun = false ∧ namedList s 1 7 = none)
    ∧ (let s := pageTile 0x0022 (natLe 4 7 ++ [0]); s.wf = true ∧ Served s 1 0x0022 false [2] [dFront] (natLe 4 7 ++ [0]) ∧ namedList s 1 7 = none)
    ∧ (let s := pageTile 0x0030 (natLe 8 7); s.wf = true ∧ Served s 1 0x0030 false [2] [dFront] (natLe 8 7) ∧ namedList s 1 7 = none)
    ∧ (let s := pageTile 0x0031 (natLe 4 7); s.wf = true ∧ Served s 1 0x0031 false [2] [dFront] (natLe 4 7) ∧ getPage s 7 = none) := by
  unfold Served; decide +kernel
/-- A list and a page in use, a request that took effect before, PIN with room and without, RESIDE 3, and page requests that fail. -/
def usedTile (type : Nat) (b : List Byte) : State :=
  let s := pageTile type b
  { s with ch := { s.ch with lists := [(1, some { stateList with closed := [{ openBatch with page := some 0x20000, pageId := 1 }] })] } }
theorem test_ListRequests_hyps : (let s := usedTile 0x0021 (natLe 4 1)
      s.wf = true ∧ Served s 1 0x0021 false [2] [dFront] (natLe 4 1) ∧ (getPlot s 1).mail.begun = false
        ∧ namedList s 1 1 = some { stateList with closed := [{ openBatch with page := some 0x20000, pageId := 1 }] }
        ∧ ({ stateList with closed := [{ openBatch with page := some 0x20000, pageId := 1 }] } : FiringList).inUse = true)
    ∧ (let s := usedTile 0x0031 (natLe 4 1)
      s.wf = true ∧ Served s 1 0x0031 false [2] [dFront] (natLe 4 1) ∧ pageInUse s 1 = true ∧ (getPage s 1).any (·.plot == 1) = true)
    := by unfold Served; decide +kernel
theorem test_ListRequests_hyps2 : (let s := pageTile 0x0022 (natLe 4 1 ++ [3])
      s.wf = true ∧ Served s 1 0x0022 false [2] [dFront] (natLe 4 1 ++ [3]) ∧ namedList s 1 1 = some stateList)
    ∧ (let s := pageTile 0x0022 (natLe 4 1 ++ [2])
      s.wf = true ∧ Served s 1 0x0022 false [2] [dFront] (natLe 4 1 ++ [2]) ∧ stateList.resident = none ∧ awake s copyNeeds = true
        ∧ sluiceFree s 1 = true ∧ roomFor s 1 stateList = some 0x300000)
    ∧ (let s := modPlot 1 (fun x => { x with resSize := 0 }) (pageTile 0x0022 (natLe 4 1 ++ [2]))
      s.wf = true ∧ Served s 1 0x0022 false [2] [dFront] (natLe 4 1 ++ [2]) ∧ sluiceFree s 1 = true ∧ roomFor s 1 stateList = none) := by
  unfold Served; decide +kernel
theorem test_pageTile_good (type : Nat) (b : List Byte) : AllGood (pageTile type b) := ⟨rfl, rfl, rfl, rfl, fun _ => rfl, fun _ => rfl⟩
/-- Offset 0x20000 is the page's own; 4,096 pages are there. -/
def manyPages : State :=
  let s := pageTile 0x0030 (natLe 4 1 ++ natLe 4 0x21000)
  { s with ch := { s.ch with pages := (List.range 4096).map fun k => (k + 1, some { plot := 1, base := 0x100000 + 64 * k, size := 64, list := 1 }) } }
theorem test_StateCreate_hyps2 : (let s := pageTile 0x0030 (natLe 4 1 ++ natLe 4 0x20000)
      s.wf = true ∧ Served s 1 0x0030 false [2] [dFront] (natLe 4 1 ++ natLe 4 0x20000) ∧ namedList s 1 1 = some stateList
        ∧ bufferFree s 1 ⟨0x20000, hdrState stateList.head⟩ = false) := by unfold Served; decide +kernel
set_option maxRecDepth 20000 in
theorem test_StateCreate_hyps3 : manyPages.wf = true ∧ Served manyPages 1 0x0030 false [2] [dFront] (natLe 4 1 ++ natLe 4 0x21000)
    ∧ namedList manyPages 1 1 = some stateList ∧ bufferFree manyPages 1 ⟨0x21000, hdrState stateList.head⟩ = true
    ∧ 4096 ≤ (pagesOf manyPages 1).length := by unfold Served; decide +kernel
theorem test_unregister_waits : ends (.listUnregister 1) (usedTile 0x0021 (natLe 4 1)) (fun t => answer t 1 == 99 && (getList t 1).any (·.doomed)
    && (getPlot t 1).mail.begun) = true := by decide +kernel
/-- The list goes at once, and the INVOKE that waited for it completes with LIST. -/
theorem test_unregister : ends (.listUnregister 1) (pageTile 0x0021 (natLe 4 1)) (fun t => answer t 1 == 0 && getList t 1 == none
    && (getFur t 16).failReason == 0x0E) = true := by decide +kernel
theorem test_reside : ends (.listReside 1) (pageTile 0x0022 (natLe 4 1 ++ [0])) (fun t => answer t 1 == 0 && (getList t 1).any (·.mode == 0)) = true := by decide +kernel
theorem test_state_create : ends (.stateCreate 1) (pageTile 0x0030 (natLe 4 1 ++ natLe 4 0x21000)) (fun t => answer t 1 == 0 && (getPage t 2).any (·.base == 0x21000)) = true := by decide +kernel
theorem test_state_destroy : ends (.stateDestroy 1) (pageTile 0x0031 (natLe 4 1)) (fun t => answer t 1 == 0 && getPage t 1 == none) = true := by decide +kernel
theorem test_state_destroy_unknown : ends (.stateDestroy 1) (pageTile 0x0031 (natLe 4 7)) (fun t => answer t 1 == 6) = true := by decide +kernel

def hello : List Byte := natLe 2 0x0100 ++ natLe 2 0x0100
theorem test_Doorbell_hyps : up.hp.up = true ∧ pageOpen up 1 = true ∧ (getPlot up 1).mail.lastSeq = 0 ∧ (getPlot up 1).mail.pending = false
    ∧ (let s := withMail 1 { request 2 [] with reqBuf := natLe 2 2 } up
       s.wf = true ∧ pageOpen s 1 = true ∧ (getPlot s 1).mail.pending = true ∧ msgType (getPlot s 1).mail.reqBuf ≠ 1)
    ∧ (let s := withMail 1 { request 2 [] with reqBuf := natLe 2 1 } up; msgType (getPlot s 1).mail.reqBuf = 1 ∧ s.wf = true) := by decide +kernel
theorem test_Hello_hyps : let s := withMail 1 { request 1 hello with helloDone := false } up
    s.wf = true ∧ requestReady 1 (fun t => t == 1) s = true ∧ (getPlot s 1).mail.helloDone = false := by decide +kernel
theorem test_QueryCaps_hyps : (let s := withMail 1 (request 2 []) up; s.wf = true ∧ Served s 1 0x0002 false [] [] [])
    ∧ (let s := withMail 1 { request 2 [] with helloDone := false } up
       s.wf = true ∧ requestReady 1 (fun t => t == 2) s = true ∧ (getPlot s 1).mail.helloDone = false) := by unfold Served; decide +kernel
theorem test_BadType_hyps : (let s := withMail 1 (request 0x0003 []) up
      s.wf = true ∧ requestReady 1 (fun t => !typeKnown t) s = true ∧ (getPlot s 1).mail.helloDone = true
        ∧ (getPlot s 1).mail.versionSent = false ∧ msgVer (getPlot s 1).mail.held = s.ch.mbVer.toNat)
    ∧ (let s := withMail 1 { request 0x0003 [] with helloDone := false } up; requestReady 1 (fun t => !typeKnown t) s = true) := by decide +kernel
theorem test_mailbox_holds : ends (.mbReqDb 1 5) (withMail 1 { reqBuf := body 16 [(0, 2, 2), (2, 2, 0x0100)] } up)
    (fun t => (getPlot t 1).mail.pending && (getPlot t 1).mail.lastSeq == 5) = true := by decide +kernel
theorem test_mailbox_overrun : ends (.mbReqDb 1 5) (withMail 1 { request 2 [] with reqBuf := natLe 2 2 } up) (fun t => (getPlot t 1).mail.overrun) = true := by decide +kernel
theorem test_hello : ends (.hello 1) (withMail 1 { request 1 hello with helloDone := false } up) (fun t => answer t 1 == 0 && (getPlot t 1).mail.helloDone
    && t.out == [.msix 1 0]) = true := by decide +kernel
/-- PI_SERVICE of a FULL tile ends the body (15_reset_and_bringup, on the bench: 0x3E08_63F8). -/
theorem test_query_caps : ends (.queryCaps 1) (withMail 1 (request 2 []) up) (fun t => answer t 1 == 0 && leAt (getPlot t 1).mail.respBuf 48 4 == 0x3E0863F8) = true := by decide +kernel
theorem test_bad_type : ends (.badTypeRequest 1) (withMail 1 (request 3 []) up) (fun t => answer t 1 == 2) = true := by decide +kernel

/-- ARM_FURROW of local furrow 0: USER, 16 entries, ring at 0x5000, LAST 9. -/
def armBody : List Byte := body 24 [(3, 1, 4), (8, 8, 0x5000), (16, 8, 9)]
def armTile : State := withMail 1 (request 0x0010 armBody) (tile [(16, { furOf 1 0 0 [] with arm := false, state := .unarmed })])
theorem test_ArmFurrow_hyps : armTile.wf = true ∧ Served armTile 1 0x0010 false [1] [dFront] armBody ∧ armBody.length = 24
    ∧ globalFur armTile 1 (leAt armBody 0 2) = some 16 ∧ (getFur armTile 16).arm = false ∧ leAt armBody 3 1 < 32 ∧ leAt armBody 8 8 % 4096 = 0
    ∧ leAt armBody 16 8 < 2 ^ 48 ∧ leAt armBody 2 1 = 0 := by unfold Served; decide +kernel
theorem test_DisarmFurrow_hyps : let s := withMail 1 (request 0x0011 [0, 0]) (userTile [])
    s.wf = true ∧ Served s 1 0x0011 false [1] [dFront] [0, 0] ∧ globalFur s 1 0 = some 16 := by unfold Served; decide +kernel
def schedBody : List Byte := body 6 [(0, 1, 1), (2, 1, 3), (4, 2, 9000)]
theorem test_SchedSet_hyps : (let s := withMail 0 (request 0x0042 schedBody) up
      s.wf = true ∧ Served s 0 0x0042 true [1] [dFront] schedBody ∧ (getPlot s 0).mail.begun = false ∧ leAt schedBody 0 1 < 64)
    ∧ (let s := withMail 0 { request 0x0042 schedBody with begun := true } up
      s.wf = true ∧ Served s 0 0x0042 true [1] [dFront] schedBody ∧ (getPlot s 0).mail.begun = true ∧ s.hg.commit = false) := by unfold Served; decide +kernel
theorem test_CoreRestart_hyps : let s := withMail 0 (request 0x0040 [3]) up
    s.wf = true ∧ Served s 0 0x0040 true [] [] [3] ∧ (getCore s 3).state = .running := by unfold Served; decide +kernel
theorem test_SvnCommit_hyps : let s := withMail 0 (request 0x0041 []) up
    s.wf = true ∧ Served s 0 0x0041 true [] [] [] := by unfold Served; decide +kernel
theorem test_arm_furrow : ends (.armFurrow 1) armTile (fun t => answer t 1 == 0 && (getFur t 16).arm && (getFur t 16).base == 5 && (getFur t 16).doneTicket == 9) = true := by decide +kernel
theorem test_disarm_furrow : ends (.disarmFurrow 1) (withMail 1 (request 0x0011 [0, 0]) (userTile [])) (fun t => answer t 1 == 0 && !(getFur t 16).arm) = true := by decide +kernel
/-- A slice above 8,000 us is taken as 8,000. -/
theorem test_sched_set : ends (.schedSet 0) (withMail 0 (request 0x0042 schedBody) up) (fun t => (getPlot t 1).sharePend == 3 && (getPlot t 1).slicePend == 8000
    && t.hg.commit && answer t 0 == 99) = true := by decide +kernel
theorem test_core_restart : ends (.coreRestart 0) (withMail 0 (request 0x0040 [3]) up) (fun t => (getCore t 3).state == .restarting && (getCore t 3).lastCause == 2) = true := by decide +kernel
theorem test_svn_commit : ends (.svnCommit 0) (withMail 0 (request 0x0041 []) up) (fun t => t.ch.minSvn == 3 && answer t 0 == 0) = true := by decide +kernel
theorem test_svn_commit_denied : ends (.svnCommit 1) (withMail 1 (request 0x0041 []) up) (fun t => t.ch.minSvn == 2 && answer t 1 == 4) = true := by decide +kernel

/-! ## Cores and the record -/

def coreTile (c : Core) : State := { up with ch := { up.ch with cores := [(0, { state := .running }), (1, { state := .running }), (2, c), (3, { state := .running })] } }
theorem test_CoreRestartCmd_hyps : up.wf = true ∧ Permits up (.core 0) .coreCtl 0xB00010 4 ∧ Permits up (.core 0) (.wdogPet 2) 0xB00128 4
    ∧ (8 : BitVec 32).getLsbD 3 = true ∧ (getCore up 3).state = .running := by
  refine ⟨by decide, ?_, ?_, by decide, by decide⟩ <;> exact ⟨by decide, by decide, by decide, by decide, by decide⟩
theorem test_Wdog_hyps : let s := coreTile { state := .running, wdogArmed := true }
    s.wf = true ∧ (getCore s 2).state = .running ∧ (getCore s 2).wdogArmed = true ∧ (getCore s 2).wdogMs ≠ 0 := by decide +kernel
/-- A core out of use by any component passes the check of its compartments, of which it has none. -/
def coreRestarts (st : Chimney → Chimney) : State :=
  let s := coreTile { state := .restarting }
  { s with ch := st s.ch }
/-- An image whose third compartment is empty and has the hash of nothing. -/
def hashImage : List Byte := List.replicate 192 0 ++ sha384 []
def rebuilt : State := coreRestarts fun x => { x with image := hashImage, lists := [(5, some mkList)] }
theorem test_RestartDone_hyps : (coreRestarts fun x => { x with bootCores := 0xB }).wf = true
    ∧ (getCore (coreRestarts fun x => { x with bootCores := 0xB }) 2).state = .restarting ∧ rebuilt.pi.warmDue = false
    ∧ rebuilt.ch.markDue = [] ∧ (compsOf (coreRestarts fun x => { x with bootCores := 0xB }) 2).all (codeOk rebuilt) = true
    ∧ rebuilt.wf = true ∧ (getCore rebuilt 2).state = .restarting ∧ compsOf rebuilt 2 = [2] ∧ codeOk rebuilt 2 = true
    ∧ getList rebuilt 5 = some mkList ∧ mkList.doomed = false ∧ mkList.inUse = false ∧ coreIn rebuilt 2 = true ∧ rebuilt.ch.noticeDue = []
    ∧ (getPlot rebuilt 1).mail.ntcHead = (getPlot rebuilt 1).mail.ntcTail := by decide +kernel
/-- CH1's component on core 1, and a furrow whose gauge it has reported once. -/
def gaugeTile : State :=
  let s := tile [(16, { furOf 1 0 0 [] with slicesIdle := 20, reported := true }), (17, furOf 1 1 0 [])]
  { s with ch := { up.ch with cores := tblSet coreDef up.ch.cores 1 { state := .restarting }, image := List.replicate 144 0 ++ sha384 [] } }
theorem test_RestartDone_hyps2 : gaugeTile.wf = true ∧ (getCore gaugeTile 1).state = .restarting ∧ gaugeTile.ch.markDue = [] ∧ compsOf gaugeTile 1 = [1]
    ∧ codeOk gaugeTile 1 = true ∧ gaugeTile.hg.gaugeEn = true ∧ (getFur gaugeTile 16).alloc = true ∧ gaugeTile.ch.modeSeq = none := by decide +kernel
/-- A compartment whose CODE_HASH is not there, and a warm reset under way. -/
theorem test_RestartDone_hyps3 : (coreRestarts id).wf = true ∧ (getCore (coreRestarts id) 2).state = .restarting ∧ (coreRestarts id).ch.markDue = []
    ∧ (compsOf (coreRestarts id) 2).all (codeOk (coreRestarts id)) = false
    ∧ ({ up with pi := { up.pi with warmDue := true } } : State).pi.warmDue = true
    ∧ (getCore (coreTile { state := .running, wdogArmed := false }) 2).wdogArmed = false := by decide +kernel
/-- SHA-384 of nothing and of "abc" (FIPS 180-4). -/
theorem test_sha384 : (sha384 []).take 4 = [0x38, 0xb0, 0x60, 0xa7] ∧ (sha384 [0x61, 0x62, 0x63]).take 8 = [0xcb, 0x00, 0x75, 0x3f, 0x45, 0xa3, 0x5e, 0x8b] := by decide +kernel
theorem test_list_lost : ends (.coreRestartDone ⟨2, [5]⟩) rebuilt (fun t => getList t 5 == none && (getCore t 2).restarts == 1
    && (getPlot t 1).mail.ntcTail == 2 && leAt (tblGet ringDef (getPlot t 1).mail.ntcRing 0) 0 2 == 0x8002) = true := by decide +kernel
theorem test_restart_reports_gauges : ends (.coreRestartDone ⟨1, []⟩) gaugeTile (fun t => (getFur t 16).reported && !(getFur t 17).reported
    && (getPlot t 1).mail.ntcTail == 2) = true := by decide +kernel
theorem test_code_bad : ends (.coreRestartDone ⟨2, []⟩) (coreRestarts id) (fun t => (getCore t 2).codeBad && (getCore t 2).state == .stopped && t.sb.status.getLsbD 49) = true := by decide +kernel
theorem test_core_restart_cmd : ends (.coreRestartCmd (.core 0) 8) up (fun t => (getCore t 3).state == .restarting && (getCore t 2).state == .running) = true := by decide +kernel
theorem test_wdog_expiry : ends (.wdogExpiry 2) (coreTile { state := .running, wdogArmed := true }) (fun t => (getCore t 2).lastCause == 1 && t.sb.status.getLsbD 47) = true := by decide +kernel
theorem test_trap : ends (.unhandledTrap 2) up (fun t => (getCore t 2).lastCause == 4) = true := by decide +kernel
theorem test_wdog_pet : ends (.wdogPet (.core 0) 2) { up with pi := { up.pi with time := 500 } } (fun t => (getCore t 2).wdogStart == 500) = true := by decide +kernel

def recordTile : State := { up with ch := { up.ch with recordWant := true, validA := true } }
theorem test_Record_hyps : recordTile.wf = true ∧ compRuns recordTile 0 = true ∧ awake recordTile [dChimney] = true ∧ recordTile.pins.vflash = true
    ∧ newestBank recordTile = some false ∧ (if recordTile.ch.newest then recordTile.ch.validB else recordTile.ch.validA) = true := by decide +kernel
theorem test_record_fails : ends (.persistentRecordWrite ⟨.clean, none⟩ false false) recordTile (fun t => t.ch.writeFail && newestBank t == some false) = true := by decide +kernel
/-- A snapshot of number 1 that was not copied waits for the record (Table 12-2). -/
def snapTile : State :=
  { recordTile with sb := { recordTile.sb with snaps := 1, recMem := memWrite memDefault [] 0 (body 56 [(0, 4, 0x534E4150), (52, 4, 1)]) } }
def changedValues : List Byte := List.replicate 8192 0x5A
set_option maxRecDepth 20000 in
theorem test_Record_hyps2 : snapTile.wf = true ∧ newSnap snapTile = some 1 ∧ recordTile.wf = true ∧ newSnap recordTile = none
    ∧ newSnap { snapTile with ch := { snapTile.ch with lastSnapCopied := 1 } } = none ∧ changedValues.length = 8192
    ∧ ({ up with pins := { up.pins with vflash := false } } : State).pins.vflash = false
    ∧ newestBank up = none ∧ up.wf = true := by decide +kernel
theorem test_record_read : ends (.persistentRecordWrite ⟨.corrected, none⟩ false false) snapTile (fun t => t.sb.recCorr == 1)
    && ends (.persistentRecordWrite ⟨.uncorrectable, none⟩ false false) snapTile (fun t => t.sb.recCorr == 0 && t.sb.status.getLsbD 63) = true := by decide +kernel
/-- Nothing is wanted, so nothing is written; changed calibration values want a record. -/
theorem test_record_not_wanted : ends (.persistentRecordWrite ⟨.clean, none⟩ true true) up (· == up)
    && ends (.persistentRecordWrite ⟨.clean, some changedValues⟩ false false) up (fun t => t.ch.writeFail) = true := by decide +kernel

/-! ## Plots -/

/-- A PLOT_CTL by plot 0: OP, PLOT, SLOT_MASK, FUR_FIRST, FUR_COUNT, EVT_COUNT, SLUICE_MAX. -/
def plotOp (op p mask first count evt ch : Nat) : Op :=
  mkOp 2 0x11 [(32, 1, op), (33, 1, p), (34, 2, mask), (36, 2, first), (38, 2, count), (40, 2, evt), (42, 1, ch)]
def plotTurn (s : State) (op : Nat) (o : Op) : Bool :=
  (match beginDispatch 0 (fun o => o.opcode == 0x11 && ((plotCtl o.bytes).op == op
      || !(decide (1 ≤ (plotCtl o.bytes).op) && decide ((plotCtl o.bytes).op ≤ 5)))) [dFront] s with
   | .ok (x, _) => x == o | .error _ => false) && (plotCtl o.bytes).op == op
def createOp : Op := plotOp 1 2 0 32 8 64 4
def assignOp : Op := plotOp 4 1 0x7F00 16 4 128 2
def resetOp : Op := plotOp 2 1 0 0 0 0 0
def teardownOp : Op := plotOp 3 1 0 0 0 0 0
def quarantineOp : Op := plotOp 5 1 0 0 0 0 0
/-- Plot 0 orders while furrow 16 of plot 1 has an operation running on the Hearth. -/
def orderTile (o : Op) : State :=
  let s := holds 0 (leased (tile [(0, furOf 0 0 1 [o]), (16, { furOf 1 0 0 [{ gemmRuns with id := 1 }] with head := 5, tail := 7 })]))
  { s with hg := { s.hg with events := [(1024 + 3, 9), (1024 + 7, 5)] } }
theorem test_PlotCreate_hyps : (orderTile createOp).wf = true ∧ plotTurn (orderTile createOp) 1 createOp = true
    ∧ (getPlot (orderTile createOp) 2).state = .none ∧ rangesOk (orderTile createOp) (plotCtl createOp.bytes) = true
    ∧ plotTurn (orderTile (plotOp 1 1 0 32 8 64 4)) 1 (plotOp 1 1 0 32 8 64 4) = true := by decide +kernel
theorem test_PlotAssign_hyps : (orderTile assignOp).wf = true ∧ plotTurn (orderTile assignOp) 4 assignOp = true
    ∧ assignCheck (orderTile assignOp) (plotCtl assignOp.bytes) = true
    ∧ plotTurn (orderTile (plotOp 4 1 1 16 4 64 2)) 4 (plotOp 4 1 1 16 4 64 2) = true
    ∧ assignCheck (orderTile (plotOp 4 1 1 16 4 64 2)) (plotCtl (plotOp 4 1 1 16 4 64 2).bytes) = false := by decide +kernel
theorem test_PlotEnds_hyps : (orderTile teardownOp).wf = true ∧ plotTurn (orderTile teardownOp) 3 teardownOp = true
    ∧ (orderTile resetOp).wf = true ∧ plotTurn (orderTile resetOp) 2 resetOp = true ∧ (getPlot (orderTile resetOp) 1).state = .live
    ∧ (orderTile quarantineOp).wf = true ∧ plotTurn (orderTile quarantineOp) 5 quarantineOp = true
    ∧ (let o := plotOp 2 0 0 0 0 0 0; (orderTile o).wf = true ∧ plotTurn (orderTile o) 2 o = true)
    ∧ (let o := plotOp 5 0 0 0 0 0 0; plotTurn (orderTile o) 5 o = true) ∧ (let o := plotOp 3 0 0 0 0 0 0; plotTurn (orderTile o) 3 o = true) := by decide +kernel
def duringWarm (o : Op) : State := let s := orderTile o; { s with pi := { s.pi with warmDue := true } }
theorem test_PlotReset_hyps2 : (duringWarm resetOp).wf = true ∧ plotTurn (duringWarm resetOp) 2 resetOp = true ∧ (duringWarm resetOp).pi.warmDue = true
    ∧ (let o := plotOp 2 2 0 0 0 0 0; (orderTile o).wf = true ∧ plotTurn (orderTile o) 2 o = true ∧ (getPlot (orderTile o) 2).state = .none)
    ∧ (let o := plotOp 5 2 0 0 0 0 0; (orderTile o).wf = true ∧ plotTurn (orderTile o) 5 o = true ∧ (getPlot (orderTile o) 2).state ≠ .live)
    ∧ (let o := plotOp 3 2 0 0 0 0 0; (orderTile o).wf = true ∧ plotTurn (orderTile o) 3 o = true ∧ (getPlot (orderTile o) 2).state = .none)
    ∧ (orderTile resetOp).cn.colls = [] ∧ (orderTile resetOp).ch.modeSeq = none := by decide +kernel
/-- Furrow 21 leaves with its lease of slot 9 and the record of it. -/
def leaving : State :=
  let s := tile [(0, furOf 0 0 1 [assignOp]), (21, { furOf 1 5 0 [] with arm := false, state := .unarmed })]
  { s with ap := { s.ap with slots := [(9, { lease := some 21, entries := [(0, 7)] })] }, hg := { s.hg with ctxValid := 0x200 } }
theorem test_assign_ends_lease : ends (.plotAssign 0) leaving (fun t => (getSlot t 9).lease == none && t.hg.ctxValid == 0
    && getFur t 21 == leaveFurrow (getFur leaving 21)) = true := by decide +kernel
theorem test_plot_reset_joins_warm : ends (.plotReset 0) (duringWarm resetOp) (fun t => (getPlot t 1).resets == 0 && (getFur t 0).failReason == 0) = true := by decide +kernel
theorem test_plot_create : ends (.plotCreate 0) (orderTile createOp) (fun t => (getPlot t 2).state == .live && (getPlot t 2).furFirst == 32
    && (getFur t 33).alloc && (getFur t 33).localIdx == 1 && (getFur t 33).plot == 2) = true := by decide +kernel
theorem test_plot_assign : ends (.plotAssign 0) (orderTile assignOp) (fun t => (getPlot t 1).furCount == 4 && getEvent t 1 3 == 9 && (getPlot t 1).slotMask == 0x7F00) = true := by decide +kernel
/-- HEAD stays over a plot reset, EPOCH advances, and the running operation is gone with its slice. -/
theorem test_plot_reset : ends (.plotReset 0) (orderTile resetOp) (fun t => (getPlot t 1).epoch == 1 && (getPlot t 1).resets == 1 && (getFur t 16).head == 5
    && (getFur t 16).queue.isEmpty && !(getFur t 16).arm && (getSlot t 8).lease == none && getEvent t 1 3 == 0) = true := by decide +kernel
theorem test_plot_quarantine : ends (.plotQuarantine 0) (orderTile quarantineOp) (fun t => (getPlot t 1).state == .quarantined
    && (getFur t 16).queue.all (fun o => o.phase != .running)) = true := by decide +kernel
theorem test_plot_teardown : ends (.plotTeardown 0) (orderTile teardownOp) (fun t => (getPlot t 1).state == .none && !(getFur t 16).alloc && (getPlot t 1).basinSize == 0) = true := by decide +kernel
theorem test_plot0_not_reset : ends (.plotReset 0) (orderTile (plotOp 2 0 0 0 0 0 0)) (fun t => (getFur t 0).failReason == 0x01) = true := by decide +kernel

/-- WINDOW_MAP of plot 1: Basin 3 MiB at 5 MiB, no residency region, HBM as before. -/
def mapOp (base size : Nat) : Op := mkOp 2 0x12 [(32, 1, 1), (34, 2, base), (36, 2, size), (38, 2, 0), (42, 2, 1), (44, 2, 1)]
def mapTile (o : Op) : State :=
  let s := kernelTile [o]
  { s with ba := { s.ba with basin := [(0x400000, 1), (0x500000, 2), (0x800000, 3)] } }
def mapTurn (o : Op) : Bool :=
  match beginDispatch 0 (fun o => o.opcode == 0x12)
      (dFront :: dBasin :: (if (windowMapDesc (bytesOfNext (mapTile o) 0)).hbmSize = 0 then [] else [dHbm])) (mapTile o) with
  | .ok (x, _) => x == o | .error _ => false
theorem test_WindowMap_hyps : (mapTile (mapOp 5 4)).wf = true ∧ mapTurn (mapOp 5 4) = true ∧ windowCheck (mapTile (mapOp 5 4)) (windowMapDesc (mapOp 5 4).bytes) = true
    ∧ mapTurn (mapOp 3 4) = true ∧ windowCheck (mapTile (mapOp 3 4)) (windowMapDesc (mapOp 3 4).bytes) = false := by decide +kernel
/-- Bytes that stay keep their value, bytes that enter read 0, bytes that leave are not touched. -/
theorem test_window_map : ends (.windowMap 0) (mapTile (mapOp 5 4)) (fun t => (getPlot t 1).basinBase == 5 && t.ba.basin == [(0x400000, 1), (0x500000, 2)]) = true := by decide +kernel
def govOp : Op := mkOp 2 0x13 [(32, 1, 4), (33, 1, 2), (34, 2, 600), (36, 1, 90), (40, 2, 5), (42, 2, 300), (44, 2, 50)]
theorem test_GovernorSet_hyps : Acts (kernelTile [govOp]) 0 0x13 [] govCheck (fun _ _ => true) govOp ∧ (kernelTile [govOp]).wf = true :=
  ⟨acts_now (by decide +kernel) rfl (by decide +kernel) (by decide +kernel), by decide +kernel⟩
def badGov : Op := mkOp 2 0x13 []
theorem test_GovernorSet_hyps2 : (kernelTile [badGov]).wf = true ∧ waitingOp (kernelTile [badGov]) 0 0x13 = none ∧ govCheck (kernelTile [badGov]) badGov ≠ 0
    ∧ (match beginDispatch 0 (fun o => o.opcode == 0x13) [] (kernelTile [badGov]) with | .ok (x, _) => x == badGov | .error _ => false) = true := by decide +kernel
theorem test_governor_set : ends (.governorSet 0) (kernelTile [govOp]) (fun t => t.pi.clkMax == 4 && t.pi.clkMin == 2 && t.pi.powerCap == 600) = true := by decide +kernel

/-! ## Slices and scheduler registers -/

/-- Furrow 16 runs a FLUE operation in its slice; furrow 18 of the same plot has one ready. -/
def granted (d : Nat) (s : State) : State := { s with hg := { s.hg with domains := [(d, { holder := some 16, lastPlot := 1, lastFur := [(1, 0)] })] } }
def sliceTile (q16 q18 : List Op) : State := granted 5 (tile [(16, furOf 1 0 0 q16), (18, furOf 1 2 0 q18)])
def unheld (s : State) : State := { s with hg := { s.hg with domains := [] } }
/-- Plot 1's share is 0, and its one credit of a round of its own is spent or not. -/
def zeroShare (credit : Nat) : State :=
  let s := unheld (sliceTile [] [flueOp])
  { s with hg := { s.hg with plots := [(0, plot0), (1, { plot1 with share := 0 })], domains := [(5, { credits0 := [(1, credit)] })] } }
theorem test_RoundBoundary_hyps : up.wf = true ∧ awake up [dFront] = true ∧ (domainsNow up).contains 5 = true ∧ roundGrant up 5 false = none
    ∧ readyPlots (takeTable 5 up) 5 = [] ∧ (unheld (sliceTile [] [flueOp])).wf = true ∧ (roundGrant (unheld (sliceTile [] [flueOp])) 5 false).isSome = true
    ∧ (zeroShare 0).wf = true ∧ (domainsNow (zeroShare 0)).contains 5 = true ∧ roundGrant (zeroShare 0) 5 false = none
    ∧ nonzeroReady (takeTable 5 (zeroShare 0)) 5 = [] ∧ readyPlots (takeTable 5 (zeroShare 0)) 5 ≠ []
    ∧ (grantOf (zeroShare 0) 5).any (fun g => g.boundary && g.zeroRound) = true := by decide +kernel
/-- Furrow 18 was granted the domain while furrow 16's operation drains. -/
def draining : State :=
  let s := sliceTile [{ flueRuns with phase := .ended }] [flueOp]
  { s with hg := { s.hg with domains := [(5, { holder := some 16, incoming := some 18, lastPlot := 1, lastFur := [(1, 2)] })] } }
theorem test_SliceExpire_hyps : (let s := sliceTile [] []
      s.wf = true ∧ (getDom s 5).holder = some 16 ∧ grantOf s 5 = none)
    ∧ (let s := sliceTile [] [flueOp]
      s.wf = true ∧ (grantOf s 5).any (fun g => g.fur == 18) = true ∧ runningOp s 5 = none)
    ∧ (let s := sliceTile [{ flueRuns with phase := .ended }] [flueOp]
      s.wf = true ∧ (grantOf s 5).any (fun g => g.fur == 18) = true ∧ (runningOp s 5).any (fun x => !preemptible x.2) = true)
    ∧ (let s := sliceTile [flueRuns] [flueOp]
      s.wf = true ∧ (grantOf s 5).any (fun g => g.fur == 18) = true ∧ (runningOp s 5).any (fun x => preemptible x.2) = true)
    ∧ (let s := granted 0 (leased (tile [(16, furOf 1 0 0 [gemmRuns]), (18, furOf 1 2 0 [gemmOp])]))
      s.wf = true ∧ (grantOf s 0).any (fun g => g.fur == 18) = true ∧ (runningOp s 0).any (fun x => preemptible x.2) = true
        ∧ (getSlot s 8).bad = [] ∧ s.ba.bankFail = 0 ∧ (getDom s 0).incoming = none ∧ awake s [dFront] = true)
    ∧ draining.wf = true ∧ (getDom draining 5).holder = some 16 ∧ (getDom draining 5).incoming.isSome = true := by decide +kernel
theorem test_slice_preempts_flue : ends (.sliceExpire 5) (sliceTile [flueRuns] [flueOp]) (fun t => (getDom t 5).holder == some 18
    && (findOp t 16 2).any (·.phase == .preempted)) = true := by decide +kernel
def preempted (o : Op) : Op := { o with phase := .preempted, prog := { flueRow := 0 } }
def slotLost (v l : BitVec 16) (s : State) : State := { s with hg := { s.hg with ctxValid := v, ctxLost := l } }
def hearthPreempted (v l : BitVec 16) : State := slotLost v l (holds 0 (gemmTile [{ gemmRuns with phase := .preempted }]))
/-- The header of the image of slot 8 in its record in the context store. -/
def recordMem : Memory := memWrite memDefault [] (24 * 2 ^ 25 - 2 ^ 25 + 8 * 2 ^ 21) (body 64 [(0, 1, 1), (1, 1, 1), (4, 2, 128), (8, 4, 1024)])
def lostTile : State := let s := hearthPreempted 0x100 0x100; { s with ba := { s.ba with basin := recordMem } }
def unreadable : State := { lostTile with ba := { lostTile.ba with basinBad := [(recordAddr lostTile 8 + 64) / 8] } }
/-- Firebox 2 has left service while the operation was off its engine. -/
def fbGone : State := let s := hearthPreempted 0 0; { s with pi := { s.pi with health := 1#128 <<< 34 } }
theorem test_Resume_hyps : (let s := sliceTile [preempted flueRuns] []
      s.wf = true ∧ sliceFur s 5 = some 16 ∧ preemptedOp s 5 16 = some (preempted flueRuns) ∧ (takeTurn 5 16 s).isSome = true
        ∧ awake s (flueNeeds s) = true ∧ (preempted flueRuns).coll = 0)
    ∧ (let s := hearthPreempted 0 0
      s.wf = true ∧ sliceFur s 0 = some 16 ∧ preemptedOp s 0 16 = some { gemmRuns with phase := .preempted } ∧ (takeTurn 0 16 s).isSome = true
        ∧ awake s (gemmNeeds s gemmRuns) = true ∧ slotModeOk s 8 = true ∧ s.hg.ctxValid.getLsbD 8 = false)
    ∧ lostTile.wf = true ∧ sliceFur lostTile 0 = some 16 ∧ preemptedOp lostTile 0 16 = some { gemmRuns with phase := .preempted }
    ∧ (takeTurn 0 16 lostTile).isSome = true ∧ lostTile.hg.ctxValid.getLsbD 8 = true ∧ slotModeOk lostTile 8 = true
    ∧ lostTile.hg.ctxLost.getLsbD 8 = true ∧ (imageShape (readMem false lostTile (recordAddr lostTile 8) 64)).isSome = true
    ∧ readBad false lostTile (recordAddr lostTile 8) imageSize = false := by decide +kernel
theorem test_Resume_hyps2 : unreadable.wf = true ∧ sliceFur unreadable 0 = some 16 ∧ (takeTurn 0 16 unreadable).isSome = true
    ∧ (imageShape (readMem false unreadable (recordAddr unreadable 8) 64)).isSome = true ∧ readBad false unreadable (recordAddr unreadable 8) imageSize = true
    ∧ fbGone.wf = true ∧ sliceFur fbGone 0 = some 16 ∧ preemptedOp fbGone 0 16 = some { gemmRuns with phase := .preempted }
    ∧ (takeTurn 0 16 fbGone).isSome = true ∧ slotModeOk fbGone 8 = false ∧ awake fbGone (gemmNeeds fbGone gemmRuns) = true := by decide +kernel
theorem test_resume_unreadable : ends (.resume 0) unreadable (fun t => (findOp t 16 2).any (fun o => o.phase == .ended && o.reason == 0x20)
    && (getSlot t 8).entries.isEmpty && !t.hg.ctxValid.getLsbD 8) = true := by decide +kernel
theorem test_drain_keeps_grant : ends (.sliceExpire 5) draining (· == draining) = true := by decide +kernel
theorem test_resume : ends (.resume 0) (hearthPreempted 0x100 0) (fun t => (findOp t 16 2).any (·.phase == .running) && !t.hg.ctxValid.getLsbD 8
    && (getFb t 0).busy) = true := by decide +kernel
theorem test_round_boundary : ends (.roundBoundary 5) { up with hg := { up.hg with commit := true, plots := [(0, plot0), (1, { plot1 with shareNext := 9 })] } }
    (fun t => tblGet creditDef (getDom t 5).credits 1 == 9) = true := by decide +kernel

theorem test_SchedCtl_hyps : up.wf = true ∧ Permits up (.core 1) .schedCtl 0x200100 4 ∧ Permits up (.core 3) .thermCtl 0x100124 4
    ∧ Permits up (.core 1) .modeCtl 0x500010 4 ∧ Permits up (.core 1) .ctxCmd 0x200110 4 ∧ (0x1005 : BitVec 32).getLsbD 0 = true := by
  refine ⟨by decide +kernel, ?_, ?_, ?_, ?_, by decide +kernel⟩ <;> exact ⟨by decide +kernel, by decide +kernel, by decide +kernel, by decide +kernel, by decide +kernel⟩
def modeTile : State := let s := leased (userTile []); { s with he := { s.he with mode := true, pending := true } }
theorem test_ModeChange_hyps : modeTile.wf = true ∧ modeTile.he.pending = true ∧ (∀ q, q < 4 → (getFb modeTile q).busy = false) :=
  ⟨by decide +kernel, rfl, fun _ _ => rfl⟩
/-- CH1's sequence of Table 8-3: its start while a GEMM runs, its saves, and its end with slot 8's record valid. -/
def wants (m : Bool) : GovChoice := { level := 4, target := 5, ign := [], power := 350, capBelowMin := false, mode := some m }
def modeEnds : State := { lostTile with hg := { lostTile.hg with furrows := [], domains := [], hearthHold := true }
                                        he := { lostTile.he with mode := true, pending := true }, ch := { lostTile.ch with modeSeq := some true } }
theorem test_ModeSequence_hyps : govMode passTile (some true) = some true ∧ passTile.wf = true ∧ compRuns passTile 3 = true ∧ passTile.pi.phase = .ready
    ∧ passTile.ch.modeSeq = none ∧ passTile.he.mode ≠ true ∧ hearthIdle passTile = false
    ∧ (gemmTile []).wf = true ∧ hearthIdle (gemmTile []) = true ∧ compRuns (gemmTile []) 1 = true ∧ (gemmTile []).he.pending = false
    ∧ (gemmTile []).he.modeCur ≠ true ∧ awake (gemmTile []) allFbNeeds = true ∧ govMode up (some false) = some false ∧ up.he.mode = false
    ∧ modeEnds.wf = true ∧ modeEnds.ch.modeSeq = some modeEnds.he.mode ∧ hearthIdle modeEnds = true ∧ compRuns modeEnds 1 = true
    ∧ awake modeEnds allFbNeeds = true ∧ modeEnds.hg.ctxValid.getLsbD 8 = true ∧ modeEnds.hg.ctxValid.getLsbD 7 = false
    ∧ (imageShape (readMem false modeEnds (recordAddr modeEnds 8) 64)).isSome = true ∧ readBad false modeEnds (recordAddr modeEnds 8) imageSize = false
    ∧ up.he.pending = false ∧ (getFb passTile 0).busy = false ∧ modeTile.ch.modeSeq = none := by decide +kernel
theorem test_mode_sequence_starts : ends (.governorTick (wants true)) passTile (fun t => t.hg.hearthHold && t.ch.modeSeq == some true && !t.he.mode)
    && ends (.governorTick (wants true)) (gemmTile []) (fun t => t.hg.hearthHold && t.he.pending && t.he.mode && t.hg.ctxValid == 0x100) = true := by decide +kernel
theorem test_mode_sequence_ends : ends .modeChange modeEnds (fun t => t.he.modeCur && !t.hg.hearthHold && t.ch.modeSeq == none && t.hg.ctxValid == 0) = true := by decide +kernel
theorem test_mode_change : ends .modeChange modeTile (fun t => t.he.modeCur && (getSlot t 8).quad && (getSlot t 8).entries.isEmpty && (getSlot t 8).lease == some 16) = true := by decide +kernel
theorem test_mode_write : ends (.modeCtlWrite (.core 1) 1) up (fun t => t.he.mode && t.he.pending && !t.he.modeCur) = true := by decide +kernel
theorem test_commit : ends (.schedCommit (.core 1) 0x1005) up (fun t => t.hg.commit && t.hg.stallN == 16 && t.hg.gaugeEn) = true := by decide +kernel
theorem test_hold : ends (.hearthHold (.core 1) 0x1006) up (fun t => t.hg.hearthHold && !t.hg.commit) = true := by decide +kernel
/-- Timer 3 has one owner: the fast thermal sampling takes it from the gauge, and back it is refused (R208). -/
theorem test_timer_contest : ends (.fastEnWrite (.core 3) 1) up (fun t => t.pi.fastEn && !t.hg.gaugeEn && t.hg.conflictGauge
    && (match exec (.gaugeEnWrite (.core 1) 0x1004) t with | .next u => !u.hg.gaugeEn | _ => false)) = true := by decide +kernel

theorem test_Ctx_hyps : (gemmTile []).wf = true ∧ Permits (gemmTile []) (.core 1) .ctxCmd 0x200110 4 ∧ (getSlot (gemmTile []) 8).lease = some 16
    ∧ slotBusy (gemmTile []) 8 = false ∧ (getSlot (gemmTile []) 8).bad = [] ∧ (gemmTile []).ba.bankFail = 0
    ∧ (getSlot up 8).lease = none ∧ (slotLost 0x100 0 up).wf = true ∧ (slotLost 0x100 0 up).hg.ctxValid.getLsbD 8 = true
    ∧ Permits lostTile (.core 1) .ctxCmd 0x200110 4 ∧ Permits (slotLost 0x100 0 up) (.core 1) .ctxCmd 0x200110 4 := by
  refine ⟨by decide +kernel, ?_, by decide +kernel, by decide +kernel, by decide +kernel, by decide +kernel, by decide +kernel, by decide +kernel, by decide +kernel, ?_, ?_⟩ <;>
    exact ⟨by decide +kernel, by decide +kernel, by decide +kernel, by decide +kernel, by decide +kernel⟩
/-- Firebox 2 sleeps; a command waits for it; it wakes. -/
def fb2Sleeps (s : State) : State := setPower s 6 .banked
def ctxWaits (op : Nat) (s : State) : State := { s with hg := { s.hg with ctxPend := some (op, 8) } }
def fb2Wakes : State := let s := ctxWaits 1 (fb2Sleeps (gemmTile [])); { s with pi := { s.pi with waking := [6] } }
theorem test_Ctx_hyps2 : (fb2Sleeps (gemmTile [])).wf = true ∧ awake (fb2Sleeps (gemmTile [])) (hearthNeeds (fb2Sleeps (gemmTile [])) 8) = false
    ∧ awake (gemmTile []) (hearthNeeds (gemmTile []) 8) = true ∧ (gemmTile []).hg.ctxPend = none ∧ slotBusy (fb2Sleeps (gemmTile [])) 8 = false
    ∧ passTile.wf = true ∧ slotBusy passTile 8 = true ∧ (ctxWaits 1 up).wf = true ∧ (ctxWaits 1 up).hg.ctxPend ≠ none
    ∧ awake lostTile (hearthNeeds lostTile 8) = true ∧ (fb2Sleeps (slotLost 0x100 0 up)).hg.ctxValid.getLsbD 8 = true
    ∧ fb2Wakes.wf = true ∧ fb2Wakes.pi.waking.contains 6 = true ∧ awake fb2Wakes (domNeeds 6) = true ∧ fb2Wakes.hg.ctxPend = some (1, 8)
    ∧ awake (setPower fb2Wakes 6 .stoked) (hearthNeeds fb2Wakes 8) = true ∧ fb2Wakes.pi.latched = [] ∧ fb2Wakes.ch.modeSeq = none
    ∧ (getSlot fb2Wakes 8).lease = some 16 ∧ slotBusy fb2Wakes 8 = false ∧ (getSlot fb2Wakes 8).bad = [] := by decide +kernel
theorem test_Ctx_permit2 : Permits (fb2Sleeps (gemmTile [])) (.core 1) .ctxCmd 0x200110 4 ∧ Permits passTile (.core 1) .ctxCmd 0x200110 4
    ∧ Permits (ctxWaits 1 up) (.core 1) .ctxCmd 0x200110 4 ∧ Permits (fb2Sleeps (slotLost 0x100 0 up)) (.core 1) .ctxCmd 0x200110 4 := by
  refine ⟨?_, ?_, ?_, ?_⟩ <;> exact ⟨by decide +kernel, by decide +kernel, by decide +kernel, by decide +kernel, by decide +kernel⟩
theorem test_ctx_waits : ends (.ctxSave (.core 1) 8) (fb2Sleeps (gemmTile [])) (fun t => t.pi.waking.contains 6 && t.hg.ctxPend == some (1, 8) && t.hg.ctxValid == 0) = true := by decide +kernel
theorem test_ctx_acts_on_wake : ends (.domainWakeComplete 6) fb2Wakes (fun t => t.hg.ctxPend == none && t.hg.ctxValid == 0x100) = true := by decide +kernel
theorem test_ctx_discard : ends (.ctxDiscard (.core 1) 8) (slotLost 0x100 0x100 up) (fun t => t.hg.ctxValid == 0 && t.hg.ctxLost == 0) = true := by decide +kernel
theorem test_ctx_restore : ends (.ctxRestore (.core 1) 8) (slotLost 0x100 0 (gemmTile [])) (fun t => t.hg.ctxValid == 0 && (getSlot t 8).entries == [(0, 77)]) = true := by decide +kernel
theorem test_ctx_save_busy : ends (.ctxSave (.core 1) 8) passTile (fun t => t.hg.ctxValid == 0) = true := by decide +kernel

/-! ## The Smokebox -/

theorem permits_force : Permits up .pf .force 0xC00044 4 ∧ Permits up (.core 3) .sbAck 0xC00038 4 ∧ Permits up .pf .sbStatus 0xC00000 8
    ∧ Permits up (.core 0) .timeAdj 0x100028 8 ∧ Permits up (.core 0) .ptmCtl 0x100030 4 := by
  refine ⟨⟨by decide +kernel, by decide +kernel, by decide +kernel, by decide +kernel⟩, ?_, ⟨by decide +kernel, by decide +kernel, by decide +kernel, by decide +kernel⟩, ?_, ?_⟩ <;>
    exact ⟨by decide +kernel, by decide +kernel, by decide +kernel, by decide +kernel, by decide +kernel⟩

theorem test_EventsAreCounted_hyps : up.wf = true ∧ sourceReserved 7 = true ∧ sourceReserved 0 = false ∧ sourceReserved 35 = false ∧ sourceReserved 40 = false
    ∧ up.pi.pwrok = true ∧ up.pi.hrstLow = false ∧ (getPort up 0).state ≠ .down ∧ (getPort up 3).state ≠ .down
    ∧ compRuns up 3 = true ∧ up.ba.bankIn.getLsbD 23 = true ∧ up.ba.bankFail.getLsbD 23 = false ∧ up.ba.stackIn.getLsbD 7 = true
    ∧ up.ba.stackFail.getLsbD 7 = false ∧ flueIn up 0 = true ∧ flueIn up 1 = true ∧ statsIn up = true
    ∧ failedUnit 40 0 = none ∧ escalatedUnit 40 0 = none ∧ (getSrc up 40).chan ≠ 0 := by decide +kernel
/-- CH3 restarts: a unit that fails waits for its mark. -/
def ch3Down : State := { up with ch := { up.ch with cores := tblSet coreDef up.ch.cores 3 { state := .restarting } } }
theorem test_EventsAreCounted_hyps2 : ch3Down.wf = true ∧ compRuns ch3Down 3 = false ∧ ch3Down.ba.bankIn.getLsbD 0 = true
    ∧ 8 * 0 < basinCap up ∧ (basinCap up / 8 - 1) ∉ up.ba.basinBad ∧ 8 * (basinCap up / 8 - 1) < basinCap up
    ∧ 8 * (hbmCap up / 8 - 1) < hbmCap up ∧ 65535 < slotEntries ∧ 0 ∉ (getSlot up 15).bad := by decide +kernel
def tableTile3 : State := { up with fl := { up.fl with tables := [(3, { bank1 := some [1] })] } }
theorem test_EventsAreCounted_hyps4 : tableTile3.wf = true ∧ (1 : Nat) ∉ (getTable tableTile3 3).bad ∧ ((getTable tableTile3 3).bank 1).isSome = true := by decide +kernel
def opened : State := setSrc up 63 { getSrc up 63 with windowOpen := true, count := 4 }
theorem test_EventsAreCounted_hyps3 : opened.wf = true ∧ (getSrc opened 63).windowOpen = true := by decide +kernel
/-- Source 0 has severity DEGRADED (Table 12-1): an episode opens with it and names its plot. -/
theorem test_smokebox_event : ends (.smokeboxEvent 0 (some 1) 0) up (fun t => t.sb.epOpen && t.sb.epPlots == 2 && t.sb.epId == 1 && t.sb.status == 1
    && (getSrc t 0).events == 1) = true := by decide +kernel
theorem test_event_escalates : ends (.smokeboxEvent 40 none 0) (setSrc up 40 { sev := 1, chan := 1, countN := 2, windowOpen := true, count := 1 })
    (fun t => (getSrc t 40).effSev == 2 && (getSrc t 40).escalated && t.sb.epOpen) = true := by decide +kernel
theorem test_bank_fails : ends (.unitFailsInService (.bank 23)) up (fun t => outBit t (bankBit 23) && (getSrc t 20).events == 1 && (getSrc t 57).events == 1) = true := by decide +kernel
theorem test_bank_mark_waits : ends (.unitFailsInService (.bank 0)) ch3Down (fun t => !outBit t (bankBit 0) && t.ch.markDue == [bankBit 0]) = true := by decide +kernel
theorem test_window_closes : ends (.countWindowClose 63) opened (fun t => (getSrc t 63).count == 0 && !(getSrc t 63).windowOpen) = true := by decide +kernel

/-- An episode that names plot 1, of severity DEGRADED, PLOT or TILE, with four merges. -/
def episode (sev : BitVec 3) (st : BitVec 64) : State :=
  { up with sb := { up.sb with epOpen := true, epSev := sev, epId := 7, epMerges := 4, epPlots := 2, status := st } }
theorem test_EpisodesClose_hyps : (episode 3 1).wf = true ∧ (episode 3 1).sb.epOpen = true ∧ bv 8 (0x407 : BitVec 32).toNat = (episode 3 1).sb.epId
    ∧ bv 8 ((0x407 : BitVec 32).toNat / 256) = (episode 3 1).sb.epMerges ∧ ¬ (up.sb.epOpen = true)
    ∧ (episode 3 1).pins.outputsOn = true ∧ (episode 3 1).sb.escSmoke = false ∧ driven up = true
    ∧ (episode 1 1).sb.epSev < 2 ∧ (episode 1 1).wf = true := by decide +kernel
theorem test_EpisodesClose_hyps2 : Permits (episode 3 1) (.core 3) .sbAck 0xC00038 4 ∧ Permits up (.core 3) .sbAck 0xC00038 4
    ∧ Permits up .pf .force 0xC00044 4 ∧ Permits up .pf .sbStatus 0xC00000 8 :=
  ⟨⟨by decide +kernel, by decide +kernel, by decide +kernel, by decide +kernel, by decide +kernel⟩, permits_force.2.1, permits_force.1, permits_force.2.2.1⟩
/-- With source 63 set no snapshot is written (R280), so these need no CRC over 4 KiB. -/
theorem test_ack_closes : ends (.sbAck (.core 3) 0x407) (episode 3 (1#64 <<< 63)) (fun t => !t.sb.epOpen && !t.sb.ackStale && t.sb.snaps == 0) = true := by decide +kernel
theorem test_ack_stale : ends (.sbAck (.core 3) 0x307) (episode 3 1) (fun t => t.sb.epOpen && t.sb.ackStale) = true := by decide +kernel
/-- SB_ACTION's reset value takes QUAR and ALARM at PLOT severity. -/
theorem test_grace_expiry : ends .graceExpiry (episode 3 (1#64 <<< 63)) (fun t => !t.sb.epOpen && t.sb.escalations == 1 && t.sb.escQuar && t.sb.escAlarm
    && !t.sb.escSmoke && (getPlot t 1).state == .quarantined && (getPlot t 0).state == .live) = true := by decide +kernel
theorem test_grace_expiry_tile : ends .graceExpiry (episode 4 (1#64 <<< 63)) (fun t => t.sb.escHgStop && t.sb.escSmoke && !t.pins.tileReady
    && (getPlot t 1).state == .live) = true := by decide +kernel
theorem test_force_smoke : ends (.sbForceSmoke .pf) up (fun t => t.sb.forceSmoke && t.sb.escSmoke && smokePin true t == .low && smokePin false t == .low) = true := by decide +kernel
theorem test_force_stop : ends (.sbForceHgStop .pf) up (fun t => t.sb.forceHgStop && t.sb.escHgStop && tileReadyPin t == .z) = true := by decide +kernel
/-- Source 29's condition persists while the link is lost; source 4's does not. -/
theorem test_status_clear : ends (.sbStatusClear .pf 0x20000010) { episode 3 0x20000010 with hp := { up.hp with lost := true } }
    (fun t => t.sb.status == 0x20000000) = true := by decide +kernel
theorem test_smoke_toggle : ends .smokeToggle up (fun t => t.pins.smokeP) = true := by decide +kernel

def locked : State := { up with sb := { up.sb with cfgLock := true } }
theorem test_RegisterWrites_hyps : up.wf = true ∧ up.pi.pwrok = true ∧ up.hp.up = true ∧ awake up [dFront] = true ∧ up.sb.cfgLock = false
    ∧ locked.wf = true ∧ locked.sb.cfgLock = true ∧ bv 24 (5 : BitVec 64).toNat ≠ locked.sb.graceUs ∧ bv 1 (1 : BitVec 64).toNat ≠ 0
    ∧ (getCore up 1).state = .running ∧ coreIn up 1 = true ∧ coreReach up 1 0xB00000 4 = false := by decide +kernel
/-- Vector 2 of the PF waits, masked. -/
def vectorWaits : State := modVector 0 2 (fun x => { x with masked := true, waits := true }) up
theorem test_RegisterWrites_hyps2 : bv 1 ((2 : BitVec 64).toNat / 2) ≠ bv 1 (b2n up.hg.hearthHold) ∧ (0xC00018 + 2) % 4 ≠ 0
    ∧ (compsOf up 2 = [2] ∧ coreReach up 2 0x180010 2 = true ∧ plotOffset 0x180010 = none)
    ∧ coreReads up 1 0x100010 8 = false ∧ coreReads up 1 0x80000 8 = true ∧ (getCore up 1).state = .running
    ∧ coreReach up 1 (setupBase + 0x200100) 6 = true ∧ 0x200000 ≤ setupBase + 0x200100
    ∧ fnThere up 2 = true ∧ (4 : BitVec 64).getLsbD 2 = true ∧ (0x4000 : BitVec 64).getLsbD 14 = true ∧ (2 : Nat) < vectorCount 0
    ∧ vectorWaits.wf = true ∧ (getVector vectorWaits 0 2).waits = true ∧ hostOpen vectorWaits 0 = true ∧ 0 ∈ vectorWaits.hp.msixOn
    ∧ 0 ∉ vectorWaits.hp.msixMask ∧ fnThere vectorWaits 0 = true := by decide +kernel
theorem test_sched_host_write : ends (.registerWrite .pf 0x200100 4 1) up (fun t => !t.hg.commit && (getSrc t 51).events == 1) = true := by decide +kernel
theorem test_core_sram : ends (.registerWrite (.core 2) 0x180010 2 0xABCD) up (fun t => memRead memDefault t.ch.sram 0x180010 3 == [0xCD, 0xAB, 0])
    && ends (.registerWrite (.coreRead 2) 0x180010 1 0) up (fun t => t.out == [.coreLoad 2 [0]]) = true := by decide +kernel
theorem test_core_read_breach : ends (.registerWrite (.coreRead 1) 0x180000 4 0) up (fun t => t.out.contains (.coreLoad 1 [0, 0, 0, 0])
    && (getCore t 1).lastCause == 3 && (getSrc t 48).events == 1) = true := by decide +kernel
theorem test_bus_master_write : ends (.registerWrite (.cfg 2) 0x04 2 0) up (fun t => t.hp.master == [0, 1])
    && ends (.registerWrite (.cfg 2) 0x04 2 4) { up with hp := { up.hp with master := [] } } (fun t => t.hp.master == [2]) = true := by decide +kernel
theorem test_vector_unmask : ends (.registerWrite (.bar4 0) (16 * 2 + 12) 4 0) vectorWaits (fun t => t.out == [.msix 0 2] && !(getVector t 0 2).waits) = true := by decide +kernel
theorem test_ras_clears : ends (.registerWrite .bar2 0x1100 4 0x4000) { up with hp := { up.hp with rasUncorr := true } } (fun t => !t.hp.rasUncorr) = true := by decide +kernel
theorem test_quota_write : ends (.registerWrite .pf 0xA011F8 8 0x1FFFF) up (fun t => (getPlot t 63).quota == 0x1FFFF && (getPlot t 62).quota == 1024) = true := by decide +kernel
theorem test_locked_write : ends (.registerWrite .pf 0xC00018 4 5) locked (fun t => t.sb.graceUs == 100000 && (getSrc t 51).events == 1) = true := by decide +kernel
theorem test_core_breach : ends (.registerWrite (.core 1) (setupBase + 0xB00010) 4 5) up (fun t => (getCore t 1).state == .restarting && (getCore t 1).lastCause == 3
    && (getSrc t 48).events == 1) = true := by decide +kernel

/-! ## Power, clocks, temperature -/

def wakes (d : Nat) (l : List HeldWrite) : State := { setPower up d .ember with pi := { up.pi with dom := [(d, .ember)], waking := [d], latched := l } }
def latchedTail : HeldWrite := { agent := .vf 1, addr := doorbellAddr 1 0, size := 4, v := 3 }
def frontWakes : State :=
  let s := userTile []
  { s with pi := { s.pi with dom := [(0, .banked)], waking := [0], latched := [latchedTail] } }
theorem test_DomainsWake_hyps : (wakes 2 []).wf = true ∧ (wakes 2 []).pi.waking.contains 2 = true ∧ awake (wakes 2 []) (domNeeds 2) = true
    ∧ (wakes 13 []).wf = true ∧ awake (wakes 13 []) (domNeeds 13) = true
    ∧ frontWakes.wf = true ∧ frontWakes.pi.waking.contains dFront = true
    ∧ frontWakes.pi.latched = [{ agent := .vf 1, addr := doorbellAddr 1 0, size := 4, v := (3 : BitVec 16).setWidth 64 }]
    ∧ globalFur frontWakes 1 0 = some 16 ∧ (getPlot frontWakes 1).state = .live
    ∧ ((getFur frontWakes 16).arm = false ∨ ((getFur frontWakes 16).kind ≠ 2 ∧ (3 : BitVec 16).toNat < 2 ^ (getFur frontWakes 16).sizeLog2.toNat)) := by decide +kernel
/-- Every target DARK; domain `d` one step above it, `e` what it goes to. -/
def deepTile (dom : Tbl Power) : State :=
  { up with pi := { up.pi with dom := dom, domTarget := 0xFFFFFFF }, sc := { up.sc with flushed := true, lines := [{ plot := 1, addr := 0x1000, bytes := [] }] }
            hg := { up.hg with plots := [] }, ba := { up.ba with basin := [(5, 1)] } }
def allEmber : Tbl Power := (List.range 14).map fun d => (d, Power.ember)
theorem test_StepDown_hyps : (deepTile allEmber).wf = true ∧ powerCode (getPower (deepTile allEmber) 2) < depthLimit (deepTile allEmber) 2
    ∧ domainIdle (deepTile allEmber) 2 = true ∧ depthLimit (deepTile allEmber) 13 = 3 ∧ domainIdle (deepTile allEmber) 13 = true
    ∧ (deepTile []).wf = true ∧ getPower (deepTile []) 13 = .stoked ∧ neededByNone (deepTile []) 13 = true ∧ domainIdle (deepTile []) 13 = true
    ∧ powerCode (getPower (deepTile []) 13) < depthLimit (deepTile []) 13
    ∧ awake (deepTile []) [dFront] = true ∧ domainIdle (deepTile []) dFront = true ∧ 0 < depthLimit (deepTile []) dFront ∧ (deepTile []).pi.trip = false := by decide +kernel
/-- Firebox 0 has a quarter of slot 8, in full mode; Canal 0 of a gang is enabled. -/
def slotDeep : State := { deepTile allEmber with ap := { up.ap with slots := [(8, { word := .a96, entries := [(0, 5), (64, 6)] })] } }
def canalHeld : State := { up with pi := { up.pi with dom := [(10, .banked)] }, cn := { up.cn with form := true, ports := [(0, { en := true, state := .phyTrain })] } }
theorem test_StepDown_hyps2 : slotDeep.wf = true ∧ powerCode (getPower slotDeep 4) < depthLimit slotDeep 4 ∧ domainIdle slotDeep 4 = true
    ∧ slotDeep.pi.pwrok = true ∧ slotDeep.pi.trip = false ∧ slotDeep.pins.vaux12Lost = false ∧ slotDeep.pi.waking.contains 4 = false
    ∧ getPower slotDeep 4 = .ember ∧ slotDeep.sc.flushed = true
    ∧ canalHeld.cn.form = true ∧ (getPort canalHeld 0).en = true ∧ getPower canalHeld (dCanal 0) ≠ .stoked
    ∧ depthLimit up 4 ≤ powerCode (getPower up 4) ∧ getPower (deepTile []) 2 = .stoked ∧ neededByNone (deepTile []) 2 = false := by decide +kernel
theorem test_step_down_quarter : ends (.domainStepDown 4) slotDeep (fun t => getPower t 4 == .dark
    && (List.range 128).all fun i => tblGet (entryDef .a96) (getSlot t 8).entries i
        == if entryQuarter false 8 (getSlot slotDeep 8) i = 0 then emptyWord .a96 else tblGet (entryDef .a96) (getSlot slotDeep 8).entries i) = true := by decide +kernel
theorem test_gang_holds_canal : ends (.domainStepDown 10) canalHeld (· == canalHeld) = true := by decide +kernel
theorem test_step_down : ends (.domainStepDown 2) (deepTile allEmber) (fun t => getPower t 2 == .dark && t.ba.basin.isEmpty) = true := by decide +kernel
/-- CHIMNEY goes no deeper than EMBER. -/
theorem test_chimney_stays : ends (.domainStepDown 1) (deepTile allEmber) (fun t => getPower t 1 == .ember) = true := by decide +kernel
theorem test_tail_delivered : ends (.domainWakeComplete 0) frontWakes (fun t => (getFur t 16).tail == 3 && getPower t 0 == .stoked && t.pi.latched.isEmpty) = true := by decide +kernel
theorem test_flush : ends .scuttleFlush (deepTile []) (fun t => t.sc.lines.isEmpty && t.out == [.evict 1 0x1000]) = true := by decide +kernel

def hot : State := { up with pi := { up.pi with alert := true, clamp := true, hclkLevel := 2 } }
theorem test_Heat_hyps : hot.wf = true ∧ hot.pi.tAlert.toNat ≤ 95 ∧ hot.pi.alert = true ∧ 94 < hot.pi.tAlert.toNat ∧ hot.pi.tAlert.toNat < 91 + 5
    ∧ 90 + 5 ≤ hot.pi.tAlert.toNat ∧ up.wf = true ∧ up.pi.tAlert.toNat ≤ 95 ∧ up.pi.alert = false ∧ up.pi.trip = false ∧ up.pi.refAbsent = false := by decide +kernel
theorem test_alert_sets : ends (.thermalSample 95) up (fun t => t.pi.alert && t.pi.clamp && t.pi.hclkLevel == 2 && t.pi.tempMax == 95) = true := by decide +kernel
theorem test_alert_clears : ends (.thermalSample 90) hot (fun t => !t.pi.alert && !t.pi.clamp && t.pi.tempMax == 90)
    && ends (.thermalSample 91) hot (fun t => t.pi.alert) = true := by decide +kernel
theorem test_trip : ends (.thermalTrip 115) up (fun t => t.pi.trip && getPower t 1 == .ember && getPower t 0 == .dark && t.sb.status.getLsbD 45)
    && ends (.thermalTrip 114) up (fun t => !t.pi.trip) = true := by decide +kernel
/-- CHIMNEY is DARK after the loss of VAUX12, and stays so. -/
theorem test_trip_dark : ends (.thermalTrip 115) { up with pi := { up.pi with dom := [(1, .dark)] } } (fun t => getPower t 1 == .dark) = true := by decide +kernel
theorem test_ref_loss : ends .refLoss up (fun t => t.pi.refLost && !t.pi.refLocked && t.sb.status.getLsbD 42) = true := by decide +kernel
theorem test_ref_lock : ends .refLock { up with pi := { up.pi with refLocked := false, refAbsent := true } } (fun t => t.pi.refLocked && !t.pi.refAbsent) = true := by decide +kernel

def choice (l : BitVec 3) : GovChoice := { level := l, target := 5, ign := [(1, 9)], power := 350, capBelowMin := false, mode := none }
def ptmTile : State := { up with pi := { up.pi with ptmTrigger := true, ptmPeriod := 10 } }
def badWord : State := { up with ba := { up.ba with basinBad := [0] } }
theorem test_Governor_hyps : up.wf = true ∧ compRuns up 3 = true ∧ up.pi.phase = .ready ∧ up.pi.trip = false ∧ up.pi.clkMin ≤ up.pi.clkMax
    ∧ up.pi.clkMin ≤ (choice 4).level ∧ (choice 4).level ≤ up.pi.clkMax ∧ up.pi.clamp = false ∧ up.pi.modePolicy = 0 ∧ (choice 4).mode = none
    ∧ (let s : State := { up with pi := { up.pi with hclkNext := some 4 } }; s.pi.hclkNext = some 4)
    ∧ ptmTile.pi.ptmTrigger = true ∧ ptmTile.hp.up = true ∧ ptmTile.pi.ptmPeriod ≠ 0
    ∧ up.ba.scrubEn = true ∧ awake up [dBasin] = true ∧ basinCap up ≠ 0 ∧ readBad false up (8 * up.ba.scrubPos) 8 = false
    ∧ badWord.wf = true ∧ readBad false badWord (8 * badWord.ba.scrubPos) 8 = true := by decide +kernel
/-- Tile time in the last Pilot clock of a step pattern, and before it. -/
def patternAt (left : Nat) : State :=
  { up with pi := { up.pi with stepSeed := 0, stepPos := patternClocks 0 - left, stepLeft := if left = 1 then 21 else 20 * left } }
theorem patternClocks_pos : 49999000 ≤ patternClocks 0 := Nat.le_add_right _ _
theorem test_StepPattern_hyps : patternClocks (patternAt 1).pi.stepSeed - (patternAt 1).pi.stepPos = 1 ∧ 19 * 1 ≤ (patternAt 1).pi.stepLeft
    ∧ (patternAt 1).pi.stepLeft ≤ 21 * 1 ∧ (patternAt 1).pi.everLocked = true
    ∧ patternClocks (patternAt 2).pi.stepSeed - (patternAt 2).pi.stepPos = 2 ∧ 19 * 2 ≤ (patternAt 2).pi.stepLeft ∧ (patternAt 2).pi.stepLeft ≤ 21 * 2 := by
  have h := patternClocks_pos
  refine ⟨?_, by decide, by decide, rfl, ?_, by decide, by decide⟩
  · show patternClocks 0 - (patternClocks 0 - 1) = 1
    omega
  · show patternClocks 0 - (patternClocks 0 - 2) = 2
    omega
theorem test_Governor_hyps2 : (choice 4).power ≤ up.pi.powerCap ∧ up.pi.powerCap < ({ choice 4 with power := 900 } : GovChoice).power ∧ up.pi.hclkLevel ≠ 0
    ∧ ({ up with pi := { up.pi with clkMin := 6 } } : State).pi.clkMin ≤ up.pi.clkMax ∧ govMode up (choice 4).mode = none := by decide +kernel
/-- Above POWER_CAP the level steps down, whatever the policy's choice (R233). -/
theorem test_power_cap : ends (.governorTick { choice 6 with power := 900 }) up (fun t => t.pi.hclkNext == some 5 && !t.pi.capped) = true := by decide +kernel
theorem test_Time_hyps : Permits up (.core 0) .timeAdj 0x100028 8 ∧ Permits up (.core 0) .ptmCtl 0x100030 4 := ⟨permits_force.2.2.2.1, permits_force.2.2.2.2⟩
theorem test_governor_tick : ends (.governorTick (choice 4)) up (fun t => t.pi.hclkNext == some 4 && t.pi.domTarget == 5 && t.pi.powerW == 350) = true := by decide +kernel
theorem test_hclk_change : ends .hclkChange { hot with pi := { hot.pi with hclkNext := some 4 } } (fun t => t.pi.hclkLevel == 2 && t.pi.hclkNext == none) = true := by decide +kernel
theorem test_time_adj : ends (.timeAdj (.core 0) 0x100) { up with pi := { up.pi with time := 0xFFFFFFFFFFFFFF80 } } (fun t => t.pi.time == 0x80) = true := by decide +kernel
theorem test_ptm_trigger : ends (.ptmTrigger (.core 0)) { up with pi := { up.pi with ptmPeriod := 10 } } (fun t => t.pi.ptmTrigger && t.pi.ptmPeriod == 10)
    && ends .ptmPeriod { up with pi := { up.pi with ptmPeriod := 10 } } (fun t => t.pi.ptmTrigger) = true := by decide +kernel
theorem test_ptm_done : ends (.ptmDialogueDone (some 77)) ptmTile (fun t => t.pi.ptmValid && t.pi.ptmHost == 77 && t.pi.ptmSeq == 1 && !t.pi.ptmTrigger) = true := by decide +kernel
theorem test_patrol : ends (.patrolScrub .corrected) up (fun t => t.ba.basinCorr == 1 && t.ba.scrubPos == 1)
    && ends (.patrolScrub .clean) badWord (fun t => t.ba.basinUncorr == 1 && t.sb.status.getLsbD 18) = true := by decide +kernel

/-! ## Rails, resets, start-up, management -/

def off : State := { up with pi := { up.pi with pwrok := false } }
def noVaux : State := { up with pins := { up.pins with vaux12Lost := true } }
def port3On : State := setPort up 3 { en := true }
theorem test_Rails_hyps : off.pi.pwrok = false ∧ up.pi.pwrok = true ∧ up.wf = true ∧ up.pins.vaux12 = true ∧ up.pi.hrstLow = false
    ∧ up.pins.vaux12Lost = false ∧ up.pi.trip = false ∧ noVaux.wf = true ∧ noVaux.pins.vaux12Lost = true ∧ (getPort up 3).en = false
    ∧ port3On.wf = true ∧ (getPort port3On 3).en = true := by decide +kernel
def noLink : State := { up with hp := {} }
def waitsVaux : State := { up with pi := { up.pi with phase := .waitVaux, dom := allDark }, pins := { up.pins with vaux12 := false } }
def lowReset : State := { noVaux with pi := { up.pi with hrstLow := true }, pins := { noVaux.pins with vaux12 := false } }
theorem test_Rails_hyps2 : noLink.wf = true ∧ noLink.hp.up = false ∧ waitsVaux.pi.phase = .waitVaux ∧ waitsVaux.pins.vaux12 = false
    ∧ lowReset.pi.phase ≠ .waitVaux ∧ lowReset.pi.hrstLow = true ∧ noVaux.pi.phase ≠ .waitVaux ∧ noVaux.pi.hrstLow = false
    ∧ startingUp BootPhase.bringUp = true ∧ up.hp.up = true ∧ State.reset.pi.phase = .boot := by decide +kernel
/-- The loss during HRST_L takes every domain down too; nothing but the next reset brings power back. -/
theorem test_vaux_loss_in_reset : ends .vaux12Loss { up with pi := { up.pi with hrstLow := true } } (fun t => getPower t 1 == .dark && getPower t 2 == .dark)
    && ends .vaux12InRange noVaux (fun t => t.pins.vaux12Lost) && ends .vaux12InRange lowReset (fun t => !t.pins.vaux12Lost && getPower t 1 == .stoked) = true := by decide +kernel
theorem test_power_up : ends (.powerUp { hostMode := 1, tileId := 5, bootSrc := true }) off (fun t => t.pi.pwrok && t.pi.phase == .boot && t.pins.strapTile == 5
    && t.pins.strapBoot && (getPlot t 1).state == .none) = true := by decide +kernel
theorem test_power_down : ends .powerDown up (fun t => !t.pi.pwrok && tileReadyPin t == .z && alarmL t == .z && getPower t 2 == .dark && t.ch.minSvn == 2) = true := by decide +kernel
theorem test_io_rail : ends .ioRailLoss up (fun t => !t.pi.pwrok && smokePin false t == .z && t.flash == up.flash) = true := by decide +kernel
theorem test_vaux_loss : ends .vaux12Loss up (fun t => t.pins.vaux12Lost && getPower t 1 == .dark && (getCore t 0).state == .held && !t.hp.up
    && t.sb.status.getLsbD 46 && t.sb.status.getLsbD 29 && t.hp.lost) = true := by decide +kernel
theorem test_vaux_in_range : ends .vaux12InRange { up with pi := { up.pi with phase := .waitVaux }, pins := { up.pins with vaux12 := false } }
    (fun t => t.pi.phase == .boot && t.pins.vaux12) = true := by decide +kernel
theorem test_vflash : ends .vflashLoss up (fun t => !t.pins.vflash) && ends .vflashReturn up (fun t => t.pins.vflash) = true := by decide +kernel
theorem test_trace_port : ends (.tracePortEnable true) port3On (fun t => !t.pins.traceEn && t.hg.conflictTrace && t.sb.status.getLsbD 54)
    && ends (.tracePortEnable true) up (fun t => t.pins.traceEn) = true := by decide +kernel

def inReset : State := { up with pi := { up.pi with hrstLow := true } }
def warm : State := { up with pi := { up.pi with warmDue := true, resetLevel := 2, service := 0x3E0863FB } }
/-- A warm reset of a tile whose cores are held: the code hashes are not looked at. -/
def warmHeld : State := { warm with ch := { warm.ch with cores := [] } }
def warmRecovery : State := { warm with pi := { warm.pi with phase := .recovery } }
theorem test_Resets_hyps : up.wf = true ∧ up.pi.pwrok = true ∧ up.pi.hrstLow = false ∧ (episode 3 1).wf = true ∧ (episode 3 1).sb.epOpen = true ∧ up.sb.epOpen = false
    ∧ inReset.pi.pwrok = true ∧ inReset.pi.hrstLow = true ∧ warm.wf = true ∧ warm.pi.warmDue = true ∧ warm.pins.vaux12Lost = false ∧ warm.pi.phase ≠ .recovery
    ∧ warmRecovery.wf = true ∧ warmRecovery.pi.warmDue = true ∧ warmRecovery.pi.phase = .recovery := by decide +kernel
def warmStopped : State := { warm with pi := { warm.pi with phase := .stopped } }
theorem test_Resets_hyps2 : warmStopped.wf = true ∧ warmStopped.pi.warmDue = true ∧ warmStopped.pi.phase = .stopped ∧ warmStopped.pins.vaux12Lost = false
    ∧ warm.pi.phase ≠ .stopped ∧ warm.pi.mctpHeld = [] ∧ up.pi.warmDue = false ∧ noVaux.pins.vaux12Lost = true ∧ off.pi.pwrok = false := by decide +kernel
theorem test_warm_stopped : ends .warmReset warmStopped (fun t => !t.pi.warmDue && t.pi.phase == .stopped) = true := by decide +kernel
theorem test_hrst : ends .hrstL { up with pi := { up.pi with time := 99, health := 1#128 <<< 64 }, sb := { up.sb with status := 5, escAlarm := true } }
    (fun t => t.pi.hrstLow && t.pi.time == 99 && t.pi.health == 1#128 <<< 64 && t.sb.status == 5 && !t.sb.escAlarm && alarmL t == .z && t.pi.resetLevel == 1)
    && ends .hrstL { up with pi := { up.pi with phase := .boot, resetLevel := 0 } } (fun t => t.pi.resetLevel == 0) = true := by decide +kernel
theorem test_hrst_release : ends (.hrstLRelease { hostMode := 0, tileId := 2, bootSrc := false }) { inReset with pins := { inReset.pins with outputsOn := false } }
    (fun t => !t.pi.hrstLow && t.pi.phase == .boot && t.pins.strapTile == 2 && t.pins.outputsOn) = true := by decide +kernel
theorem test_warm_reset : ends .warmReset warmHeld (fun t => !t.pi.warmDue && t.pi.service == 0x3E0863F8 && t.pins.tileReady && (getPlot t 1).state == .none
    && (getPlot t 0).state == .live && (getPlot t 0).furCount == 64 && (getPlot t 0).resets == 1) = true := by decide +kernel
theorem test_warm_recovery : ends .warmReset warmRecovery (fun t => !t.pi.warmDue && t.pi.phase == .recovery) = true := by decide +kernel

/-- Start-up with the flash rail out: no record bank and no slot can be read. -/
def booting (strap : Bool) (health : BitVec 128) : State :=
  { up with pi := { up.pi with phase := .boot, resetLevel := 1, health := health }, pins := { up.pins with strapBoot := strap, vflash := false, tileReady := false } }
theorem test_Boot_hyps : (booting false 0).wf = true ∧ (booting true 0).wf = true ∧ (booting true 0).pi.phase = .boot ∧ (booting true 0).pi.pwrok = true ∧ (booting true 0).pi.trip = false
    ∧ (booting true 0).pins.vaux12Lost = false ∧ (booting true 0).pins.vaux12 = true ∧ coreIn (readRecord (booting true 0)) 0 = true ∧ (booting true 0).pins.strapBoot = true
    ∧ (booting false (1#128 <<< 48)).wf = true ∧ coreIn (readRecord (booting false (1#128 <<< 48))) 0 = false
    ∧ slotFail (readRecord (booting false 0)) true ≠ 0 ∧ slotFail (readRecord (booting false 0)) false ≠ 0 := by decide +kernel
/-- A board whose flash is too small: SFDP does not report 64 MiB to 256 MiB (R330). -/
def smallFlash : State := { up with pins := { up.pins with flashMiB := 32 } }
theorem test_Boot_hyps2 : smallFlash.pins.flashMiB < 64 ∧ slotFail smallFlash true = 6 ∧ up.pins.vflash = true ∧ 64 ≤ up.pins.flashMiB ∧ up.pi.phase ≠ .boot := by decide +kernel
theorem test_boot_recovery : ends .bootVerify (booting true 0) (fun t => t.pi.phase == .recovery && !t.ch.flashFail) = true := by decide +kernel
theorem test_boot_without_core0 : ends .bootVerify (booting false (1#128 <<< 48)) (fun t => t.pi.phase == .stopped && levelOf t == 3) = true := by decide +kernel

/-- A header of an image whose body is one page of zeros, its four compartments empty, SVN 5. -/
def header : List Byte := body 4096 [(0, 4, 0x50484F41), (4, 2, 1), (8, 4, 7), (12, 4, 5), (16, 2, 0x100), (24, 4, 4096), (608, 4, 9), (612, 4, 0xFFFFFFF6)]
def page : List Byte := List.replicate 4096 0
/-- It passes every check that does not rest on a key or a hash; those rest on free functions. -/
theorem test_image_checks (k : keyOk header = true) (g : signOk header page = true) (c : compOk header page = true) :
    imageFail header page 2 = 0 := by
  have h : headerOk header = true := by decide +kernel
  have n : leAt header 12 4 = 5 := by decide +kernel
  simp [imageFail, h, k, g, c, n]
theorem test_image_svn (k : keyOk header = true) : imageFail header page 6 = 3 := by
  have h : headerOk header = true := by decide +kernel
  have n : leAt header 12 4 = 5 := by decide +kernel
  simp [imageFail, h, k, n]
def recovering : State := { up with pi := { up.pi with phase := .recovery } }
theorem test_Recovery_hyps : recovering.wf = true ∧ recoveryAgent recovering = true ∧ recovering.pins.vaux12Lost = false
    ∧ (header ++ page).length = 4096 + bodySize header ∧ ([] : List Byte).length ≠ 4096 + bodySize (padTo 4096 []) := by decide +kernel
theorem test_recovery_short : ends (.recoveryImage ⟨1, [1, 2]⟩) recovering (fun t => t.out == [.mgmt [1]] && t.pi.phase == .recovery)
    && ends (.recoveryImage ⟨2, [1, 2]⟩) recovering (fun t => t.out == [.mgmt [7]]) = true := by decide +kernel

def bringing : State := { up with pi := { up.pi with phase := .bringUp, service := 3 }, hg := { up.hg with plots := [] } }
theorem test_BringUp_hyps : bringing.wf = true ∧ bringing.pi.phase = .bringUp ∧ compRuns bringing 0 = true ∧ awake bringing [dChimney] = true ∧ compRuns bringing 3 = true
    ∧ (∀ c, c < 4 → (0x0 : BitVec 128).getLsbD (coreBit c) = false) ∧ serviceLevel bringing < 2 := by
  refine ⟨by decide +kernel, by decide +kernel, by decide +kernel, by decide +kernel, by decide +kernel, fun _ _ => by simp, by decide +kernel⟩
/-- The words of 15_reset_and_bringup: a whole tile, and one whose start-up the text works out. -/
theorem test_bring_up : ends (.bringUp 0) bringing (fun t => t.pi.service == 0x3E0863F8 && t.pi.phase == .ready && t.pins.tileReady && (getPlot t 0).furCount == 64
    && (getFur t 63).localIdx == 63) = true := by decide +kernel
theorem test_bring_up_bank : ends (.bringUp (1#128 <<< (bankBit 2))) bringing (fun t => outBit t (bankBit 2) && !t.ba.bankIn.getLsbD 2 && levelOf t == 1) = true := by decide +kernel

def updated : State := { up with ch := { up.ch with updSlot := some true } }
theorem test_Update_hyps : up.wf = true ∧ agentRuns up = true ∧ up.pi.phase = .ready ∧ up.pins.vflash = true ∧ ([] : List Byte).length ≤ 0x01000000
    ∧ updated.wf = true ∧ agentRuns updated = true ∧ updated.ch.updSlot = some true ∧ up.ch.updSlot = none := by decide +kernel
/-- An update whose image is no image: the slot that did not boot keeps no header. -/
theorem test_update_bad_image : ends (.pldmFirmwareUpdate ⟨1, [0x41]⟩) up (fun t => t.out.length == 1 && t.out != [.mgmt [0]] && t.ch.updSlot == none)
    && ends (.pldmFirmwareUpdate ⟨7, []⟩) up (fun t => t.out == [.mgmt [7]] && t.ch.updSlot == none) = true := by decide +kernel
theorem test_activate_refused : ends .firmwareActivate up (fun t => t.out == [.mgmt [1]]) = true := by decide +kernel
theorem test_update_no_flash : ends (.pldmFirmwareUpdate ⟨1, []⟩) { up with pins := { up.pins with vflash := false } } (fun t => t.out == [.mgmt [6]] && t.flash == up.flash) = true := by decide +kernel

def restarting0 : State := { up with ch := { up.ch with cores := tblSet coreDef up.ch.cores 0 { state := .restarting } } }
theorem test_Management_hyps : recoveryAgent recovering = true ∧ recovering.hp.i3c = false ∧ recoveryAgent up = false ∧ agentRuns up = true ∧ imageAgent up = true
    ∧ up.wf = true ∧ (2 : BitVec 8) ≠ 0 ∧ (2 : BitVec 8) ≠ 1 ∧ (2 : BitVec 8) ≠ 5 ∧ sensorValue up 0 = some 0 ∧ sensorValue up 5 = some 0 ∧ up.pins.vflash = true
    ∧ recoveryAgent restarting0 = false ∧ imageAgent restarting0 = true ∧ agentRuns restarting0 = false ∧ restarting0.pi.mctpHeld.length < heldRoom := by decide +kernel
theorem test_Management_hyps2 : measurements up 0 = some [5] ∧ (measurements up 255).isSome = true ∧ measurements up 6 = none := ⟨rfl, rfl, rfl⟩
/-- A chain of any length is offered from its first byte on. -/
theorem test_Certificate_hyps (h : 0 < Config.certLength) (k : Config.certOffset < 0x100000) : 0 < (certChain up).length := by
  simp only [certChain, readFlash, memRead, List.length_map, List.length_range]
  omega
def hostGone : State := { up with hp := { up.hp with up := false } }
theorem test_Management_hyps3 : portLive up = true ∧ up.hp.i3c = false ∧ portLive off = false ∧ ({ up.hp with i3c := true } : HostPort).i3c = true
    ∧ hostGone.hp.up = false ∧ up.pi.phase = .ready ∧ bringing.pi.phase ≠ .ready ∧ agentRuns bringing = true ∧ recoveryAgent bringing = false
    ∧ (let s : State := { up with pi := { up.pi with dom := [(1, .banked)] } }
       recoveryAgent s = false ∧ imageAgent s = true ∧ agentRuns s = false ∧ awake s [dChimney] = false ∧ s.pi.trip = false ∧ s.pins.vaux12 = true
        ∧ s.pins.vaux12Lost = false) := by decide +kernel
def asked (m : List Byte) : State := { up with hp := { up.hp with doe := Claims.spdmObject m } }
theorem test_Management_doe_hyps : (recoveryAgent (asked [0x12, 0x84, 0, 0]) = false ∧ agentRuns (asked [0x12, 0x84, 0, 0]) = true) ∧ fnThere (asked [0x12, 0x84, 0, 0]) 0 = true
    ∧ leAt [0x12, 0x82, 0, 0, 0, 0, 8, 0] 1 1 = 0x82 ∧ leAt [0x12, 0x82, 0, 0, 0, 0, 8, 0] 4 2 = 0 ∧ leAt [0x12, 0xE4, 0, 0] 1 1 = 0xE4 := by decide +kernel
theorem test_doe_asks : ends Claims.doeGo (asked [0x12, 0x84, 0, 0]) (fun t => t.out == [.doe spdmOffer] && t.hp.doe == [])
    && ends Claims.doeGo (asked [0x12, 0xE4, 0, 0]) (fun t => t.out == [.doe spdmError])
    && ends Claims.doeGo { up with hp := { up.hp with doe := [0x98, 0x1E, 2, 0, 3, 0, 0, 0, 0, 0, 0, 0] } } (fun t => t.out == [.doe (cdat up)]) = true := by decide +kernel
theorem test_doe_mailbox : ends (.registerWrite (.cfg 0) 0x1D0 4 0) up (fun t => t.hp.doe == [0, 0, 0, 0]) = true := by decide +kernel
theorem test_address : ends (.entdaa 9) up (fun t => t.hp.i3c && t.hp.dynAddr == 9) && ends .rstdaa { up with hp := { up.hp with i3c := true, dynAddr := 9 } }
    (fun t => !t.hp.i3c && t.hp.dynAddr == 0) = true := by decide +kernel
theorem test_eid : ends (.setEndpointId 0x22) up (fun t => t.hp.eid == 0x22) && ends (.mctpControl 2 0) { up with hp := { up.hp with eid := 0x22 } }
    (fun t => t.out == [.mgmt [0, 2, 0, 0x22, 0, 0]]) = true := by decide +kernel
theorem test_unknown_type : ends (.mctpControl 0 0x7E) up (fun t => (getSrc t 31).events == 1 && t.out == [.ch3Local 31]) = true := by decide +kernel
theorem test_sensor : ends (.pldmMonitoring 3) up (fun t => t.out == [.mgmt [0, 6, 0, 0, 0]]) = true := by decide +kernel
theorem test_held_update : ends (.pldmFirmwareUpdate ⟨1, [9]⟩) restarting0 (fun t => t.out == [] && t.pi.mctpHeld == [.update 1 [9]]) = true := by decide +kernel
theorem test_held_message : ends (.pldmMonitoring 3) restarting0 (fun t => t.out == [] && t.pi.mctpHeld == [.sensor 3]) = true := by decide +kernel
/-- The worked part of 15_reset_and_bringup: Firebox 1, bank 7 and stack 3 out. -/
theorem test_bring_up_reduced : ends (.bringUp 0) { bringing with pi := { bringing.pi with health := 2#128 <<< 32 ||| 0x08000080#128 <<< 64 } }
    (fun t => t.pi.service == 0x3E075FD1 && basinCap t == 736 * 2 ^ 20 && hbmCap t == 168 * 2 ^ 30 && t.he.modeCur && t.pins.tileReady) = true := by decide +kernel

/-! ## The host port -/

/-- Decoder 0 committed over all of HBM. -/
def cxlTile : State := { up with ba := { up.ba with hdmCommitted := true, hdmSize := hbmCap up } }
def sleepHbm (s : State) : State := { s with pi := { s.pi with dom := [(3, .ember)] } }
def poisonTile : State := { cxlTile with ba := { cxlTile.ba with hbmBad := [8] } }
theorem test_HostRequests_hyps : cxlTile.wf = true ∧ memDecoded cxlTile 0x40 = true ∧ memDecoded cxlTile (hbmCap up - 1) = true ∧ hbmServes cxlTile = true
    ∧ inSomeWindow cxlTile (granule 0x40) = true ∧ readBad true cxlTile (granule 0x40) 64 = false ∧ cxlTile.ba.stackFail = 0
    ∧ poisonTile.wf = true ∧ memDecoded poisonTile 0x7F = true ∧ readBad true poisonTile (granule 0x7F) 64 = true
    ∧ inSomeWindow cxlTile (granule 0x20000000) = false ∧ inSomeWindow cxlTile (granule 0x1FFFFFFF) = true ∧ cxlTile.ba.straySeen = false
    ∧ (sleepHbm cxlTile).wf = true ∧ memDecoded (sleepHbm cxlTile) 0 = true ∧ hbmServes (sleepHbm cxlTile) = false := by decide +kernel
def frontSleeps : State := { up with pi := { up.pi with dom := [(0, .banked)] } }
def lockedDecoder : State := { cxlTile with ba := { cxlTile.ba with hdmLock := true } }
theorem test_HostRequests_hyps2 : up.pi.pwrok = true ∧ up.hp.up = true ∧ up.hp.cxl = true ∧ awake up [dFront] = true ∧ awake frontSleeps [dFront] = false
    ∧ frontSleeps.hp.cxl = true ∧ 2 ≤ up.hp.numVfs ∧ up.wf = true ∧ up.ba.hdmLock = false ∧ hdmOk up 0 (hbmCap up) 2 0 = false ∧ hdmOk up 1 (hbmCap up) 1 0 = false
    ∧ hbmCap up ≠ 0 ∧ hbmCap up % 2 ^ 28 = 0 ∧ lockedDecoder.ba.hdmLock = true ∧ lockedDecoder.ba.hdmCommitted = true := by decide +kernel
/-- HBM at host address 2^40, and a stray access after another. -/
def highTile : State := { cxlTile with ba := { cxlTile.ba with hdmBase := 2 ^ 40 } }
def strayTile : State := { cxlTile with ba := { cxlTile.ba with straySeen := true, strayCount := 1 } }
theorem test_HostRequests_hyps3 : memDecoded highTile (2 ^ 40 + 0x40) = true ∧ deviceAddr highTile (2 ^ 40 + 0x40) = 0x40 ∧ memDecoded highTile 0x40 = false
    ∧ strayTile.wf = true ∧ inSomeWindow strayTile (granule (deviceAddr strayTile 0x20000000)) = false ∧ memDecoded strayTile 0x20000000 = true
    ∧ strayTile.ba.straySeen = true ∧ hbmServes strayTile = true ∧ memDecoded (sleepHbm cxlTile) 0x40 = true ∧ up.ba.hdmCommitted = false
    ∧ up.hp.numVfs < 63 ∧ noLink.hp.cxl = false := by decide +kernel
theorem test_cxl_base : ends (.cxlMemRead (2 ^ 40 + 0x41)) { highTile with ba := { highTile.ba with hbm := [(0x40, 9)] } }
    (fun t => t.out == [.cxlData (9 :: List.replicate 63 0) false]) = true := by decide +kernel
theorem test_cxl_stray_once : ends (.cxlMemRead 0x20000000) strayTile (fun t => t.ba.strayCount == 2 && t.sb.status == 0) = true := by decide +kernel
theorem test_cxl_read : ends (.cxlMemRead 0x41) { cxlTile with ba := { cxlTile.ba with hbm := [(0x40, 9)] } } (fun t => t.out == [.cxlData (9 :: List.replicate 63 0) false]) = true := by decide +kernel
theorem test_cxl_stray : ends (.cxlMemRead 0x20000000) cxlTile (fun t => t.ba.straySeen && t.ba.strayCount == 1 && t.sb.status.getLsbD 56) = true := by decide +kernel
theorem test_cxl_write : ends (.cxlMemWrite 0x41 [7]) cxlTile (fun t => t.ba.hbm == [(0x40, 7)] && t.out == [.cxlDone]) = true := by decide +kernel
theorem test_cxl_wakes : ends (.cxlMemRead 0) (sleepHbm cxlTile) (fun t => t.pi.waking.contains 3 && t.out == []) = true := by decide +kernel
theorem test_snoop : ends (.cxlCacheSnoop 0x1010) { up with sc := { up.sc with lines := [{ plot := 1, addr := 0x1000, bytes := [] }, { plot := 1, addr := 0x1040, bytes := [] }] } }
    (fun t => t.out == [.snoopResp true] && t.sc.lines.map (·.addr) == [0x1040]) = true := by decide +kernel
theorem test_ats : ends (.atsInvalidation 1 0x1000 0x1000) { up with sc := { up.sc with trans := [⟨1, 0x1000, 0x70000⟩, ⟨2, 0x1000, 0x71000⟩, ⟨1, 0x2000, 0x72000⟩] } }
    (fun t => t.sc.trans == [⟨2, 0x1000, 0x71000⟩, ⟨1, 0x2000, 0x72000⟩] && t.out == [.atsDone 1]) = true := by decide +kernel
theorem test_hdm_commit : ends (.hdmCommit 0 (hbmCap up) 1 0 true) up (fun t => t.ba.hdmCommitted && t.ba.hdmLock && !t.ba.hdmError)
    && ends (.hdmCommit 0 (hbmCap up) 2 0 true) up (fun t => t.ba.hdmError && !t.ba.hdmLock) = true := by decide +kernel
theorem test_hdm_uncommit : ends .hdmDecoderUncommit cxlTile (fun t => !t.ba.hdmCommitted) && ends .hdmDecoderUncommit lockedDecoder (fun t => t.ba.hdmCommitted) = true := by decide +kernel
theorem test_cdat : ends .doeCdatRead up (fun t => t.out.length == 1) = true := by decide +kernel

def quarantined1 : State := { up with hg := { up.hg with plots := [(0, plot0), (1, { plot1 with state := .quarantined })] } }
/-- UCIe mode, three modules, then one. -/
def ucie (m : BitVec 4) : State := { up with pins := { up.pins with strapHost := 0 }, hp := { up.hp with modules := m, carry := linkModules m, lanes := 32 } }
def linkOff (mode : BitVec 2) : State := { up with pins := { up.pins with strapHost := mode }, hp := {} }
theorem test_Functions_hyps : up.wf = true ∧ up.hp.up = true ∧ (getPlot up 2).state = .none ∧ (getPlot up 1).state = .live ∧ 2 ≤ up.hp.numVfs
    ∧ quarantined1.wf = true ∧ (getPlot quarantined1 1).state = .quarantined ∧ quarantined1.hp.up = true
    ∧ up.pi.phase = .ready ∧ up.pi.warmDue = false ∧ up.pi.pwrok = true ∧ 2 ∈ up.hp.master ∧ up.hp.numVfs < 63 ∧ 0 < up.hp.numVfs
    ∧ (ucie 0xE).wf = true ∧ (ucie 0xE).pins.strapHost = 0 ∧ (ucie 0xE).hp.modules.getLsbD 3 = true ∧ setBit (ucie 0xE).hp.modules 3 false ≠ 0 ∧ compRuns (ucie 0xE) 3 = true
    ∧ (ucie 1).wf = true ∧ (ucie 1).hp.modules.getLsbD 0 = true ∧ setBit (ucie 1).hp.modules 0 false = 0
    ∧ phyCan (linkOff 0) = true ∧ (linkOff 0).pins.strapHost = 0 ∧ (0xF : BitVec 4) &&& modulesIn (linkOff 0) ≠ 0 ∧ phyCan (linkOff 1) = true := by decide +kernel
def warmUp (p : BootPhase) : State := { up with pi := { up.pi with phase := p, warmDue := true, warmCause := 2, warmCount := 1 } }
theorem test_Functions_hyps2 : (warmUp .ready).wf = true ∧ (warmUp .ready).pi.warmDue = true ∧ (warmUp .ready).hp.up = true
    ∧ ({ up with pi := { up.pi with phase := .stopped } } : State).pi.phase = .stopped ∧ 1 ≤ up.hp.numVfs ∧ hostGone.hp.up = false
    ∧ (linkOff 2).pins.strapHost ≠ 0 ∧ (linkOff 2).pins.strapHost ≠ 1 ∧ phyCan (linkOff 2) = true ∧ phyCan up = false
    ∧ (0 : BitVec 4) &&& modulesIn (linkOff 0) = 0 := by decide +kernel
theorem test_flr_joins_warm : ends (.vfFlr 1) (warmUp .ready) (fun t => (getPlot t 1).epoch == 0 && t.out == [.flrDone 1] && t.hp.master == [0, 2])
    && ends .pfFlr (warmUp .ready) (fun t => t.pi.warmCause == 2 && t.pi.warmCount == 1) = true := by decide +kernel
/-- Modules 1, 2 and 3 work: the link runs on 1 and 2. -/
theorem test_link_modules : linkModules 0xE = 6 ∧ linkModules 0xF = 0xF ∧ linkModules 8 = 8 ∧ moduleSet 0xE = 2 := by decide +kernel
theorem test_vf_flr : ends (.vfFlr 1) up (fun t => (getPlot t 1).epoch == 1 && (getPlot t 1).resets == 1 && t.out.contains (.flrDone 1))
    && ends (.vfFlr 1) quarantined1 (fun t => (getPlot t 1).flrHeld && t.out == []) = true := by decide +kernel
theorem test_pf_flr : ends .pfFlr cxlTile (fun t => t.pi.warmDue && t.pi.warmCause == 1 && levelOf t == 3 && t.ba.hdmCommitted && t.hp.numVfs == 0) = true := by decide +kernel
theorem test_hot_reset : ends .hotReset cxlTile (fun t => t.pi.warmCause == 2 && !t.ba.hdmCommitted && t.hp.up && !t.pins.tileReady) = true := by decide +kernel
theorem test_link_disable : ends .linkDisable up (fun t => t.pi.warmCause == 3 && !t.hp.up && t.hp.downSeen && !t.sb.status.getLsbD 29) = true := by decide +kernel
theorem test_dl_down : ends .dlDown up (fun t => t.pi.warmCause == 4 && !t.hp.up && t.sb.status.getLsbD 29 && t.pi.warmCount == 1) = true := by decide +kernel
theorem test_bus_master : ends (.busMasterDisable 2) up (fun t => t.hp.master == [0, 1]) = true := by decide +kernel
theorem test_vf_enable : ends (.vfEnable 63) up (fun t => t.hp.numVfs == 63) && ends (.vfRemove 0) up (fun t => t.hp.numVfs == 0 && (getPlot t 1).epoch == 1) = true := by decide +kernel
theorem test_module_fails : ends (.ucieModuleFail 3) (ucie 0xE) (fun t => t.hp.modules == 6 && t.hp.lanes == 32 && outBit t (moduleBit 3) && t.hp.up)
    && ends (.ucieModuleFail 0) (ucie 1) (fun t => !t.hp.up && t.sb.status.getLsbD 29 && !t.sb.status.getLsbD 58 && outBit t (moduleBit 0)) = true := by decide +kernel
theorem test_link_up : ends (.linkUp 64 5 true 0xF) (linkOff 0) (fun t => t.hp.up && t.hp.lanes == 64) && ends (.linkUp 8 2 true 0) (linkOff 1) (fun t => !t.hp.up)
    && ends (.linkUp 8 2 false 0) (linkOff 1) (fun t => t.hp.up && t.hp.lanes == 8) = true := by decide +kernel

/-! ## Canals and gangs -/

def live (p : Nat) : Port := { en := true, state := .active, peerValid := true, peerId := bv 3 p, wasActive := true, rxExpect := 5, txSeq := 9 }
/-- Tile `me` of a gang of tiles 0 and 1: port 0 next-ward, port 1 previous-ward, both ACTIVE. -/
def gang (me : Nat) (st : GangState) (form : Bool) : State :=
  { up with pins := { up.pins with strapTile := bv 3 me }
            cn := { up.cn with ports := [(0, live (1 - me)), (1, live (1 - me))], members := 3, gangPlot := 1, form := form
                               state := st, present := if st == .formed then 3 else 0 } }
/-- A flit with its CRC, and the one that port 0 waits for, from the other tile. -/
def rawFlit (ty : BitVec 8) (src dst : Nat) (arg : BitVec 32) (payload : List Byte) : Flit :=
  { type := ty, src := bv 3 src, dst := bv 3 dst, arg := arg, payload := payload, seq := 5, ack := 8, nak := false, seqValid := true }
def flit (ty : BitVec 8) (src dst : Nat) (arg : BitVec 32) (payload : List Byte) : Flit := (rawFlit ty src dst arg payload).sealed
/-- The flit with SEQ `q`. -/
def flitAt (q : BitVec 12) (ty : BitVec 8) (src dst : Nat) (arg : BitVec 32) (payload : List Byte) : Flit :=
  ({ rawFlit ty src dst arg payload with seq := q } : Flit).sealed
theorem arrives {s : State} {fl : Flit} {ty : Nat} (h : decide ((getPort s 0).state = .active) && awake s [dCanal 0] && fl.crcOk && fl.seqValid
    && decide (fl.seq = (getPort s 0).rxExpect) && decide (fl.type.toNat = ty) && decide (fl.dst.toNat = tileIdx s) = true) : Arrives s 0 fl ty := by
  simp only [Bool.and_eq_true, decide_eq_true_eq] at h
  obtain ⟨⟨⟨⟨⟨⟨h1, h2⟩, h3⟩, h4⟩, h5⟩, h6⟩, h7⟩ := h
  exact ⟨⟨by omega, h1, h2, h3, h4, h5⟩, h6, h7⟩

theorem test_Ports_permit : Permits up .pf (.portCtl 3) (0xD00000 + 0x40 * 3) 4 ∧ Permits up .pf (.portCtl 0) (0xD00000 + 0x40 * 0) 4
    ∧ Permits up .pf .gangCtl 0xD00208 4 := by
  refine ⟨?_, ?_, ?_⟩ <;> exact ⟨by decide +kernel, by decide +kernel, by decide +kernel, by decide +kernel⟩
def portTile (n : Nat) (p : Port) : State := { gang 0 .idle false with cn := { (gang 0 .idle false).cn with ports := [(n, p)] } }
def training (k : Nat) (ok : Bool) : State := portTile 3 { en := true, state := .canalTrain, goodTrain := k, peerOk := ok }
/-- TRAIN from port 2 of tile 1: index, port, version 1, its own count, RX_EXPECT 7, the gang key. -/
def trainIn (version good : Nat) : Flit :=
  ({ rawFlit 0x02 1 0 0 (body 12 [(0, 1, 1), (1, 1, 2), (2, 1, version), (3, 1, good), (4, 2, 7)]) with seqValid := false } : Flit).sealed
def canal3Out : State := { up with pi := { up.pi with health := 1#128 <<< (canalBit 3) } }
theorem test_Ports_hyps : up.wf = true ∧ (1 : BitVec 32).getLsbD 1 = false ∧ (0 : BitVec 32).getLsbD 0 = false ∧ canalIn up 3 = true ∧ (getPort up 3).en = false
    ∧ canal3Out.wf = true ∧ canalIn canal3Out 3 = false ∧ (gang 0 .idle false).wf = true ∧ (getPort (gang 0 .idle false) 0).en = true
    ∧ (portTile 3 { en := true, state := .phyTrain }).wf = true ∧ awake (portTile 3 { en := true, state := .phyTrain }) [dCanal 3] = true
    ∧ (training 7 true).wf = true ∧ awake (training 7 true) [dCanal 3] = true ∧ trainOk (training 7 true) 3 (trainIn 1 0) = true ∧ trainOk (training 7 true) 3 (trainIn 2 0) = false
    ∧ (training 6 true).wf = true ∧ trainOk (training 6 true) 3 (trainIn 1 0) = true ∧ (training 9 false).wf = true
    ∧ (portTile 3 { en := true, state := .canalTrain, retraining := true }).wf = true := by decide +kernel
theorem test_Ports_permit2 : Permits canal3Out .pf (.portCtl 3) (0xD00000 + 0x40 * 3) 4 ∧ Permits (gang 0 .idle false) .pf (.portCtl 0) (0xD00000 + 0x40 * 0) 4 := by
  refine ⟨?_, ?_⟩ <;> exact ⟨by decide +kernel, by decide +kernel, by decide +kernel, by decide +kernel⟩
/-- A TRAIN flit whose CRC does not fit, a port that is DOWN, and RETRAIN of a port that is not enabled. -/
def spoilt (fl : Flit) : Flit := { fl with crc := fl.crc + 1 }
theorem test_Ports_hyps2 : (spoilt (trainIn 1 0)).crcOk = false ∧ (trainIn 1 0).crcOk = true ∧ (getPort (training 7 true) 3).goodTrain + 1 = 8
    ∧ (getPort (training 6 true) 3).goodTrain + 1 < 8 ∧ ((getPort (training 9 false) 3).peerOk || leAt (trainIn 1 0).payload 3 1 == 1) = false
    ∧ ((getPort (training 9 false) 3).peerOk || leAt (trainIn 1 1).payload 3 1 == 1) = true
    ∧ (portTile 3 { en := true, state := .down }).wf = true ∧ (getPort (portTile 3 { en := true, state := .down }) 3).state = .down
    ∧ (getPort up 3).state ≠ .phyTrain ∧ (getPort up 3).retraining = false ∧ (1 : BitVec 32).getLsbD 0 = true := by decide +kernel
theorem test_train_bad_crc : ends (.train 3 (spoilt (trainIn 1 1))) (training 7 false) (fun t => (getPort t 3).goodTrain == 0 && (getPort t 3).crcErr == 1
    && (getPort t 3).state == .canalTrain) = true := by decide +kernel
/-- RETRAIN stands until EN starts training (R306). -/
theorem test_retrain_stands : ends (.cnPortRetrain .pf 3) up (fun t => (getPort t 3).retrain && (getPort t 3).state == .off
    && ends (.cnPortEnable .pf 3 1) t (fun u => !(getPort u 3).retrain && (getPort u 3).state == .phyTrain)) = true := by decide +kernel
theorem test_port_enable : ends (.cnPortEnable .pf 3 1) up (fun t => (getPort t 3).en && (getPort t 3).state == .phyTrain)
    && ends (.cnPortEnable .pf 0 0) (gang 0 .idle false) (fun t => !(getPort t 0).en && (getPort t 0).state == .off && (getPort t 0).rxExpect == 0) = true := by decide +kernel
theorem test_port_retrain : ends (.cnPortRetrain .pf 0) (gang 0 .idle false) (fun t => (getPort t 0).state == .phyTrain && (getPort t 0).retraining && (getPort t 0).en) = true := by decide +kernel
theorem test_phy_end : ends (.canalPhyTrainingEnd 3 true) (portTile 3 { en := true, state := .phyTrain }) (fun t => (getPort t 3).state == .canalTrain && (getPort t 3).width8
    && t.out.length == 1) = true := by decide +kernel
theorem test_train : ends (.train 3 (trainIn 1 1)) (training 7 false) (fun t => (getPort t 3).state == .active && (getPort t 3).peerId == 1 && (getPort t 3).txSeq == 7)
    && ends (.train 3 (trainIn 2 1)) (training 7 true) (fun t => (getPort t 3).wrongPeer && (getPort t 3).state == .canalTrain) = true := by decide +kernel
theorem test_retrain_timeout : ends (.retrainTimeout 3) (portTile 3 { en := true, state := .canalTrain, retraining := true })
    (fun t => (getPort t 3).state == .down && t.sb.status.getLsbD 39) = true := by decide +kernel

/-- Three unacknowledged flits, SEQ 4094, 4095 and 0. -/
def sentFlits : List Flit := [4094, 4095, 0].map fun q => flitAt q 0x11 0 1 0 []
def replayTile (stuck : BitVec 8) : State := portTile 0 { live 1 with buffer := sentFlits, txSeq := 1, stuck := stuck }
def idleIn (a : BitVec 12) (nak : Bool) : Flit := ({ rawFlit 0x01 1 0 0 [] with ack := a, nak := nak, seqValid := false } : Flit).sealed
theorem test_Flits_hyps : (replayTile 0).wf = true ∧ (getPort (replayTile 0) 0).buffer = sentFlits ∧ (getPort (replayTile 0) 0).txq = []
    ∧ (4094 - (4094 : BitVec 12) + 1).toNat = 1 ∧ (0 - (4094 : BitVec 12) + 1).toNat = 3 ∧ (4093 - (4094 : BitVec 12) + 1).toNat = 0 ∧ (1 - (4094 : BitVec 12) + 1).toNat = 4
    ∧ (getPort (replayTile 0) 0).state = .active ∧ (getPort (replayTile 0) 0).buffer ≠ [] ∧ (getPort (replayTile 0) 0).nakSent = false
    ∧ (portTile 0 { live 1 with nakSent := true }).wf = true ∧ (gang 0 .idle false).wf = true ∧ typeAssigned 0x21 = false ∧ typeAssigned 0x20 = true := by decide +kernel
theorem test_Flits_hyps2 : InOrder (gang 0 .idle false) 0 (flit 0x21 1 0 0 []) ∧ (getPort (gang 0 .idle false) 0).buffer = []
    ∧ InOrder (gang 0 .idle false) 1 (flit 0x11 0 1 0 []) ∧ (flit 0x11 0 1 0 []).dst.toNat ≠ tileIdx (gang 0 .idle false) ∧ (getPort (gang 0 .idle false) 1).buffer = []
    ∧ Forwards (gang 0 .idle false) 1 0 := by
  refine ⟨?_, by decide +kernel, ?_, by decide +kernel, by decide +kernel, ?_⟩
  · exact ⟨by decide +kernel, by decide +kernel, by decide +kernel, by decide +kernel, by decide +kernel, by decide +kernel⟩
  · exact ⟨by decide +kernel, by decide +kernel, by decide +kernel, by decide +kernel, by decide +kernel, by decide +kernel⟩
  · exact ⟨by decide +kernel, by decide +kernel, by decide +kernel, by decide +kernel, by decide +kernel⟩
theorem test_Flits_hyps3 : Plain (gang 0 .idle false) 0 (flit 0x21 1 0 0 []) ∧ Plain (gang 0 .idle false) 1 (flit 0x11 0 1 0 [])
    ∧ (idleIn 0 false).crcOk = true ∧ (idleIn 0 false).type = 0x01 ∧ (getPort (gang 0 .idle false) 0).buffer = [] ∧ (idleIn 0 true).nak = true
    ∧ (spoilt (idleIn 0 false)).crcOk = false ∧ (spoilt (flit 0x21 1 0 0 [])).crcOk = false ∧ (spoilt (idleIn 0 true)).nak = true
    ∧ (portTile 3 { en := true, state := .canalTrain }).wf = true
    ∧ (flitAt 7 0x21 1 0 0 []).crcOk = true ∧ ((flitAt 7 0x21 1 0 0 []).seq - (getPort (gang 0 .idle false) 0).rxExpect).toNat = 2
    ∧ ((flitAt 3 0x11 1 7 0 []).seq - (getPort (gang 0 .idle false) 0).rxExpect).toNat = 4094 ∧ (flitAt 3 0x11 1 7 0 []).dst.toNat ≠ tileIdx (gang 0 .idle false)
    ∧ (getPort up 0).state ≠ .active := by
  unfold Plain; decide +kernel
/-- From ahead of its turn a flit brings one NAK, from behind nothing; a bad CRC is counted. -/
theorem test_gap : ends (.reservedFlitType 0 (flitAt 7 0x21 1 0 0 [])) (gang 0 .idle false) (fun t => (getPort t 0).nakSent && (getPort t 0).rxExpect == 5 && t.out.length == 1)
    && ends (.flitForward 0 (flitAt 3 0x11 1 7 0 [])) (gang 0 .idle false) (· == gang 0 .idle false)
    && ends (.reservedFlitType 0 (spoilt (flit 0x21 1 0 0 []))) (gang 0 .idle false) (fun t => (getPort t 0).crcErr == 1 && (getPort t 0).nakSent) = true := by decide +kernel
theorem test_nak_in_idle : ends (.idle 0 (idleIn 4094 true)) (replayTile 0) (fun t => (getPort t 0).replays == 1 && (getSrc t 32).events == 1) = true := by decide +kernel
theorem test_ack_frees : ends (.idle 0 (idleIn 4095 false)) (replayTile 3) (fun t => (getPort t 0).buffer.length == 1 && (getPort t 0).stuck == 0)
    && ends (.idle 0 (idleIn 4093 false)) (replayTile 3) (fun t => (getPort t 0).buffer.length == 3) = true := by decide +kernel
theorem test_nak : ends (.nak 0 (idleIn 4094 true)) (replayTile 0) (fun t => (getPort t 0).buffer.length == 2 && (getPort t 0).replays == 1 && t.out.length == 3
    && (getSrc t 32).events == 1) = true := by decide +kernel
theorem test_replay_retrains : ends (.replayTimeout 0) (replayTile 15) (fun t => (getPort t 0).state == .phyTrain && (getPort t 0).buffer.length == 3)
    && ends (.replayTimeout 0) (replayTile 14) (fun t => (getPort t 0).state == .active) = true := by decide +kernel
theorem test_crc_error : ends (.flitCrcError 0) (gang 0 .idle false) (fun t => (getPort t 0).crcErr == 1 && (getPort t 0).nakSent && t.out.length == 1) = true := by decide +kernel
theorem test_reserved_flit : ends (.reservedFlitType 0 (flit 0x21 1 0 0 [])) (gang 0 .idle false) (fun t => (getPort t 0).rxExpect == 6) = true := by decide +kernel
theorem test_forward : ends (.flitForward 1 (flit 0x11 0 1 3 [])) (gang 0 .idle false) (fun t => (getPort t 1).rxExpect == 6 && (getPort t 0).buffer.length == 1) = true := by decide +kernel

/-- A flit that came in on the next-ward port travels previous-ward, and goes on so (R297). -/
theorem test_onward : onwardPort (gang 0 .idle false) 0 = some 1 ∧ onwardPort (gang 0 .idle false) 1 = some 0 := by decide +kernel

theorem arrive_gang (me : Nat) (st : GangState) (form : Bool) (fl : Flit) (ty : Nat) (h1 : fl.seqValid = true) (h2 : fl.seq = 5) (h3 : fl.type.toNat = ty)
    (h4 : fl.dst.toNat = (bv 3 me).toNat) (h5 : fl.crcOk = true) : Arrives (gang me st form) 0 fl ty := ⟨⟨by decide, rfl, by rfl, h5, h1, h2⟩, h3, h4⟩
theorem sealed_flit (ty : BitVec 8) (src dst : Nat) (arg : BitVec 32) (payload : List Byte) : (flit ty src dst arg payload).crcOk = true :=
  beq_self_eq_true _
def heldBy (x : Exchange) (st : GangState) : State := { gang 0 st true with cn := { (gang 0 st true).cn with exchange := some x } }
def exch (k : Nat) : Exchange := { member := 1, rest := [], count := k, sentAt := 0, best := some (7, 3) }
theorem test_Gang_permit : Permits (gang 0 .idle false) .pf .gangCtl 0xD00208 4 ∧ Permits (gang 0 .formed true) .pf .gangCtl 0xD00208 4
    ∧ Permits (gang 1 .idle false) .pf .gangCtl 0xD00208 4 := by
  refine ⟨?_, ?_, ?_⟩ <;> exact ⟨by decide +kernel, by decide +kernel, by decide +kernel, by decide +kernel⟩
theorem test_Gang_hyps : (gang 0 .idle false).wf = true ∧ (gang 1 .idle false).wf = true ∧ isLead (gang 0 .idle false) = true ∧ isLead (gang 1 .idle false) = false
    ∧ (gang 0 .idle false).cn.heldForm = none ∧ (gang 0 .idle false).cn.members.getLsbD (tileIdx (gang 0 .idle false)) = true ∧ peers (gang 0 .idle false) = [1]
    ∧ reachable { (gang 0 .idle false) with cn := { (gang 0 .idle false).cn with form := true, state := .idle, lead := 0, replies := [] } } 1 = true
    ∧ (gang 0 .formed true).wf = true ∧ (gang 0 .formed true).cn.present.getLsbD (tileIdx (gang 0 .formed true)) = true ∧ others (gang 0 .formed true) = [1]
    ∧ (gang 0 .formed true).cn.exchange = none ∧ (gang 1 .idle true).wf = true ∧ (gang 0 .forming true).wf = true ∧ (gang 1 .forming true).wf = true
    ∧ 1 ∈ peers (gang 0 .forming true) ∧ (heldBy (exch 15) .forming).wf = true ∧ (heldBy (exch 14) .forming).wf = true
    ∧ (gang 1 .formed true).wf = true ∧ (gang 1 .formed true).cn.present.getLsbD 0 = true ∧ leadOf (gang 1 .forming true) = 0 := by decide +kernel
theorem test_Gang_arrivals : Arrives (gang 1 .idle true) 0 (flit 0x03 0 1 0 []) 0x03 ∧ Arrives (gang 1 .idle false) 0 (flit 0x03 0 1 0 []) 0x03
    ∧ Arrives (gang 0 .forming true) 0 (flit 0x04 1 0 0 []) 0x04 ∧ Arrives (gang 1 .forming true) 0 (flit 0x05 0 1 0 []) 0x05
    ∧ Arrives (gang 1 .forming true) 0 (flit 0x06 0 1 0 []) 0x06 ∧ Arrives (gang 1 .idle false) 0 (flit 0x07 0 1 0 []) 0x07
    ∧ Carries (gang 1 .idle false) 0 0 ∧ Arrives (heldBy (exch 15) .forming) 0 (flit 0x08 1 0 15 []) 0x08 ∧ Arrives (heldBy (exch 14) .forming) 0 (flit 0x08 1 0 14 []) 0x08
    ∧ Arrives (gang 1 .formed true) 0 (flit 0x20 0 1 0 []) 0x20 ∧ Arrives (gang 1 .forming true) 0 (flit 0x20 0 1 0 []) 0x20 := by
  refine ⟨?_, ?_, ?_, ?_, ?_, ?_, ⟨by decide +kernel, by decide +kernel, by decide +kernel, by decide +kernel, by decide +kernel⟩, arrives (by decide +kernel), arrives (by decide +kernel), ?_, ?_⟩ <;>
    exact arrive_gang _ _ _ _ _ rfl rfl rfl rfl (sealed_flit ..)
/-- A lead with no other member, one without an ACTIVE port, a member that holds the lead's FORM, a gang that is FORMED again measured,
and replies that come while others are missing. -/
def aloneTile : State := { gang 0 .idle false with cn := { (gang 0 .idle false).cn with members := 1 } }
def unlinked : State := { gang 0 .idle false with cn := { (gang 0 .idle false).cn with ports := [(0, { en := true, state := .phyTrain })] } }
def holding : State := { gang 1 .idle false with cn := { (gang 1 .idle false).cn with heldForm := some (flit 0x03 0 1 0 []) } }
def three : State := { gang 0 .forming true with cn := { (gang 0 .forming true).cn with members := 7 } }
theorem test_Gang_hyps2 : aloneTile.wf = true ∧ aloneTile.cn.form = false ∧ isLead aloneTile = true ∧ peers aloneTile = [] ∧ aloneTile.cn.members.getLsbD (tileIdx aloneTile) = true
    ∧ unlinked.wf = true ∧ peers unlinked ≠ [] ∧ linked unlinked = false ∧ linked (gang 0 .idle false) = true
    ∧ holding.wf = true ∧ holding.cn.heldForm = some (flit 0x03 0 1 0 []) ∧ isLead holding = false
    ∧ three.wf = true ∧ peers three = [1, 2] ∧ ([] : List (Nat × Nat × Nat)).length + 1 < (peers three).length
    ∧ (gang 0 .formed true).cn.form = true ∧ (gang 1 .formed true).cn.gen = (flit 0x05 0 1 0 []).arg.setWidth 16
    ∧ (heldBy (exch 15) .forming).cn.exchange = some (exch 15) ∧ (exch 15).rest = [] ∧ (exch 15).count = (flit 0x08 1 0 15 []).arg.toNat
    ∧ 1 ≤ (gang 0 .forming true).cn.members.toNat := by decide +kernel
theorem test_Gang_permit2 : Permits aloneTile .pf .gangCtl 0xD00208 4 ∧ Permits unlinked .pf .gangCtl 0xD00208 4 ∧ Permits holding .pf .gangCtl 0xD00208 4
    ∧ Permits up .pf .gangCtl 0xD00208 4 := by
  refine ⟨?_, ?_, ?_, ?_⟩ <;> exact ⟨by decide +kernel, by decide +kernel, by decide +kernel, by decide +kernel⟩
theorem test_Gang_routes : Plain (gang 1 .idle true) 0 (flit 0x03 0 1 0 []) ∧ Carries (gang 1 .idle true) 0 0
    ∧ routePort { gang 1 .idle true with cn := { (gang 1 .idle true).cn with state := .forming } } 0 = some 0
    ∧ Plain (gang 1 .idle false) 0 (flit 0x07 0 1 0 []) ∧ Arrives three 0 (flit 0x04 1 0 0 []) 0x04 ∧ Arrives (gang 1 .formed true) 0 (flit 0x05 0 1 0 []) 0x05
    ∧ Arrives (gang 0 .forming true) 0 (flit 0x20 1 0 0 []) 0x20 ∧ Arrives (gang 1 .formed true) 0 (flit 0x03 0 1 0 []) 0x03 := by
  unfold Plain Carries
  refine ⟨by decide +kernel, by decide +kernel, by decide +kernel, by decide +kernel, arrives (by decide +kernel), ?_, ?_, ?_⟩
  · exact arrive_gang _ _ _ _ _ rfl rfl rfl rfl (sealed_flit ..)
  · exact arrive_gang _ _ _ _ _ rfl rfl rfl rfl (sealed_flit ..)
  · exact arrive_gang _ _ _ _ _ rfl rfl rfl rfl (sealed_flit ..)
theorem test_gang_alone : ends (.gangForm .pf) aloneTile (fun t => t.cn.state == .formed && t.cn.gen == 1) && ends (.gangForm .pf) unlinked (fun t => t.cn.state == .idle && t.cn.form)
    && ends (.gangForm .pf) holding (fun t => t.cn.state == .forming && t.cn.heldForm == none) && ends (.gangMeasure .pf) up (fun t => t.cn.measure) = true := by decide +kernel
theorem test_form_starts : ends (.gangForm .pf) (gang 0 .idle false) (fun t => t.cn.form && t.cn.state == .forming && (getPort t 0).buffer.map (·.type) == [0x03])
    && ends (.gangForm .pf) (gang 1 .idle false) (fun t => t.cn.form && t.cn.state == .idle && t.cn.lead == 0) = true := by decide +kernel
theorem test_gang_leave : ends (.gangLeave .pf) (gang 0 .formed true) (fun t => !t.cn.form && t.cn.state == .broken && t.cn.lostSeen
    && (getPort t 0).buffer.map (·.type) == [0x20]) = true := by decide +kernel
theorem test_gang_measure : ends (.gangMeasure .pf) (gang 0 .formed true) (fun t => t.cn.measure && t.cn.exchange.any (·.member == 1)
    && (getPort t 0).buffer.map (·.type) == [0x07]) = true := by decide +kernel
/-- A FORM that agrees in everything but CONFIG_HASH, whose key is another. -/
theorem test_form_answered : ends (.form 0 (flit 0x03 0 1 0 (formPayload { gang 0 .forming true with cn := { (gang 0 .forming true).cn with gangKey := 1 } }))) (gang 1 .idle true)
      (fun t => t.cn.state == .forming && t.cn.mismatch == 1 && (getPort t 0).buffer.map (·.type) == [0x04])
    && ends (.form 0 (flit 0x03 0 1 0 [])) (gang 1 .idle false) (fun t => t.cn.state == .idle && t.cn.heldForm.isSome) = true := by decide +kernel
theorem test_form_reply : ends (.formReply 0 (flit 0x04 1 0 0 [])) (gang 0 .forming true) (fun t => t.cn.exchange.any (fun x => x.member == 1 && x.count == 0))
    && ends (.formReply 0 (flit 0x04 1 0 2 [])) (gang 0 .forming true) (fun t => t.cn.state == .alone && t.cn.refused && t.sb.status.getLsbD 40) = true := by decide +kernel
/-- The lead found this tile 2,001 ns ahead. -/
theorem test_form_done : ends (.formDone 0 (flit 0x05 0 1 9 (body 64 [(8, 8, 2001)]))) (gang 1 .forming true) (fun t => t.cn.state == .formed && t.cn.gen == 9
    && t.cn.skewFlag && t.cn.present == 3 && (getSrc t 41).events == 1) = true := by decide +kernel
theorem test_form_refuse : ends (.formRefuse 0 (flit 0x06 0 1 0 [0, 4])) (gang 1 .forming true) (fun t => t.cn.state == .alone && t.cn.mismatch == 4) = true := by decide +kernel
theorem test_time_req : ends (.timeReq 0 (flit 0x07 0 1 6 [])) { gang 1 .idle false with pi := { up.pi with time := 0x1234 } }
    (fun t => (getPort t 0).buffer.map (fun x => (x.type, x.arg, x.payload)) == [(0x08, 6, [0x34, 0x12, 0, 0, 0, 0, 0, 0])]) = true := by decide +kernel
/-- The sixteenth exchange: 4 ns for the round trip against 7 before; the member's clock stands 10 ns ahead of the middle. -/
theorem test_time_resp : ends (.timeResp 0 (flit 0x08 1 0 15 [12])) { heldBy (exch 15) .forming with pi := { up.pi with time := 4 } }
    (fun t => t.cn.state == .formed && t.cn.exchange == none && tblGet count64Def t.cn.skew 1 == 10) = true := by decide +kernel
theorem test_leave : ends (.leave 0 (flit 0x20 0 1 0 [])) (gang 1 .formed true) (fun t => t.cn.state == .broken && t.cn.lostSeen && t.cn.present == 2) = true := by decide +kernel

/-! ## Collectives -/

/-- A gang on plot 1 whose furrow 16 reads slot 8 out. -/
def collTile (me : Nat) (st : GangState) (q : List Op) : State :=
  let g := gemmTile q
  { gang me st true with hg := g.hg, ba := g.ba, ap := g.ap }
theorem test_coll_good (me : Nat) (st : GangState) (q : List Op) : AllGood (collTile me st q) := test_gemmTile_good q
def mine : Coll := { furrow := 16, op := 2, slot := 8, seq := 1, begin := body 12 [], done := 0, got := [], endSat := none, sat := false, compared := false, phaseC := false }
def inPhaseB (o : Op) : Op := { o with phase := .preempted, coll := 1 }
def exchTile (me : Nat) : State :=
  let s := collTile me .formed [inPhaseB slotReadOp]
  { s with hg := { s.hg with ctxValid := 0x100 }, cn := { s.cn with colls := [mine], collSeq := 1 } }
def phaseCTile : State :=
  let s := collTile 1 .formed [{ slotReadOp with phase := .preempted, coll := 2 }]
  { s with hg := { s.hg with ctxValid := 0x100 }, cn := { s.cn with colls := [{ mine with phaseC := true }], collSeq := 1 } }
theorem test_Collectives_hyps : (collTile 1 .idle [slotReadOp]).wf = true ∧ (collTile 1 .idle [slotReadOp]).hg.ctxValid = 0 ∧ isCollective (collTile 1 .idle [slotReadOp]) 16 = true
    ∧ beginsSlot (collTile 1 .idle [slotReadOp]) 1 slotReadCheck 0 = true ∧ (collTile 1 .formed [slotReadOp]).wf = true ∧ beginsSlot (collTile 1 .formed [slotReadOp]) 1 slotReadCheck 0 = true
    ∧ (collTile 1 .formed [slotReadOp]).cn.aborted = [] ∧ isLead (collTile 1 .formed [slotReadOp]) = false
    ∧ (gang 0 .formed true).wf = true ∧ isLead (gang 0 .formed true) = true ∧ curColl (gang 0 .formed true) = none
    ∧ (exchTile 1).wf = true ∧ curColl (exchTile 1) = some mine ∧ (exchTile 1).ba.bankFail = 0 ∧ findOp (exchTile 1) 16 2 = some (inPhaseB slotReadOp)
    ∧ (exchTile 1).cn.colls = [mine] ∧ isLead (exchTile 1) = false
    ∧ (gang 1 .formed true).cn.colls = [] ∧ (gang 1 .formed true).cn.collSeq < 1 := by decide +kernel
theorem test_Collectives_hyps2 : phaseCTile.wf = true ∧ phaseCTile.cn.colls.find? (fun c => c.furrow == 16 && c.phaseC) = some { mine with phaseC := true }
    ∧ findOp phaseCTile 16 2 = some { slotReadOp with phase := .preempted, coll := 2 }
    ∧ readyOp phaseCTile (slotDomain phaseCTile 8) 16 = some { slotReadOp with phase := .preempted, coll := 2 }
    ∧ awake phaseCTile (hearthNeeds phaseCTile 8) = true ∧ (takeTurn (slotDomain phaseCTile 8) 16 phaseCTile).isSome = true := by decide +kernel
theorem test_Collectives_arrivals : Arrives (gang 0 .formed true) 0 (flit 0x10 1 0 1 []) 0x10 ∧ Arrives (gang 0 .formed true) 0 (flit 0x11 1 0 0 []) 0x11
    ∧ Arrives (exchTile 1) 0 (flit 0x12 0 1 131071 []) 0x12 ∧ Arrives (exchTile 1) 0 (flit 0x13 0 1 1 []) 0x13 ∧ Arrives (exchTile 1) 0 (flit 0x14 0 1 1 []) 0x14
    ∧ Arrives (gang 1 .formed true) 0 (flit 0x14 0 1 1 []) 0x14 := by
  refine ⟨?_, ?_, ?_, ?_, ?_, ?_⟩ <;> exact arrives (by decide +kernel)
theorem test_coll_not_formed : ends (.slotRead 16) (collTile 1 .idle [slotReadOp]) (fun t => t.cn.collSeq == 1 && (findOp t 16 2).any (fun o => o.phase == .ended && o.reason == bv 8 rAbortMember)) = true := by decide +kernel
theorem test_coll_begin : ends (.collBegin 0 (flit 0x10 1 0 1 [9])) (gang 0 .formed true) (fun t => t.cn.remotes.map (fun r => (r.src, r.begin.length)) == [(1, 12)]) = true := by decide +kernel
theorem test_coll_data : ends (.collData 0 (flit 0x11 1 0 0 (natLe 12 7 ++ natLe 12 8))) { gang 0 .formed true with cn := { (gang 0 .formed true).cn with remotes := [{ src := 1, seq := 1, begin := [], got := [], entries := [] }] } }
    (fun t => t.cn.remotes.map (·.entries) == [[(0, some 7), (1, some 8)]]) = true := by decide +kernel
theorem test_coll_result : ends (.collResult 0 (flit 0x12 0 1 2 (natLe 12 7))) (exchTile 1) (fun t => (curColl t).any (·.done == 1) && recordEntry t 8 2 == 7) = true := by decide +kernel
/-- The end that comes before the results waits for them; with the last entry stored the member is ready for phase C. -/
def storedAll (e : Option Bool) (d : Nat) : State :=
  { exchTile 1 with cn := { (exchTile 1).cn with colls := [{ mine with done := d, endSat := e }] } }
theorem test_coll_end : ends (.collEnd 0 (flit 0x13 0 1 1 [1])) (storedAll none 131072) (fun t => (findOp t 16 2).any (·.coll == 2) && (getSlot t 8).sat && t.cn.colls.all (·.phaseC))
    && ends (.collEnd 0 (flit 0x13 0 1 1 [1])) (exchTile 1) (fun t => (findOp t 16 2).any (·.coll == 1) && t.cn.colls.map (·.endSat) == [some true])
    && ends (.collResult 0 (flit 0x12 0 1 131071 (natLe 12 7))) (storedAll (some true) 131071) (fun t => (findOp t 16 2).any (·.coll == 2) && (getSlot t 8).sat) = true := by decide +kernel
/-- The lead with its collective: compared or not, tile 1's report and entries before it. -/
def leadTile (c : Bool) (rs : List Remote) (early : List (Nat × Nat × List (BitVec 96))) : State :=
  { exchTile 0 with ba := { (exchTile 0).ba with basin := memWrite memDefault recordMem (24 * 2 ^ 25 - 2 ^ 25 + 8 * 2 ^ 21 + 64 + 12 * 3) (natLe 12 5) }
                    cn := { (exchTile 0).cn with colls := [{ mine with compared := c }], remotes := rs, early := early } }
def report : Remote := { src := 1, seq := 1, begin := body 12 [], got := [], entries := [] }
def formedLead (rs : List Remote) (early : List (Nat × Nat × List (BitVec 96))) : State :=
  { gang 0 .formed true with cn := { (gang 0 .formed true).cn with remotes := rs, early := early } }
theorem test_Collectives_lead : (leadTile false [] []).wf = true ∧ isLead (leadTile false [] []) = true ∧ (leadTile false [] []).cn.state = .formed
    ∧ curColl (leadTile false [] []) = some mine ∧ others (leadTile false [] []) = [1] ∧ findOp (leadTile false [] []) 16 2 = some (inPhaseB slotReadOp)
    ∧ mine.begin = padTo 12 (flit 0x10 1 0 1 []).payload ∧ mine.begin ≠ padTo 12 (flit 0x10 1 0 1 [9]).payload ∧ mine.seq ≠ (flit 0x10 1 0 2 []).arg
    ∧ (leadTile true [report] []).wf = true ∧ curColl (leadTile true [report] []) = some { mine with compared := true } ∧ report.entries = []
    ∧ flitEntries (flit 0x11 1 0 3 (natLe 12 7)) = [7] ∧ 3 ∉ report.got
    ∧ (formedLead [] [(1, 4, [6])]).wf = true ∧ (formedLead [] [(1, 4, [6])]).cn.early.filter (·.1 == 1) = [(1, 4, [6])]
    ∧ (formedLead [report] []).wf = true ∧ 1 ∉ (formedLead [] []).cn.deaf ∧ (formedLead [] []).cn.early = [] := by decide +kernel
theorem test_Collectives_arrivals2 : Arrives (leadTile false [] []) 0 (flit 0x10 1 0 1 []) 0x10 ∧ Arrives (leadTile false [] []) 0 (flit 0x10 1 0 2 []) 0x10
    ∧ Arrives (leadTile true [report] []) 0 (flit 0x11 1 0 3 (natLe 12 7)) 0x11 ∧ Arrives (formedLead [] [(1, 4, [6])]) 0 (flit 0x10 1 0 1 []) 0x10
    ∧ Arrives (formedLead [report] []) 0 (flit 0x11 1 0 3 (natLe 12 7)) 0x11 ∧ Arrives (formedLead [] []) 0 (flit 0x11 1 0 3 (natLe 12 7)) 0x11
    ∧ Arrives (storedAll none 131072) 0 (flit 0x13 0 1 1 [1]) 0x13 ∧ Arrives (storedAll (some true) 131071) 0 (flit 0x12 0 1 131071 (natLe 12 7)) 0x12 := by
  refine ⟨?_, ?_, ?_, ?_, ?_, ?_, ?_, ?_⟩ <;> exact arrives (by decide +kernel)
/-- An abort that came before the dispatch, of the SEQ that the collective takes. -/
def abortedBefore : State := let s := collTile 1 .formed [slotReadOp]; { s with cn := { s.cn with aborted := [(1, 0x31)] } }
theorem test_Collectives_hyps3 : abortedBefore.wf = true ∧ abortedBefore.cn.aborted.find? (·.1 == abortedBefore.cn.collSeq + 1) = some (abortedBefore.cn.collSeq + 1, 0x31)
    ∧ beginsSlot abortedBefore 1 slotReadCheck 0 = true ∧ isCollective abortedBefore 16 = true
    ∧ (collTile 0 .formed [slotReadOp]).wf = true ∧ others (collTile 0 .formed [slotReadOp]) ≠ [] ∧ (collTile 0 .formed [slotReadOp]).cn.remotes = []
    ∧ (storedAll none 131072).wf = true ∧ leAt mine.begin 0 2 = (exchTile 1).cn.gen.toNat ∧ (exchTile 1).cn.collSeq = 1 := by decide +kernel
theorem test_lead_compares : ends (.collBegin 0 (flit 0x10 1 0 1 [])) (leadTile false [] []) (fun t => t.cn.colls.map (·.compared) == [true] && (findOp t 16 2).any (·.coll == 1))
    && ends (.collBegin 0 (flit 0x10 1 0 2 [])) (leadTile false [] []) (fun t => t.cn.colls == [] && t.cn.remotes == [] && t.hg.ctxValid == 0
      && (findOp t 16 2).any (fun o => o.phase == .ended && o.reason == bv 8 rAbortEpoch)) = true := by decide +kernel
/-- 5 + 7 of 2^-44 is 12, in the record and in the COLL_RESULT. -/
theorem test_lead_combines : ends (.collData 0 (flit 0x11 1 0 3 (natLe 12 7))) (leadTile true [report] []) (fun t => recordEntry t 8 3 == 12
    && t.cn.colls.map (·.done) == [1] && (getPort t 0).buffer.map (fun g => (g.type, g.arg, g.payload)) == [(0x12, 3, natLe 12 12)]) = true := by decide +kernel
theorem test_early_entries : ends (.collBegin 0 (flit 0x10 1 0 1 [])) (formedLead [] [(1, 4, [6])]) (fun t => t.cn.remotes.map (·.entries) == [[(4, some 6)]] && t.cn.early == [])
    && ends (.collData 0 (flit 0x11 1 0 3 (natLe 12 7))) (formedLead [] []) (fun t => t.cn.early == [(1, 3, [7])]) = true := by decide +kernel
theorem test_aborted_before : ends (.slotRead 16) abortedBefore (fun t => t.cn.aborted == [] && (findOp t 16 2).any (fun o => o.phase == .ended && o.reason == 0x31)) = true := by decide +kernel
theorem test_coll_abort : ends (.collAbort 0 (flit 0x14 0 1 1 [0x31])) (exchTile 1) (fun t => t.cn.colls == [] && t.hg.ctxValid == 0
      && (findOp t 16 2).any (fun o => o.phase == .ended && o.reason == 0x31))
    && ends (.collAbort 0 (flit 0x14 0 1 1 [0x31])) (gang 1 .formed true) (fun t => t.cn.aborted == [(1, 0x31)]) = true := by decide +kernel

/-! ## Rules of the whole machine, and numbers -/

theorem test_MinSvn_hyps : (booting true 0).pi.phase = .boot ∧ (booting true 0).pi.pwrok = true ∧ (booting true 0).pi.trip = false
    ∧ (booting true 0).pins.vaux12Lost = false ∧ (booting true 0).pins.vaux12 = true ∧ up.ch.minSvn < up.ch.svn
    ∧ coreIn (readRecord (booting true 0)) 0 = true ∧ (booting true 0).pins.strapBoot = true ∧ (booting false 0).pins.strapBoot = false
    ∧ off.pi.pwrok = false ∧ inReset.pi.hrstLow = true := by decide +kernel
/-- A tie between two codes goes to the even one: the source 2^(n/2^4) halfway between codes of L8 (p = 3). -/
theorem test_ConversionsTie_hyps : (Src.pow false 1 4).below ((parL8.k - parL8.b) / 2 ^ parL8.p) = false
    ∧ (toL parL8 (.pow false 1 4)).1 % 2 = 0 ∧ (toL parL8 (.pow false 3 4)).1 % 2 = 0 := by decide +kernel
theorem test_Products_hyps : (8 : Nat) % 8 = 0 ∧ weightDecode .l4 8 = .zero true ∧ bitAt 2 0 = false ∧ weightDecode .w2z 2 = .zero false := by decide +kernel

end Sys2Proof.Tests
end

/-!
SUPPORT. The arithmetic behind the conversions: rounding to nearest, Newton's square root, and the bound on the
power of two that the subnormal branch of R38 rounds.
-/
namespace Sys2Proof

/-! ### Rounding to nearest, ties to even -/

theorem rneDiv_nearest (n : Nat) {d : Nat} (hd : 0 < d) :
    2 * ((rneDiv n d * d : Int) - n).natAbs ≤ d
      ∧ (2 * ((rneDiv n d * d : Int) - n).natAbs = d → rneDiv n d % 2 = 0) := by
  have hdiv : ((n / d : Nat) : Int) * d + (n % d : Nat) = n := by exact_mod_cast Nat.div_add_mod' n d
  have hlt : n % d < d := Nat.mod_lt n hd
  have hup : ((n / d + 1 : Nat) : Int) * d = (n / d : Nat) * d + d := by exact_mod_cast Nat.succ_mul (n / d) d
  simp only [rneDiv]
  split
  · omega
  · split
    · omega
    · split <;> omega

theorem rneDivInt_nearest (n : Int) {d : Nat} (hd : 0 < d) :
    2 * (rneDivInt n d * d - n).natAbs ≤ d
      ∧ (2 * (rneDivInt n d * d - n).natAbs = d → rneDivInt n d % 2 = 0) := by
  obtain ⟨hnear, htie⟩ := rneDiv_nearest n.natAbs hd
  unfold rneDivInt
  split
  · rw [Int.neg_mul]
    omega
  · omega

theorem rneDiv_le_of_le_mul {n d c : Nat} (hd : 0 < d) (h : n ≤ c * d) : rneDiv n d ≤ c := by
  obtain ⟨hnear, -⟩ := rneDiv_nearest n hd
  refine Nat.le_of_not_lt fun hc => ?_
  have hstep : (c + 1) * d ≤ rneDiv n d * d := Nat.mul_le_mul_right d hc
  have hn : (n : Int) ≤ c * d := by exact_mod_cast h
  have hge : (c * d + d : Int) ≤ rneDiv n d * d := by exact_mod_cast (Nat.succ_mul c d ▸ hstep)
  omega

/-! ### Newton's square root

The core library states `Nat.sqrt` by its two inequalities alone; the model's files import no more than that. -/

theorem le_sqrt_of_mul_self_le {a n : Nat} (h : a * a ≤ n) : a ≤ Nat.sqrt n := by
  refine Nat.le_of_not_lt fun hlt => ?_
  have hsq : (Nat.sqrt n + 1) * (Nat.sqrt n + 1) ≤ a * a := Nat.mul_self_le_mul_self hlt
  exact absurd (Nat.lt_of_lt_of_le (Nat.lt_succ_sqrt n) (Nat.le_trans hsq h)) (Nat.lt_irrefl n)

theorem sqrt_le_of_le_mul_self {a n : Nat} (h : n ≤ a * a) : Nat.sqrt n ≤ a :=
  Nat.mul_self_le_mul_self_iff.1 (Nat.le_trans (Nat.sqrt_le n) h)

/-- Two factors around their mean `a + t` multiply to at most its square. -/
theorem mul_add_two_mul_le_sq (a t : Nat) : a * (a + 2 * t) ≤ (a + t) * (a + t) := by
  rw [Nat.add_mul, Nat.mul_add, Nat.mul_add, Nat.mul_add, Nat.mul_comm t a, Nat.mul_left_comm a 2 t]
  omega

/-- Newton's descent never falls below the root (the mean inequality). -/
theorem sqrt_le_newton {n x : Nat} (hx : 0 < x) : Nat.sqrt n ≤ (x + n / x) / 2 := by
  have hmul : (2 * Nat.sqrt n - x) * x ≤ Nat.sqrt n * Nat.sqrt n := by
    generalize Nat.sqrt n = s
    rcases Nat.le_total x s with h | h
    · obtain ⟨t, rfl⟩ := Nat.exists_eq_add_of_le h
      rw [show 2 * (x + t) - x = x + 2 * t by omega, Nat.mul_comm]
      exact mul_add_two_mul_le_sq x t
    · obtain ⟨t, rfl⟩ := Nat.exists_eq_add_of_le h
      rcases Nat.le_total t s with ht | ht
      · obtain ⟨k, rfl⟩ := Nat.exists_eq_add_of_le' ht
        rw [show 2 * (k + t) - (k + t + t) = k by omega, show k + t + t = k + 2 * t by omega]
        exact mul_add_two_mul_le_sq k t
      · rw [show 2 * s - (s + t) = 0 by omega, Nat.zero_mul]
        exact Nat.zero_le _
  have hdiv : 2 * Nat.sqrt n - x ≤ n / x := (Nat.le_div_iff_mul_le hx).2 (Nat.le_trans hmul (Nat.sqrt_le n))
  omega

/-- Above the root, a step at least halves the distance to it. -/
theorem div_le_sqrt_of_sqrt_lt {n x : Nat} (h : Nat.sqrt n < x) : n / x ≤ Nat.sqrt n := by
  have hn : n < (Nat.sqrt n + 1) * (Nat.sqrt n + 1) := Nat.lt_succ_sqrt n
  refine Nat.le_of_lt_succ ((Nat.div_lt_iff_lt_mul (by omega)).2 (Nat.lt_of_lt_of_le hn ?_))
  exact Nat.mul_le_mul_left _ h

theorem isqrtGo_eq_sqrt {n : Nat} (hn : n ≠ 0) (fuel x : Nat) (hlo : Nat.sqrt n ≤ x) (hhi : x < Nat.sqrt n + 2 ^ fuel) :
    isqrtGo fuel n x = Nat.sqrt n := by
  induction fuel generalizing x with
  | zero => rw [isqrtGo]; omega
  | succ fuel ih =>
    have hx : 0 < x := Nat.lt_of_lt_of_le (le_sqrt_of_mul_self_le (Nat.pos_of_ne_zero hn)) hlo
    have hnew := sqrt_le_newton (n := n) hx
    rw [isqrtGo]
    rcases Nat.eq_or_lt_of_le hlo with heq | hlt
    · rw [if_neg (by omega), heq]
    · have hdiv := div_le_sqrt_of_sqrt_lt hlt
      rw [if_pos (by omega)]
      exact ih _ hnew (by omega)

theorem isqrt_eq_sqrt (n : Nat) : isqrt n = Nat.sqrt n := by
  unfold isqrt
  split
  · next hn => rw [hn]; rfl
  · next hn =>
    have hlog : n < 2 ^ (Nat.log2 n + 1) := Nat.lt_log2_self
    have hstart : n < 2 ^ (Nat.log2 n / 2 + 1) * 2 ^ (Nat.log2 n / 2 + 1) := by
      rw [← Nat.pow_add]
      exact Nat.lt_of_lt_of_le hlog (Nat.pow_le_pow_right Nat.two_pos (by omega))
    refine isqrtGo_eq_sqrt hn _ _ (sqrt_le_of_le_mul_self (Nat.le_of_lt hstart)) ?_
    exact Nat.lt_of_lt_of_le (Nat.pow_lt_pow_right (by omega) (by omega)) (Nat.le_add_left _ _)

/-! ### The lower bound of a power of two -/

/-- The next root's lower bound is at least 1 and its square at most the current root, both in units of 2^-P. -/
theorem rootStep_fst_bounds (P : Nat) {r : Nat × Nat} (hr : 2 ^ P ≤ r.1) :
    2 ^ P ≤ (rootStep P r).1 ∧ (rootStep P r).1 ≤ r.1 ∧ (rootStep P r).1 * (rootStep P r).1 ≤ r.1 * 2 ^ P := by
  simp only [rootStep, isqrt_eq_sqrt]
  refine ⟨le_sqrt_of_mul_self_le (Nat.mul_le_mul_right _ hr), ?_, Nat.sqrt_le _⟩
  exact sqrt_le_of_le_mul_self (Nat.mul_le_mul_left _ hr)

/-- What is left to multiply is at most the current root, so the product stays within the first product with it. -/
theorem pow2Go_fst_le (P k n B : Nat) (r acc : Nat × Nat) (hr : 2 ^ P ≤ r.1) (hacc : acc.1 * r.1 ≤ B * 2 ^ P) :
    (pow2Go P k n r acc).1 ≤ B := by
  induction n generalizing r acc with
  | zero => exact Nat.le_of_mul_le_mul_right (Nat.le_trans (Nat.mul_le_mul_left _ hr) hacc) (Nat.two_pow_pos P)
  | succ n ih =>
    obtain ⟨hge, hle, hsq⟩ := rootStep_fst_bounds P hr
    rw [pow2Go]
    refine ih _ _ hge ?_
    split
    · refine Nat.le_of_mul_le_mul_right ?_ (Nat.two_pow_pos P)
      calc acc.1 * (rootStep P r).1 / 2 ^ P * (rootStep P r).1 * 2 ^ P
          = acc.1 * (rootStep P r).1 / 2 ^ P * 2 ^ P * (rootStep P r).1 := Nat.mul_right_comm _ _ _
        _ ≤ acc.1 * (rootStep P r).1 * (rootStep P r).1 := Nat.mul_le_mul_right _ (Nat.div_mul_le_self _ _)
        _ = acc.1 * ((rootStep P r).1 * (rootStep P r).1) := Nat.mul_assoc _ _ _
        _ ≤ acc.1 * (r.1 * 2 ^ P) := Nat.mul_le_mul_left _ hsq
        _ = acc.1 * r.1 * 2 ^ P := (Nat.mul_assoc _ _ _).symm
        _ ≤ B * 2 ^ P * 2 ^ P := Nat.mul_le_mul_right _ hacc
    · exact Nat.le_trans (Nat.mul_le_mul_left _ hle) hacc

theorem pow2Bounds_fst_le (P k p : Nat) : (pow2Bounds P k p).1 ≤ 2 ^ (P + 1) := by
  refine pow2Go_fst_le P k p _ _ _ (Nat.pow_le_pow_right Nat.two_pos (by omega)) ?_
  exact Nat.le_of_eq (Nat.mul_comm _ _)

/-! ### A magnitude below a power of two rounds to at most that power -/

theorem powRound_le {n : Int} {p : Nat} {q j : Int} (hn : n < j * 2 ^ p) (hq : q ≤ j) :
    powRound n p q ≤ 2 ^ (j - q).toNat := by
  have he : n / 2 ^ p < j := Int.ediv_lt_of_lt_mul (Int.pow_pos (by decide)) hn
  have hlo := pow2Bounds_fst_le powP (n % 2 ^ p).toNat p
  simp only [powRound]
  generalize n / 2 ^ p = e at he ⊢
  generalize (pow2Bounds powP (n % 2 ^ p).toNat p).1 = lo at hlo ⊢
  split
  · split
    · exact Nat.pow_le_pow_right Nat.two_pos (by omega)
    · exact Nat.zero_le _
  split
  · calc lo * 2 ^ (-((powP : Int) - (e - q))).toNat
        ≤ 2 ^ (powP + 1) * 2 ^ (-((powP : Int) - (e - q))).toNat := Nat.mul_le_mul_right _ hlo
      _ = 2 ^ (powP + 1 + (-((powP : Int) - (e - q))).toNat) := (Nat.pow_add _ _ _).symm
      _ ≤ 2 ^ (j - q).toNat := Nat.pow_le_pow_right Nat.two_pos (by omega)
  split
  · exact Nat.zero_le _
  · generalize hk : ((powP : Int) - (e - q)).toNat = k
    have hpos : 0 < k := by omega
    have hhalf : 2 ^ (k - 1) < 2 ^ k := Nat.pow_lt_pow_right (by omega) (by omega)
    have hlo' : lo ≤ 2 ^ (j - q).toNat * 2 ^ k := by
      rw [← Nat.pow_add]
      exact Nat.le_trans hlo (Nat.pow_le_pow_right Nat.two_pos (by omega))
    refine Nat.le_of_lt_succ ((Nat.div_lt_iff_lt_mul (Nat.two_pow_pos k)).2 ?_)
    rw [Nat.succ_mul]
    omega

theorem rneDy_toNat_le {m : Nat} {e q j : Int} (hm : dyExp ⟨m, e⟩ < j) (hq : q ≤ j) :
    (rneDy ⟨m, e⟩ q).toNat ≤ 2 ^ (j - q).toNat := by
  have hlog : m < 2 ^ (Nat.log2 m + 1) := Nat.lt_log2_self
  have hexp : (Nat.log2 m : Int) + e < j := hm
  simp only [rneDy, shiftUp, rneDivInt, Int.natAbs_natCast]
  split
  · calc ((m : Int) * 2 ^ (e - q).toNat).toNat = m * 2 ^ (e - q).toNat := by norm_cast
      _ ≤ 2 ^ (Nat.log2 m + 1) * 2 ^ (e - q).toNat := Nat.mul_le_mul_right _ (Nat.le_of_lt hlog)
      _ = 2 ^ (Nat.log2 m + 1 + (e - q).toNat) := (Nat.pow_add _ _ _).symm
      _ ≤ 2 ^ (j - q).toNat := Nat.pow_le_pow_right Nat.two_pos (by omega)
  · rw [if_neg (by omega), Int.toNat_natCast]
    refine rneDiv_le_of_le_mul (Nat.two_pow_pos _) (Nat.le_trans (Nat.le_of_lt hlog) ?_)
    rw [← Nat.pow_add]
    exact Nat.pow_le_pow_right Nat.two_pos (by omega)

/-- The subnormal branch of R38 stays within the code of the power of two that bounds it. -/
theorem Src.round_le_of_below {x : Src} {j q : Int} (h : x.below j = true) (hq : q ≤ j) :
    x.round q ≤ 2 ^ (j - q).toNat := by
  cases x with
  | dy s m e => exact rneDy_toNat_le (of_decide_eq_true h) hq
  | pow s n p => exact powRound_le (of_decide_eq_true h) hq
  | nan | inf s | zero s => exact Nat.zero_le _

end Sys2Proof

/-!
PROOFS. The conversions into an L format and the products of specials (02_log_formats R39, R43).
-/
namespace Sys2Proof

/-! ### The branches of a conversion (R38) -/

/-- A source that is a finite nonzero value, linear or logarithmic. -/
def Src.IsFinite (x : Src) : Prop := (∃ s m e, x = .dy s m e ∧ m ≠ 0) ∨ (∃ s n p, x = .pow s n p)

theorem toL_of_below {f : LPar} {x : Src} {u : Int} (hx : x.IsFinite) (hu : f.u = some u)
    (hb : x.below ((f.k - f.b) / 2 ^ f.p) = true) : toL f x = (lCode f x.sign (x.round u), false) := by
  obtain ⟨s, m, e, rfl, -⟩ | ⟨s, n, p, rfl⟩ := hx <;> simp only [toL, hu, hb, if_true]

theorem toL_of_not_below {f : LPar} {x : Src} (hx : x.IsFinite)
    (hb : (f.u.isSome && x.below ((f.k - f.b) / 2 ^ f.p)) = false) :
    toL f x = (lCode f x.sign (roundLog f x).1, (roundLog f x).2) := by
  cases hu : f.u with
  | none => obtain ⟨s, m, e, rfl, -⟩ | ⟨s, n, p, rfl⟩ := hx <;> simp only [toL, hu]
  | some u =>
    simp only [hu, Option.isSome_some, Bool.true_and] at hb
    obtain ⟨s, m, e, rfl, -⟩ | ⟨s, n, p, rfl⟩ := hx <;> simp only [toL, hu, hb, Bool.false_eq_true, if_false]

theorem roundLog_of_gt {f : LPar} {x : Src} (h : f.m < x.steps f.p + f.b) : roundLog f x = (f.m.toNat, true) :=
  if_pos h

theorem roundLog_of_le {f : LPar} {x : Src} (h : x.steps f.p + f.b ≤ f.m) :
    roundLog f x = ((x.steps f.p + f.b).toNat, false) := by
  rw [roundLog, if_neg (Int.not_lt.2 h)]
  split
  · rw [Int.toNat_of_nonpos (by omega)]
  · rfl

theorem roundLog_fst_le (f : LPar) (x : Src) : (roundLog f x).1 ≤ f.m.toNat := by
  rcases Int.lt_or_le f.m (x.steps f.p + f.b) with h | h
  · exact Nat.le_of_eq (congrArg Prod.fst (roundLog_of_gt h))
  · rw [roundLog_of_le h]
    exact Int.toNat_le_toNat h

/-- The logarithm in code steps is the integer nearest to lam * 2^p, the even one on a tie (R39). -/
theorem Src.steps_nearest (x : Src) (p : Nat) :
    2 * (x.steps p * 2 ^ 24 - x.lam * 2 ^ p).natAbs ≤ 2 ^ 24
      ∧ (2 * (x.steps p * 2 ^ 24 - x.lam * 2 ^ p).natAbs = 2 ^ 24 → x.steps p % 2 = 0) :=
  rneDivInt_nearest (x.lam * 2 ^ p) (Nat.two_pow_pos 24)

/-! ### The parameters of Table 2-2 -/

/-- The biases are even, and the largest finite code lies below the infinity code. -/
theorem lPar_bias_even_max_lt_inf : ∀ f ∈ [parL8, parL16, parL32], f.b % 2 = 0 ∧ f.m.toNat < f.inf := by decide

/-- The smallest normal magnitude, in subnormal steps, is a finite code. -/
theorem lPar_subnormal_limit_le : ∀ f ∈ [parL8, parL16, parL32], ∀ u ∈ f.u,
    u ≤ (f.k - f.b) / 2 ^ f.p ∧ 2 ^ ((f.k - f.b) / 2 ^ f.p - u).toNat ≤ f.m.toNat := by decide

/-- The subnormal branch gives a finite code with the source's sign. -/
theorem toL_fst_of_below {f : LPar} (hf : f ∈ [parL8, parL16, parL32]) {x : Src} (hx : x.IsFinite)
    (hb : (f.u.isSome && x.below ((f.k - f.b) / 2 ^ f.p)) = true) :
    ∃ c : Nat, (toL f x).1 = lCode f x.sign c ∧ c ≤ f.m.toNat := by
  obtain ⟨hsome, hbelow⟩ := Bool.and_eq_true_iff.1 hb
  obtain ⟨u, hu⟩ := Option.isSome_iff_exists.1 hsome
  obtain ⟨hq, hmax⟩ := lPar_subnormal_limit_le f hf u hu
  exact ⟨x.round u, by rw [toL_of_below hx hu hbelow], Nat.le_trans (Src.round_le_of_below hbelow hq) hmax⟩

/-- Settles O60, by the two branches of R38: the subnormal one stays at or below the smallest normal code, and the
logarithmic one rounds to the nearest code and is limited to the largest finite. -/
theorem conversionsTieToTheEvenCode : Obligations.ConversionsTieToTheEvenCode := by
  intro f hf
  obtain ⟨heven, hinf⟩ := lPar_bias_even_max_lt_inf f hf
  refine ⟨heven, ⟨hinf, fun _ => rfl⟩, fun x hx => ?_⟩
  cases hb : f.u.isSome && x.below ((f.k - f.b) / 2 ^ f.p) with
  | true =>
    obtain ⟨c, hcode, hc⟩ := toL_fst_of_below hf hx hb
    exact ⟨c, hcode, hc, fun h => nomatch h⟩
  | false =>
    obtain ⟨hnear, htie⟩ := x.steps_nearest f.p
    rw [toL_of_not_below hx hb]
    refine ⟨(roundLog f x).1, rfl, roundLog_fst_le f x, fun _ => ⟨x.steps f.p, hnear, htie, fun h => ?_, fun h => ?_⟩⟩
    · simp only [roundLog_of_gt h, and_self]
    · simp only [roundLog_of_le h, and_self]

/-! ### Products of specials (R43) -/

theorem extMul_nan_right (work : LPar) (x : Ext) : extMul work x .nan = .nan := by
  cases x <;> rfl

theorem weightDecode_l4_zero {v : Nat} (h : v % 8 = 0) : weightDecode .l4 v = .zero (bitAt v 3) := if_pos h

theorem weightDecode_w2z_zero {v : Nat} (h : bitAt v 0 = false) : weightDecode .w2z v = .zero false := by
  simp only [weightDecode, h, Bool.false_eq_true, if_false]

/-- Settles O59, row by row of Table 2-9, then the zeros of the weight-only formats. -/
theorem productsFollowTheirTable : Obligations.ProductsFollowTheirTable := by
  refine ⟨fun work x s s' t => ⟨rfl, extMul_nan_right work x, ?_⟩, fun v => weightDecode_l4_zero,
    fun v => weightDecode_w2z_zero, fun _ _ _ => rfl⟩
  exact ⟨rfl, rfl, rfl, rfl, rfl, rfl, rfl, rfl, rfl⟩

end Sys2Proof

/-!
SUPPORT. What only the fuses and the straps decide, and what a command can do to it: MIN_SVN (R244), the straps as they
were sampled (R336).
-/
namespace Sys2Proof.Machine

/-! ## The fuses and the straps

Almost no command changes MIN_SVN (R244) or the straps as they were sampled (R336). `State.fixed` is that part of the state.
Every operation of the model gets one lemma, named after it, that says it leaves the part as it was; a caller's lemma
follows from those of what it calls. -/

/-- MIN_SVN, and the straps as last sampled. -/
structure Fixed where
  minSvn : BitVec 32
  straps : Straps

def State.fixed (s : State) : Fixed :=
  ⟨s.ch.minSvn, { hostMode := s.pins.strapHost, tileId := s.pins.strapTile, bootSrc := s.pins.strapBoot }⟩

/-- A command's outcome, where it is a next state, leaves the fixed part as it was. -/
def KeepsFixed (s : State) : Res → Prop
  | .next t => t.fixed = s.fixed
  | _ => True

/- The next two are not marked as true by definition: the kernel would then compare whole states to check a `simp` that
uses them. -/
@[simp] theorem fixed_mk (pi pins hg he ap fl ba sl sc ch sb cn hp flash pending out free) :
    State.fixed ⟨pi, pins, hg, he, ap, fl, ba, sl, sc, ch, sb, cn, hp, flash, pending, out, free⟩
      = ⟨ch.minSvn, ⟨pins.strapHost, pins.strapTile, pins.strapBoot⟩⟩ := (rfl)
@[simp] theorem fixed_eta (s : State) :
    (⟨s.ch.minSvn, ⟨s.pins.strapHost, s.pins.strapTile, s.pins.strapBoot⟩⟩ : Fixed) = s.fixed := (rfl)

theorem minSvn_of_fixed {s t : State} (h : t.fixed = s.fixed) : t.ch.minSvn = s.ch.minSvn := congrArg Fixed.minSvn h

@[simp] theorem ite_fixed {c : Prop} [Decidable c] (a b : State) :
    (if c then a else b).fixed = if c then a.fixed else b.fixed := apply_ite State.fixed c a b
@[simp] theorem ite_fst_fixed {α : Type} {c : Prop} [Decidable c] (a b : State × α) :
    (if c then a else b).1.fixed = if c then a.1.fixed else b.1.fixed := apply_ite (·.1.fixed) c a b

@[simp] theorem keepsFixed_next (s t : State) : KeepsFixed s (.next t) ↔ t.fixed = s.fixed := Iff.rfl
@[simp] theorem keepsFixed_ite {c : Prop} [Decidable c] (s : State) (a b : Res) :
    KeepsFixed s (if c then a else b) ↔ if c then KeepsFixed s a else KeepsFixed s b := by
  split <;> rfl

/-- A list of changes that each keep the fixed part of a state keeps it, also of a state that is carried with more. -/
theorem foldl_proj_fixed {α σ : Type} (p : σ → State) {g : σ → α → σ}
    (h : ∀ r x, (p (g r x)).fixed = (p r).fixed) (xs : List α) (r : σ) : (p (xs.foldl g r)).fixed = (p r).fixed := by
  induction xs generalizing r with
  | nil => rfl
  | cons x xs ih => exact (ih _).trans (h r x)

@[simp] theorem foldl_fixed {α : Type} {g : State → α → State} (h : ∀ s x, (g s x).fixed = s.fixed) (xs : List α)
    (s : State) : (xs.foldl g s).fixed = s.fixed := foldl_proj_fixed id h xs s
theorem foldl_fst_fixed {α β : Type} {g : State × β → α → State × β} (h : ∀ r x, (g r x).1.fixed = r.1.fixed)
    (xs : List α) (r : State × β) : (xs.foldl g r).1.fixed = r.1.fixed := foldl_proj_fixed Prod.fst h xs r

/-! The frames of Laws/Ops leave the fixed part as it was. -/

theorem OnlyFurrows.fixed {s t : State} (h : OnlyFurrows s t) : t.fixed = s.fixed := by rw [h, fixed_mk, fixed_eta]
theorem OnlyTurns.fixed {s t : State} (h : OnlyTurns s t) : t.fixed = s.fixed := by rw [h, fixed_mk, fixed_eta]
theorem OnlyHeadgate.fixed {s t : State} (h : OnlyHeadgate s t) : t.fixed = s.fixed := by rw [h, fixed_mk, fixed_eta]
theorem OnlyEvent.fixed {s t : State} (h : OnlyEvent s t) : t.fixed = s.fixed := by rw [h, fixed_mk, fixed_eta]

/-! ### Tables of the state, interrupts, memory (Machine/Ops) -/

@[simp] theorem setFur_fixed (s f x) : (setFur s f x).fixed = s.fixed := (setFur_only ..).fixed
@[simp] theorem modFur_fixed (f g s) : (modFur f g s).fixed = s.fixed := (modFur_only ..).fixed
@[simp] theorem modPlot_fixed (p g s) : (modPlot p g s).fixed = s.fixed := (modPlot_headgate ..).fixed
@[simp] theorem modMail_fixed (p g s) : (modMail p g s).fixed = s.fixed := (modMail_headgate ..).fixed
@[simp] theorem setEvent_fixed (s p e v) : (setEvent s p e v).fixed = s.fixed := by simp [setEvent]
@[simp] theorem modDom_fixed (d g s) : (modDom d g s).fixed = s.fixed := (modDom_turns ..).fixed
@[simp] theorem setFb_fixed (s q x) : (setFb s q x).fixed = s.fixed := by simp [setFb]
@[simp] theorem modFb_fixed (q g s) : (modFb q g s).fixed = s.fixed := by simp [modFb]
@[simp] theorem modFbs_fixed (qs g s) : (modFbs qs g s).fixed = s.fixed := by rw [modFbs_frame, fixed_mk, fixed_eta]
@[simp] theorem setSlot_fixed (s n x) : (setSlot s n x).fixed = s.fixed := by simp [setSlot]
@[simp] theorem modSlot_fixed (n g s) : (modSlot n g s).fixed = s.fixed := by simp [modSlot]
@[simp] theorem setTable_fixed (s n x) : (setTable s n x).fixed = s.fixed := by simp [setTable]
@[simp] theorem setChan_fixed (s c x) : (setChan s c x).fixed = s.fixed := by simp [setChan]
@[simp] theorem setCore_fixed (s c x) : (setCore s c x).fixed = s.fixed := by simp [setCore]
@[simp] theorem modCore_fixed (c g s) : (modCore c g s).fixed = s.fixed := by simp [modCore]
@[simp] theorem setPort_fixed (s n x) : (setPort s n x).fixed = s.fixed := by simp [setPort]
@[simp] theorem modPort_fixed (n g s) : (modPort n g s).fixed = s.fixed := by simp [modPort]
@[simp] theorem setPower_fixed (s d x) : (setPower s d x).fixed = s.fixed := by simp [setPower]
@[simp] theorem setSrc_fixed (s n x) : (setSrc s n x).fixed = s.fixed := by simp [setSrc]
@[simp] theorem emit_fixed (o s) : (emit o s).fixed = s.fixed := by simp [emit]
@[simp] theorem modVector_fixed (fn v g s) : (modVector fn v g s).fixed = s.fixed := by simp [modVector]
@[simp] theorem msix_fixed (fn v s) : (msix fn v s).fixed = s.fixed := (msix_event ..).fixed
@[simp] theorem takeFree_fixed (s) : (takeFree s).2.fixed = s.fixed := by simp [takeFree]
@[simp] theorem hgStop_fixed (s) : (hgStop s).fixed = s.fixed := by simp [hgStop]

@[simp] theorem rewriteService_fixed (s) : (rewriteService s).fixed = s.fixed := by
  rw [rewriteService_frame, fixed_mk, fixed_eta]

@[simp] theorem setMem_fixed (hbm s m bad) : (setMem hbm s m bad).fixed = s.fixed := by simp [setMem]
@[simp] theorem putMem_fixed (hbm s a bs) : (putMem hbm s a bs).fixed = s.fixed := by simp [putMem]
@[simp] theorem writeMem_fixed (hbm s a bs) : (writeMem hbm s a bs).1.fixed = s.fixed := by simp [writeMem]
@[simp] theorem zeroMem_fixed (hbm s a n) : (zeroMem hbm s a n).fixed = s.fixed := by simp [zeroMem]
@[simp] theorem ignite_fixed (ds s) : (ignite ds s).fixed = s.fixed := (ignite_event ..).fixed

/-! ### Mailbox responses (Machine/Mail) -/

@[simp] theorem respond_fixed (p status body s) : (respond p status body s).fixed = s.fixed :=
  (respond_headgate ..).fixed

@[simp] theorem answerSchedSet_fixed (s) : (answerSchedSet s).fixed = s.fixed := (answerSchedSet_headgate ..).fixed

/-! ### Scheduling, completion, retirement (Machine/Sched) -/

@[simp] theorem modOp_fixed (f id g s) : (modOp f id g s).fixed = s.fixed := (modOp_only ..).fixed
@[simp] theorem captureTable_fixed (s) : (captureTable s).fixed = s.fixed := by simp [captureTable]
@[simp] theorem settleCommit_fixed (s) : (settleCommit s).fixed = s.fixed := (settleCommit_headgate ..).fixed
@[simp] theorem roundStart_fixed (d s) : (roundStart d s).fixed = s.fixed := (roundStart_headgate ..).fixed
@[simp] theorem useCredit_fixed (d g s) : (useCredit d g s).fixed = s.fixed := (useCredit_headgate ..).fixed
@[simp] theorem giveSlice_fixed (d g s) : (giveSlice d g s).fixed = s.fixed := (giveSlice_headgate ..).fixed

theorem takeTurn_fixed {d f s t} (h : takeTurn d f s = some t) : t.fixed = s.fixed :=
  (takeTurn_headgate h).fixed

@[simp] theorem bumpProgress_fixed (f s) : (bumpProgress f s).fixed = s.fixed := (bumpProgress_only ..).fixed

@[simp] theorem times_fixed (n) {g : State → State} (hg : ∀ s, (g s).fixed = s.fixed) (s) :
    (times n g s).fixed = s.fixed := by
  simp [times, hg]

@[simp] theorem retire_fixed (f s) : (retire f s).fixed = s.fixed := (retire_only ..).fixed
@[simp] theorem drainCheck_fixed (f s) : (drainCheck f s).fixed = s.fixed := (drainCheck_only ..).fixed
@[simp] theorem yieldSlice_fixed (d f s) : (yieldSlice d f s).fixed = s.fixed := (yieldSlice_turns ..).fixed
@[simp] theorem idleFbs_fixed (qs s) : (idleFbs qs s).fixed = s.fixed := by simp [idleFbs]

@[simp] theorem completeOp_fixed (f id reason sat s) : (completeOp f id reason sat s).fixed = s.fixed := by
  rw [completeOp_frame, fixed_mk, fixed_eta]

@[simp] theorem endOp_fixed (f id reason s) : (endOp f id reason s).fixed = s.fixed := (endOp_only ..).fixed
@[simp] theorem stopHearth_fixed (f o s) : (stopHearth f o s).fixed = s.fixed := by simp [stopHearth]
@[simp] theorem launched_fixed (f o s) : (launched f o s).fixed = s.fixed := (launched_only ..).fixed

/-! ### Fault events (Machine/Raise) -/

@[simp] theorem collectorIrq_fixed (s) : (collectorIrq s).fixed = s.fixed := (collectorIrq_event ..).fixed
@[simp] theorem raiseBare_fixed (n plot s) : (raiseBare n plot s).fixed = s.fixed := (raiseBare_event ..).fixed

@[simp] theorem stopDomain_fixed (d s) : (stopDomain d s).fixed = s.fixed := by
  unfold stopDomain
  split <;> simp

@[simp] theorem loseUnit_fixed (bit s) : (loseUnit bit s).fixed = s.fixed := by simp [loseUnit]
@[simp] theorem markOut_fixed (bit s) : (markOut bit s).fixed = s.fixed := by simp [markOut]
@[simp] theorem markUnit_fixed (bit s) : (markUnit bit s).fixed = s.fixed := by simp [markUnit]

@[simp] theorem raiseUnit_fixed (n plot unit s) : (raiseUnit n plot unit s).fixed = s.fixed := by
  simp only [raiseUnit]
  repeat' split
  all_goals simp

@[simp] theorem raise_fixed (n plot s) : (raise n plot s).fixed = s.fixed := by simp [raise]
@[simp] theorem conflict_fixed (bit s) : (conflict bit s).fixed = s.fixed := by simp [conflict]
@[simp] theorem memUncorr_fixed (hbm plot s) : (memUncorr hbm plot s).fixed = s.fixed := by simp [memUncorr]
@[simp] theorem memCorr_fixed (hbm s) : (memCorr hbm s).fixed = s.fixed := by simp [memCorr]
@[simp] theorem haltFurrow_fixed (f reason s) : (haltFurrow f reason s).fixed = s.fixed := by simp [haltFurrow]

/-! ### Dispatch and the saved records of slots (Machine/Launch) -/

@[simp] theorem reject_fixed (f o code s) : (reject f o code s).fixed = s.fixed := by
  rw [reject_frame, fixed_mk, fixed_eta]

theorem innerSnap_error_fixed {f o s t} (h : innerSnap f o s = .error t) : t.fixed = s.fixed := by
  simp only [innerSnap] at h
  split at h
  · cases h
  · split at h <;> cases h
    simp

theorem takeSnapshot_error_fixed {f o s t} (h : takeSnapshot f o s = .error t) : t.fixed = s.fixed := by
  simp only [takeSnapshot] at h
  split at h
  · cases h
  · split at h
    · cases h
      simp
    · split at h
      · cases h
      · split at h
        · exact innerSnap_error_fixed h
        · cases h
          simp

theorem beginDispatch_error_fixed {f sel needs s t} (h : beginDispatch f sel needs s = .error t) : t.fixed = s.fixed := by
  unfold beginDispatch at h
  split at h
  · cases h
    rfl
  · split at h
    · cases h
      rfl
    · split at h
      · cases h
        simp
      · exact takeSnapshot_error_fixed h

theorem beginDispatch_ok_fixed {f sel needs s o t} (h : beginDispatch f sel needs s = .ok (o, t)) : t.fixed = s.fixed :=
  (beginDispatch_ok h).1.fixed

theorem beginEngine_error_fixed {d f sel needs s t} (h : beginEngine d f sel needs s = .error t) : t.fixed = s.fixed := by
  unfold beginEngine at h
  split at h
  · split at h
    · split at h <;> cases h <;> simp
    · cases h
      rfl
  · split at h
    · cases h
      rfl
    · split at h
      · cases h
        simp
      · split at h
        · cases h
          rfl
        · next hturn => exact (takeSnapshot_error_fixed h).trans (takeTurn_fixed hturn)

theorem beginEngine_ok_fixed {d f sel needs s o t} (h : beginEngine d f sel needs s = .ok (o, t)) : t.fixed = s.fixed := by
  unfold beginEngine at h
  split at h
  · split at h
    · split at h <;> cases h
    · cases h
  · split at h
    · cases h
    · split at h
      · cases h
      · split at h
        · cases h
        · next hturn => exact (takeSnapshot_ok h).fixed.trans (takeTurn_fixed hturn)

@[simp] theorem rejectCode_fixed (f o code s) : (rejectCode f o code s).fixed = s.fixed := by simp [rejectCode]
@[simp] theorem tableUncorr_fixed (p half s) : (tableUncorr p half s).fixed = s.fixed := by simp [tableUncorr]
@[simp] theorem eccEntries_fixed (n p s) : (eccEntries n p s).fixed = s.fixed := by simp [eccEntries]
@[simp] theorem saveRecord_fixed (n s) : (saveRecord n s).fixed = s.fixed := by simp [saveRecord]
@[simp] theorem dropRecord_fixed (n s) : (dropRecord n s).fixed = s.fixed := by simp [dropRecord]

@[simp] theorem restoreImage_fixed (n a shape p s) : (restoreImage n a shape p s).1.fixed = s.fixed := by
  simp [restoreImage]

@[simp] theorem serveRecord_fixed (n p s) : (serveRecord n p s).1.fixed = s.fixed := by
  simp only [serveRecord]
  repeat' split
  all_goals simp

/-! ### GEMM (Machine/Hearth) -/

@[simp] theorem initStats_fixed (p r s) : (initStats p r s).fixed = s.fixed := by simp [initStats]
@[simp] theorem showStart_fixed (s0 f n s) : (showStart s0 f n s).fixed = s.fixed := by simp [showStart]
@[simp] theorem gemmStart_fixed (f o s) : (gemmStart f o s).fixed = s.fixed := by simp [gemmStart]

theorem execGemm_fixed (f s) : KeepsFixed s (execGemm f s) := by
  unfold execGemm
  split
  · next h => exact beginEngine_error_fixed h
  · next h => simp [beginEngine_ok_fixed h]

@[simp] theorem putCells_fixed (n rows s) : (putCells n rows s).fixed = s.fixed := by simp [putCells]
@[simp] theorem entryUncorr_fixed (n i p s) : (entryUncorr n i p s).fixed = s.fixed := by simp [entryUncorr]
@[simp] theorem flagHw_fixed (f id s) : (flagHw f id s).fixed = s.fixed := by simp [flagHw]
@[simp] theorem putEntry_fixed (n i v clamp s) : (putEntry n i v clamp s).fixed = s.fixed := by simp [putEntry]

@[simp] theorem foldColumn_fixed (f o g q pa work as rows m s c) :
    (foldColumn f o g q pa work as rows m s c).fixed = s.fixed := by
  simp [foldColumn]

@[simp] theorem loadBlock_fixed (f o g q pa s) : (loadBlock f o g q pa s).fixed = s.fixed := by simp [loadBlock]
@[simp] theorem issueRow_fixed (f o g q pa j s) : (issueRow f o g q pa j s).fixed = s.fixed := by simp [issueRow]
@[simp] theorem endPass_fixed (f o g q s) : (endPass f o g q s).fixed = s.fixed := by simp [endPass]

@[simp] theorem runRows_fixed (f g q pa id n s) : (runRows f g q pa id n s).fixed = s.fixed := by
  induction n generalizing s with
  | zero => rfl
  | succ n ih =>
    unfold runRows
    split
    · rfl
    · simp [ih]

@[simp] theorem runPass_fixed (f o rows s) : (runPass f o rows s).fixed = s.fixed := by simp [runPass]
@[simp] theorem lockstepReport_fixed (f n s) : (lockstepReport f n s).fixed = s.fixed := by simp [lockstepReport]

@[simp] theorem passFault_fixed (f o flt s) : (passFault f o flt s).fixed = s.fixed := by
  simp only [passFault]
  repeat' split
  all_goals simp

@[simp] theorem abandonSave_fixed (f o n s) : (abandonSave f o n s).fixed = s.fixed := by simp [abandonSave]

theorem execPassStart_fixed (d rows flt s) : KeepsFixed s (execPassStart d rows flt s) := by
  simp only [execPassStart]
  repeat' split
  all_goals simp

@[simp] theorem updateRecord_fixed (p slot r m n x s) : (updateRecord p slot r m n x s).1.fixed = s.fixed := by
  simp [updateRecord]

@[simp] theorem countHalf_fixed (h n s) : (countHalf h n s).fixed = s.fixed := by simp [countHalf]
@[simp] theorem readElem_fixed (c m n v s) : (readElem c m n v s).1.fixed = s.fixed := by simp [readElem]

@[simp] theorem readCols_fixed (c m) {get : State → Nat → State × Acc}
    (hget : ∀ s n, (get s n).1.fixed = s.fixed) (ns s) :
    (readCols c m get ns s).1.fixed = s.fixed := by
  induction ns generalizing s with
  | nil => rfl
  | cons n ns ih => simp [readCols, ih, hget]

@[simp] theorem gemmEntry_fixed (f id slot q m s n) : (gemmEntry f id slot q m s n).1.fixed = s.fixed := by
  simp [gemmEntry]

@[simp] theorem readRow_fixed (f o a s) : (readRow f o a s).fixed = s.fixed := by
  simp only [readRow]
  repeat' split
  all_goals simp

theorem execSlotRowReadout_fixed (d s) : KeepsFixed s (execSlotRowReadout d s) := by
  simp only [execSlotRowReadout]
  repeat' split
  all_goals simp

/-! ### Context commands and the engine mode (Machine/Context) -/

@[simp] theorem ctxAct_fixed (op n s) : (ctxAct op n s).fixed = s.fixed := by simp [ctxAct]
@[simp] theorem ctxCommand_fixed (op n s) : (ctxCommand op n s).fixed = s.fixed := by simp [ctxCommand]

@[simp] theorem settleCtx_fixed (s) : (settleCtx s).fixed = s.fixed := by
  unfold settleCtx
  split <;> simp

@[simp] theorem writeMode_fixed (v s) : (writeMode v s).fixed = s.fixed := by simp [writeMode]
@[simp] theorem changeMode_fixed (s) : (changeMode s).fixed = s.fixed := by simp [changeMode]
@[simp] theorem endSequence_fixed (s) : (endSequence s).fixed = s.fixed := by simp [endSequence]
@[simp] theorem saveAndWrite_fixed (m s) : (saveAndWrite m s).fixed = s.fixed := by simp [saveAndWrite]

@[simp] theorem continueMode_fixed (s) : (continueMode s).fixed = s.fixed := by
  unfold continueMode
  split <;> simp

@[simp] theorem askMode_fixed (m s) : (askMode m s).fixed = s.fixed := by simp [askMode]

/-! ### Leases and slot moves (Machine/Slots) -/

@[simp] theorem ordered_fixed (f c needs check ready) {act : Op → State → State}
    (hact : ∀ o s, (act o s).fixed = s.fixed) (s) :
    (ordered f c needs check ready act s).fixed = s.fixed := by
  unfold ordered
  split
  · simp [hact]
  · split
    · next h => exact beginDispatch_error_fixed h
    · next h => simp [hact, beginDispatch_ok_fixed h]

@[simp] theorem endLease_fixed (n s) : (endLease n s).fixed = s.fixed := by simp [endLease]
@[simp] theorem leaseAct_fixed (f o s) : (leaseAct f o s).fixed = s.fixed := by simp [leaseAct]
@[simp] theorem releaseAct_fixed (f o s) : (releaseAct f o s).fixed = s.fixed := by simp [releaseAct]
@[simp] theorem takeEntry_fixed (f id n i s) : (takeEntry f id n i s).1.fixed = s.fixed := by simp [takeEntry]
@[simp] theorem takePartner_fixed (f id d i s q) : (takePartner f id d i s q).1.fixed = s.fixed := by simp [takePartner]
@[simp] theorem slotContent_fixed (f id d m s n) : (slotContent f id d m s n).1.fixed = s.fixed := by simp [slotContent]

@[simp] theorem readRows_fixed (c) {get : Nat → State → Nat → State × Acc}
    (hget : ∀ m s n, (get m s n).1.fixed = s.fixed) (cols ms s) :
    (readRows c get cols ms s).1.fixed = s.fixed := by
  induction ms generalizing s with
  | nil => rfl
  | cons m ms ih => simp [readRows, ih, hget]

@[simp] theorem serveRecords_fixed (p ns s) : (serveRecords p ns s).1.fixed = s.fixed := by
  induction ns generalizing s with
  | nil => rfl
  | cons n ns ih => simp [serveRecords, ih]

@[simp] theorem slotBegin_fixed (f o ns s) : (slotBegin f o ns s).1.fixed = s.fixed := by simp [slotBegin]
@[simp] theorem slotEnd_fixed (f id h s) : (slotEnd f id h s).fixed = s.fixed := by simp [slotEnd]
@[simp] theorem slotReadRun_fixed (f o s) : (slotReadRun f o s).fixed = s.fixed := by simp [slotReadRun]

@[simp] theorem writeCols_fixed (d p m ns s) : (writeCols d p m ns s).1.fixed = s.fixed := by
  induction ns generalizing s with
  | nil => rfl
  | cons n ns ih => simp [writeCols, ih]

@[simp] theorem writeRows_fixed (d p ms s) : (writeRows d p ms s).1.fixed = s.fixed := by
  induction ms generalizing s with
  | nil => rfl
  | cons m ms ih => simp [writeRows, ih]

@[simp] theorem slotWriteRun_fixed (f o s) : (slotWriteRun f o s).fixed = s.fixed := by simp [slotWriteRun]
@[simp] theorem saveRun_fixed (f o s) : (saveRun f o s).fixed = s.fixed := by simp [saveRun]

@[simp] theorem restoreRun_fixed (f o s) : (restoreRun f o s).fixed = s.fixed := by
  simp only [restoreRun]
  repeat' split
  all_goals simp

@[simp] theorem headerUncorr_fixed (f o s) : (headerUncorr f o s).fixed = s.fixed := by simp [headerUncorr]

@[simp] theorem slotMove_fixed (f form check) {run : Nat → Op → State → State}
    (hrun : ∀ f o s, (run f o s).fixed = s.fixed) (s) :
    (slotMove f form check run s).fixed = s.fixed := by
  unfold slotMove
  split
  · next h => exact beginEngine_error_fixed h
  · next h => simp [hrun, beginEngine_ok_fixed h]

/-! ### Rings, fetches, events (Machine/Furrows) -/

@[simp] theorem fillLine_fixed (p a bytes s) : (fillLine p a bytes s).fixed = s.fixed := by simp [fillLine]

@[simp] theorem translate_fixed (p a pages s) : (translate p a pages s).2.2.fixed = s.fixed := by
  simp only [translate]
  repeat' split
  all_goals simp

@[simp] theorem fetchLine_fixed (p a fresh pages s) : (fetchLine p a fresh pages s).state.fixed = s.fixed := by
  simp only [fetchLine]
  repeat' split
  all_goals simp

@[simp] theorem fetchLines_fixed (p n a fresh pages s) : (fetchLines p n a fresh pages s).state.fixed = s.fixed := by
  induction n generalizing a fresh pages s with
  | zero => rfl
  | succ n ih => simp [fetchLines, ih]

@[simp] theorem fetchHost_fixed (p a n fresh pages s) : (fetchHost p a n fresh pages s).state.fixed = s.fixed := by
  simp only [fetchHost]
  repeat' split
  all_goals simp

@[simp] theorem armFur_fixed (f s) : (armFur f s).fixed = s.fixed := by simp [armFur]
@[simp] theorem disarmFur_fixed (f s) : (disarmFur f s).fixed = s.fixed := by simp [disarmFur]
@[simp] theorem storeTail_fixed (f tail s) : (storeTail f tail s).fixed = s.fixed := by simp [storeTail]

@[simp] theorem ringDoorbell_fixed (p i tail s) : (ringDoorbell p i tail s).fixed = s.fixed := by
  unfold ringDoorbell
  split <;> simp

@[simp] theorem acceptDesc_fixed (f b s) : (acceptDesc f b s).fixed = s.fixed := by simp [acceptDesc]

@[simp] theorem checkDesc_fixed (f b s) : (checkDesc f b s).fixed = s.fixed := by
  unfold checkDesc
  split <;> simp

@[simp] theorem fetchDesc_fixed (x fresh pages s) : (fetchDesc x fresh pages s).state.fixed = s.fixed := by
  simp only [fetchDesc]
  repeat' split
  all_goals simp

@[simp] theorem execDescriptorFetch_fixed (f r s) : KeepsFixed s (execDescriptorFetch f r s) := by
  simp only [execDescriptorFetch]
  repeat' split
  all_goals simp

@[simp] theorem finishWait_fixed (f o s) : (finishWait f o s).fixed = s.fixed := by simp [finishWait]

@[simp] theorem wakeEvent_fixed (p e s) : (wakeEvent p e s).fixed = s.fixed :=
  foldl_fixed (fun t f => by split <;> simp) _ s

@[simp] theorem recordAct_fixed (f o s) : (recordAct f o s).fixed = s.fixed := by simp [recordAct]

@[simp] theorem writeRing_fixed (p x bytes s) : (writeRing p x bytes s).fixed = s.fixed := by
  unfold writeRing
  split <;> simp

@[simp] theorem spawnAct_fixed (f o s) : (spawnAct f o s).fixed = s.fixed := by simp [spawnAct]
@[simp] theorem parkAct_fixed (f o s) : (parkAct f o s).fixed = s.fixed := by simp [parkAct]

@[simp] theorem execSnapshotTaken_fixed (f r s) : KeepsFixed s (execSnapshotTaken f r s) := by
  simp only [execSnapshotTaken]
  repeat' split
  all_goals simp

theorem execOperationComplete_fixed (f ticket s) : KeepsFixed s (execOperationComplete f ticket s) := by
  unfold execOperationComplete
  split <;> simp

@[simp] theorem failClear_fixed (p i s) : (failClear p i s).fixed = s.fixed := by
  unfold failClear
  split <;> simp

/-! ### The Flue (Machine/FlueOps) -/

@[simp] theorem runFlueRow_fixed (f o s) : (runFlueRow f o s).fixed = s.fixed := by simp [runFlueRow]

@[simp] theorem runFlueRows_fixed (f id n s) : (runFlueRows f id n s).fixed = s.fixed := by
  induction n generalizing s with
  | zero => rfl
  | succ n ih =>
    unfold runFlueRows
    split
    · simp [ih]
    · rfl

@[simp] theorem flueStart_fixed (f o s) : (flueStart f o s).fixed = s.fixed := by simp [flueStart]

@[simp] theorem flueCommand_fixed (f rows sel s) : (flueCommand f rows sel s).fixed = s.fixed := by
  unfold flueCommand
  split
  · simp
  · split
    · next h => exact beginEngine_error_fixed h
    · next h => simp [beginEngine_ok_fixed h]

@[simp] theorem stampWait_fixed (f o s) : (stampWait f o s).fixed = s.fixed := by simp [stampWait]

theorem execTableLoad_fixed (f s) : KeepsFixed s (execTableLoad f s) := by
  simp only [execTableLoad, keepsFixed_next]
  split
  · next h => exact beginDispatch_error_fixed h
  · next h => simp [beginDispatch_ok_fixed h]

@[simp] theorem flipBank_fixed (n v s) : (flipBank n v s).fixed = s.fixed := by
  simp only [flipBank]
  repeat' split
  all_goals simp

theorem execTableLoadSwap_fixed (n s) : KeepsFixed s (execTableLoadSwap n s) := by
  unfold execTableLoadSwap
  split <;> simp

/-! ### Moves (Machine/Sluices) -/

@[simp] theorem moveStart_fixed (f o c s) : (moveStart f o c s).fixed = s.fixed := by simp [moveStart]

@[simp] theorem sluiceMoveCmd_fixed (f s) : (sluiceMoveCmd f s).fixed = s.fixed := by
  unfold sluiceMoveCmd
  split
  · rfl
  · split
    · split
      · next h => exact beginDispatch_error_fixed h
      · next h => simp [beginDispatch_ok_fixed h]
    · split
      · next h => exact beginEngine_error_fixed h
      · next h =>
        simp only
        split
        · simp [beginEngine_ok_fixed h]
        · split <;> simp [beginEngine_ok_fixed h]

@[simp] theorem moveStop_fixed (f o reason s) : (moveStop f o reason s).fixed = s.fixed := by simp [moveStop]

@[simp] theorem segWrite_fixed (f o d p da n k bytes s) : (segWrite f o d p da n k bytes s).fixed = s.fixed := by
  simp [segWrite]

@[simp] theorem segRun_fixed (f o d x r s) : (segRun f o d x r s).fixed = s.fixed := by
  simp only [segRun]
  repeat' split
  all_goals simp

@[simp] theorem segStep_fixed (f o r s) : (segStep f o r s).fixed = s.fixed := by
  simp only [segStep]
  repeat' split
  all_goals simp

@[simp] theorem sluiceSegmentCmd_fixed (c r s) : (sluiceSegmentCmd c r s).fixed = s.fixed := by
  unfold sluiceSegmentCmd
  split <;> simp

@[simp] theorem execSluiceSegment_fixed (c r s) : KeepsFixed s (execSluiceSegment c r s) := by simp [execSluiceSegment]

/-! ### Canal links (Machine/Canals) -/

@[simp] theorem sendNext_fixed (n s) : (sendNext n s).fixed = s.fixed := by
  simp only [sendNext]
  repeat' split
  all_goals simp

@[simp] theorem pump_fixed (n s) : (pump n s).fixed = s.fixed := by simp [pump]

@[simp] theorem routeFlit_fixed (port fl s) : (routeFlit port fl s).fixed = s.fixed := by
  unfold routeFlit
  split <;> simp

@[simp] theorem sendFlit_fixed (type dst arg payload s) : (sendFlit type dst arg payload s).fixed = s.fixed := by
  simp [sendFlit]

@[simp] theorem sendAll_fixed (type ds arg payload s) : (sendAll type ds arg payload s).fixed = s.fixed := by
  simp [sendAll]

@[simp] theorem startTraining_fixed (n s) : (startTraining n s).fixed = s.fixed := by simp [startTraining]
@[simp] theorem resend_fixed (n s) : (resend n s).fixed = s.fixed := by simp [resend]
@[simp] theorem replay_fixed (n s) : (replay n s).fixed = s.fixed := by simp [replay]

@[simp] theorem acked_fixed (n a s) : (acked n a s).fixed = s.fixed := by
  simp only [acked]
  repeat' split
  all_goals simp

@[simp] theorem crcError_fixed (n s) : (crcError n s).fixed = s.fixed := by simp [crcError]
@[simp] theorem takeAck_fixed (n fl s) : (takeAck n fl s).fixed = s.fixed := by simp [takeAck]
@[simp] theorem arrive_fixed (n fl s) : (arrive n fl s).1.fixed = s.fixed := by simp [arrive]

@[simp] theorem onFlit_fixed (type n fl) {act : State → State} (hact : ∀ s, (act s).fixed = s.fixed) (s) :
    (onFlit type n fl act s).fixed = s.fixed := by
  simp only [onFlit]
  split
  · rfl
  · split <;> simp [hact]

/-! ### Collectives and gangs (Machine/Gangs) -/

@[simp] theorem putRecord_fixed (slot i es s) : (putRecord slot i es s).1.fixed = s.fixed := by simp [putRecord]
@[simp] theorem modColl_fixed (op g s) : (modColl op g s).fixed = s.fixed := by simp [modColl]
@[simp] theorem dropCollFlits_fixed (s) : (dropCollFlits s).fixed = s.fixed := by simp [dropCollFlits]
@[simp] theorem abortColl_fixed (c reason s) : (abortColl c reason s).fixed = s.fixed := by simp [abortColl]
@[simp] theorem dropRemotes_fixed (s) : (dropRemotes s).fixed = s.fixed := by simp [dropRemotes]
@[simp] theorem forgetRemotes_fixed (gone s) : (forgetRemotes gone s).fixed = s.fixed := by simp [forgetRemotes]
@[simp] theorem abortAll_fixed (s) : (abortAll s).fixed = s.fixed := by simp [abortAll]
@[simp] theorem loseMembers_fixed (ms s) : (loseMembers ms s).fixed = s.fixed := by simp [loseMembers]
@[simp] theorem checkLoss_fixed (s) : (checkLoss s).fixed = s.fixed := by simp [checkLoss]
@[simp] theorem portDown_fixed (n s) : (portDown n s).fixed = s.fixed := by simp [portDown]
@[simp] theorem portLost_fixed (n s) : (portLost n s).fixed = s.fixed := by simp [portLost]
@[simp] theorem entryFlits_fixed (type ds i es s) : (entryFlits type ds i es s).fixed = s.fixed := by simp [entryFlits]
@[simp] theorem enterPhaseC_fixed (c sat s) : (enterPhaseC c sat s).fixed = s.fixed := by simp [enterPhaseC]
@[simp] theorem stopColl_fixed (c s) : (stopColl c s).fixed = s.fixed := by simp [stopColl]

@[simp] theorem storeRuns_fixed (slot xs s) : (storeRuns slot xs s).1.fixed = s.fixed := by
  induction xs generalizing s with
  | nil => rfl
  | cons x xs ih => simp [storeRuns, ih]

@[simp] theorem useParts_fixed (is s) : (useParts is s).fixed = s.fixed := by simp [useParts]
@[simp] theorem combineEntries_fixed (c is s) : (combineEntries c is s).fixed = s.fixed := by simp [combineEntries]

@[simp] theorem driveLead_fixed (s) : (driveLead s).fixed = s.fixed := by
  unfold driveLead
  split <;> simp

@[simp] theorem drive_fixed (s) : (drive s).fixed = s.fixed := by simp [drive]

@[simp] theorem noteData_fixed (src i es s) : (noteData src i es s).fixed = s.fixed := by
  unfold noteData
  split <;> simp

@[simp] theorem noteBegin_fixed (src fl s) : (noteBegin src fl s).fixed = s.fixed := by simp [noteBegin]

@[simp] theorem settleColl_fixed (op s) : (settleColl op s).fixed = s.fixed := by
  simp only [settleColl]
  repeat' split
  all_goals simp

theorem execCollResult_fixed (n fl s) : KeepsFixed s (execCollResult n fl s) :=
  onFlit_fixed _ _ _ (fun s => by split <;> simp) s

theorem execCollEnd_fixed (n fl s) : KeepsFixed s (execCollEnd n fl s) :=
  onFlit_fixed _ _ _ (fun s => by split <;> simp) s

theorem execCollAbort_fixed (n fl s) : KeepsFixed s (execCollAbort n fl s) :=
  onFlit_fixed _ _ _ (fun s => by split <;> simp) s

@[simp] theorem dropPlotColls_fixed (p s) : (dropPlotColls p s).fixed = s.fixed := by simp [dropPlotColls]
@[simp] theorem partialEntry_fixed (f id d i s) : (partialEntry f id d i s).1.fixed = s.fixed := by simp [partialEntry]

@[simp] theorem phaseA_fixed (f o seq s) : (phaseA f o seq s).fixed = s.fixed := by
  unfold phaseA
  extract_lets d b x r es s1 _ s2 _ _ _ s3 s4
  have hb : b.1.fixed = s.fixed := slotBegin_fixed ..
  clear_value b
  have hr : r.1.fixed = b.1.fixed := foldl_fst_fixed (by simp) _ _
  clear_value r
  have hs2 : s2.fixed = s.fixed := (fixed_mk ..).trans (by simp [s1, hr, hb])
  clear_value s2
  simp [s4, s3, hb, hs2]

@[simp] theorem collectiveRun_fixed (f o s) : (collectiveRun f o s).fixed = s.fixed := by
  simp only [collectiveRun]
  repeat' split
  all_goals simp

@[simp] theorem countEntry_fixed (d x i s) : (countEntry d x i s).fixed = s.fixed := by simp [countEntry]
@[simp] theorem recordContent_fixed (d x m s n) : (recordContent d x m s n).1.fixed = s.fixed := by simp [recordContent]
@[simp] theorem phaseCRun_fixed (c o s) : (phaseCRun c o s).fixed = s.fixed := by simp [phaseCRun]

theorem execCollectivePhaseC_fixed (f s) : KeepsFixed s (execCollectivePhaseC f s) := by
  simp only [execCollectivePhaseC, keepsFixed_next]
  split
  · rfl
  · split
    · rfl
    · split
      · split
        · next h => simp [takeTurn_fixed h]
        · rfl
      · simp

@[simp] theorem noteSkew_fixed (m off s) : (noteSkew m off s).fixed = s.fixed := by simp [noteSkew]
@[simp] theorem becomeFormed_fixed (gen s) : (becomeFormed gen s).fixed = s.fixed := by simp [becomeFormed]
@[simp] theorem measured_fixed (s) : (measured s).fixed = s.fixed := by simp [measured]
@[simp] theorem becomeAlone_fixed (mask s) : (becomeAlone mask s).fixed = s.fixed := by simp [becomeAlone]
@[simp] theorem exchangesDone_fixed (s) : (exchangesDone s).fixed = s.fixed := by simp [exchangesDone]

@[simp] theorem timeReqTo_fixed (m rest count best s) : (timeReqTo m rest count best s).fixed = s.fixed := by
  simp [timeReqTo]

@[simp] theorem startExchanges_fixed (ms s) : (startExchanges ms s).fixed = s.fixed := by
  unfold startExchanges
  split <;> simp

@[simp] theorem tryForm_fixed (s) : (tryForm s).fixed = s.fixed := by simp [tryForm]
@[simp] theorem answerForm_fixed (n fl s) : (answerForm n fl s).fixed = s.fixed := by simp [answerForm]

theorem execTimeResp_fixed (n fl s) : KeepsFixed s (execTimeResp n fl s) :=
  onFlit_fixed _ _ _ (fun s => by split <;> simp) s

@[simp] theorem portActive_fixed (n fl s) : (portActive n fl s).fixed = s.fixed := by simp [portActive]
@[simp] theorem sendLeave_fixed (s) : (sendLeave s).fixed = s.fixed := by simp [sendLeave]
@[simp] theorem clearForm_fixed (s) : (clearForm s).fixed = s.fixed := by simp [clearForm]

@[simp] theorem setForm_fixed (s) : (setForm s).fixed = s.fixed := by
  unfold setForm
  split <;> simp

@[simp] theorem writeForm_fixed (v s) : (writeForm v s).fixed = s.fixed := by simp [writeForm]
@[simp] theorem writeMeasure_fixed (s) : (writeMeasure s).fixed = s.fixed := by simp [writeMeasure]

@[simp] theorem enablePort_fixed (n s) : (enablePort n s).fixed = s.fixed := by
  simp only [enablePort]
  repeat' split
  all_goals simp

@[simp] theorem disablePort_fixed (n s) : (disablePort n s).fixed = s.fixed := by simp [disablePort]
@[simp] theorem writeEn_fixed (n v s) : (writeEn n v s).fixed = s.fixed := by simp [writeEn]
@[simp] theorem writeRetrain_fixed (n s) : (writeRetrain n s).fixed = s.fixed := by simp [writeRetrain]

/-! ### Plots and stalls (Machine/Plots) -/

@[simp] theorem postNow_fixed (p type body s) : (postNow p type body s).fixed = s.fixed := by simp [postNow]

@[simp] theorem postNotice_fixed (c p type body s) : (postNotice c p type body s).fixed = s.fixed := by
  simp [postNotice]

@[simp] theorem stopPlot_fixed (p s) : (stopPlot p s).fixed = s.fixed := by
  simp only [stopPlot]
  rw [foldl_fixed (by simp), fixed_mk, fixed_eta, foldl_fixed (by simp), foldl_fixed, dropPlotColls_fixed, fixed_mk,
    fixed_eta]
  intro t d
  split <;> simp

@[simp] theorem zeroRecord_fixed (n s) : (zeroRecord n s).fixed = s.fixed := by simp [zeroRecord]
@[simp] theorem resetSlots_fixed (p s) : (resetSlots p s).fixed = s.fixed := by simp [resetSlots]
@[simp] theorem modPlotFurs_fixed (p g s) : (modPlotFurs p g s).fixed = s.fixed := by simp [modPlotFurs]
@[simp] theorem clearEvents_fixed (p e s) : (clearEvents p e s).fixed = s.fixed := by simp [clearEvents]
@[simp] theorem clearServices_fixed (p s) : (clearServices p s).fixed = s.fixed := by simp [clearServices]
@[simp] theorem clearPlot_fixed (p s) : (clearPlot p s).fixed = s.fixed := by simp [clearPlot]
@[simp] theorem releaseFlr_fixed (p s) : (releaseFlr p s).fixed = s.fixed := by simp [releaseFlr]
@[simp] theorem resetPlot_fixed (p s) : (resetPlot p s).fixed = s.fixed := by simp [resetPlot]
@[simp] theorem quarantine_fixed (p hw s) : (quarantine p hw s).fixed = s.fixed := by simp [quarantine]

@[simp] theorem endLeases_fixed (lo hi s) : (endLeases lo hi s).fixed = s.fixed :=
  foldl_fixed (fun t n => by split <;> simp) _ s

@[simp] theorem leaveRange_fixed (p lo hi s) : (leaveRange p lo hi s).fixed = s.fixed := by simp [leaveRange]
@[simp] theorem joinRange_fixed (p lo hi s) : (joinRange p lo hi s).fixed = s.fixed := by simp [joinRange]
@[simp] theorem teardown_fixed (p s) : (teardown p s).fixed = s.fixed := by simp [teardown]

@[simp] theorem plotCommand_fixed (f op check) {act : PlotCtl → State → State}
    (hact : ∀ c s, (act c s).fixed = s.fixed) (s) :
    (plotCommand f op check act s).fixed = s.fixed := by
  simp only [plotCommand]
  split
  · next h => exact beginDispatch_error_fixed h
  · next h => simp [hact, beginDispatch_ok_fixed h]

@[simp] theorem freshSlots_fixed (mask s) : (freshSlots mask s).fixed = s.fixed := by simp [freshSlots]
@[simp] theorem createAct_fixed (c s) : (createAct c s).fixed = s.fixed := by simp [createAct]
@[simp] theorem assignAct_fixed (c s) : (assignAct c s).fixed = s.fixed := by simp [assignAct]

@[simp] theorem zeroEntered_fixed (hbm unit ob os nb ns s) : (zeroEntered hbm unit ob os nb ns s).fixed = s.fixed := by
  simp [zeroEntered]

@[simp] theorem windowAct_fixed (w s) : (windowAct w s).fixed = s.fixed := by simp [windowAct]

theorem execWindowMap_fixed (f s) : KeepsFixed s (execWindowMap f s) := by
  simp only [execWindowMap, keepsFixed_next]
  split
  · next h => exact beginDispatch_error_fixed h
  · next h => simp [beginDispatch_ok_fixed h]

@[simp] theorem scanFurrow_fixed (n s f) : (scanFurrow n s f).fixed = s.fixed := by simp [scanFurrow]
@[simp] theorem stallNotices_fixed (s) : (stallNotices s).fixed = s.fixed := by simp [stallNotices]

/-! ### Slices and resumption (Machine/Slices) -/

@[simp] theorem saveForPreempt_fixed (f o n s) : (saveForPreempt f o n s).fixed = s.fixed := by simp [saveForPreempt]
@[simp] theorem preempt_fixed (f o s) : (preempt f o s).fixed = s.fixed := by simp [preempt]
@[simp] theorem passOn_fixed (d g s) : (passOn d g s).fixed = s.fixed := by simp [passOn]

theorem execSliceExpire_fixed (d s) : KeepsFixed s (execSliceExpire d s) := by
  simp only [execSliceExpire]
  repeat' split
  all_goals simp

@[simp] theorem showResume_fixed (s0 f n o s) : (showResume s0 f n o s).fixed = s.fixed := by simp [showResume]
@[simp] theorem resumeOp_fixed (d f o s) : (resumeOp d f o s).fixed = s.fixed := by simp [resumeOp]

theorem execResume_fixed (d s) : KeepsFixed s (execResume d s) := by
  simp only [execResume, keepsFixed_next]
  split
  · rfl
  · split
    · rfl
    · split
      · rfl
      · generalize (if d = 5 then _ else _) = needs
        split
        · rfl
        · split
          · simp
          · split
            · rfl
            · next h => simp [takeTurn_fixed h]

/-! ### Episodes and their actions (Machine/Smokebox) -/

@[simp] theorem writeSnapshot_fixed (actions closedBy s) : (writeSnapshot actions closedBy s).fixed = s.fixed := by
  simp [writeSnapshot]

@[simp] theorem faultNotices_fixed (s) : (faultNotices s).fixed = s.fixed := by simp [faultNotices]

@[simp] theorem closeEpisode_fixed (actions closedBy s) : (closeEpisode actions closedBy s).fixed = s.fixed := by
  simp [closeEpisode]

@[simp] theorem actQuar_fixed (s) : (actQuar s).fixed = s.fixed := by simp [actQuar]
@[simp] theorem actSmoke_fixed (s) : (actSmoke s).fixed = s.fixed := by simp [actSmoke]
@[simp] theorem takeActions_fixed (a s) : (takeActions a s).fixed = s.fixed := by simp [takeActions]
@[simp] theorem ackEpisode_fixed (a id merges s) : (ackEpisode a id merges s).fixed = s.fixed := by simp [ackEpisode]
@[simp] theorem forceSmoke_fixed (s) : (forceSmoke s).fixed = s.fixed := by simp [forceSmoke]
@[simp] theorem forceHgStop_fixed (s) : (forceHgStop s).fixed = s.fixed := by simp [forceHgStop]
@[simp] theorem clearStatus_fixed (bits s) : (clearStatus bits s).fixed = s.fixed := by simp [clearStatus]
@[simp] theorem stopOn_fixed (q s) : (stopOn q s).fixed = s.fixed := by simp [stopOn]

@[simp] theorem blockEffect_fixed (n unit s) : (blockEffect n unit s).fixed = s.fixed := by
  cases h : channelOp s (unit % 32) <;> simp [blockEffect, h]

theorem execUnitFailsInService_fixed (u s) : KeepsFixed s (execUnitFailsInService u s) := by
  simp only [execUnitFailsInService]
  repeat' split
  all_goals simp

/-! ### Firmware images (Machine/Image) -/

@[simp] theorem updateAct_fixed (comp image s) : (updateAct comp image s).fixed = s.fixed := by simp [updateAct]

@[simp] theorem activateAct_fixed (s) : (activateAct s).fixed = s.fixed := by
  unfold activateAct
  split <;> simp

/-! ### Management messages (Machine/Mgmt) -/

@[simp] theorem spdmReply_fixed (doe bytes s) : (spdmReply doe bytes s).fixed = s.fixed := by simp [spdmReply]

@[simp] theorem signedReply_fixed (doe data nonce s) : (signedReply doe data nonce s).fixed = s.fixed := by
  simp [signedReply]

@[simp] theorem answer_fixed (m s) : (answer m s).fixed = s.fixed := by
  simp only [answer]
  repeat' split
  all_goals simp

@[simp] theorem answerHeld_fixed (s) : (answerHeld s).fixed = s.fixed := by simp [answerHeld]
@[simp] theorem receive_fixed (m s) : (receive m s).fixed = s.fixed := by simp [receive]
@[simp] theorem giveAddress_fixed (addr s) : (giveAddress addr s).fixed = s.fixed := by simp [giveAddress]

/-! ### Requests, core restarts, the persistent record (Machine/Mailbox) -/

@[simp] theorem takeRequest_fixed (p seq s) : (takeRequest p seq s).fixed = s.fixed := by simp [takeRequest]

@[simp] theorem undefinedRequest_fixed (p) {act : State → State} (hact : ∀ s, (act s).fixed = s.fixed) (s) :
    (undefinedRequest p act s).fixed = s.fixed := by
  simp [undefinedRequest, hact]

@[simp] theorem serve_fixed (p sel plot0 len comps needs) {act : List Byte → State → State}
    (hact : ∀ b s, (act b s).fixed = s.fixed) (s) : KeepsFixed s (serve p sel plot0 len comps needs act s) := by
  simp [serve, hact]

@[simp] theorem armRequest_fixed (p b s) : (armRequest p b s).fixed = s.fixed := by
  simp only [armRequest]
  repeat' split
  all_goals simp

theorem execDisarmFurrow_fixed (p s) : KeepsFixed s (execDisarmFurrow p s) :=
  serve_fixed _ _ _ _ _ _ (fun b s => by split <;> simp) s

@[simp] theorem schedSetAct_fixed (b s) : (schedSetAct b s).fixed = s.fixed := by simp [schedSetAct]
@[simp] theorem startRestart_fixed (c cause s) : (startRestart c cause s).fixed = s.fixed := by simp [startRestart]
@[simp] theorem faultRestart_fixed (c cause s) : (faultRestart c cause s).fixed = s.fixed := by simp [faultRestart]
@[simp] theorem zeroScratch_fixed (k s) : (zeroScratch k s).fixed = s.fixed := by simp [zeroScratch]
@[simp] theorem flushDue_fixed (s) : (flushDue s).fixed = s.fixed := by simp [flushDue]
@[simp] theorem restartNotices_fixed (c s) : (restartNotices c s).fixed = s.fixed := by simp [restartNotices]

@[simp] theorem eraseBank_fixed (b s) : (eraseBank b s).fixed = s.fixed := by
  unfold eraseBank
  split <;> simp

@[simp] theorem storeRecord_fixed (s) : (storeRecord s).fixed = s.fixed := by simp [storeRecord]

@[simp] theorem readRecordMem_fixed (found s) : (readRecordMem found s).fixed = s.fixed := by
  simp only [readRecordMem]
  repeat' split
  all_goals simp

@[simp] theorem takeCalibration_fixed (cal s) : (takeCalibration cal s).fixed = s.fixed := by
  unfold takeCalibration
  split <;> simp

/-! ### Firing lists and invocations (Machine/Invoke) -/

@[simp] theorem setList_fixed (s id x) : (setList s id x).fixed = s.fixed := by simp [setList]
@[simp] theorem modList_fixed (id g s) : (modList id g s).fixed = s.fixed := by simp [modList]
@[simp] theorem setPage_fixed (s id x) : (setPage s id x).fixed = s.fixed := by simp [setPage]
@[simp] theorem changeLevel_fixed (p up n s) : (changeLevel p up n s).fixed = s.fixed := by simp [changeLevel]

@[simp] theorem makeResident_fixed (id l s) : (makeResident id l s).1.fixed = s.fixed := by
  simp only [makeResident]
  repeat' split
  all_goals simp

@[simp] theorem dropResident_fixed (id l s) : (dropResident id l s).fixed = s.fixed := by simp [dropResident]

@[simp] theorem makeRoom_fixed (id l n s) : (makeRoom id l n s).fixed = s.fixed := by
  induction n generalizing s with
  | zero => rfl
  | succ n ih =>
    unfold makeRoom
    split
    · rfl
    · split <;> simp [ih]

theorem execResidencyCopy_fixed (p l s) : KeepsFixed s (execResidencyCopy p l s) := by
  unfold execResidencyCopy
  split <;> simp

theorem execResidencyRelease_fixed (p l s) : KeepsFixed s (execResidencyRelease p l s) := by
  unfold execResidencyRelease
  split <;> simp

@[simp] theorem registerList_fixed (p l s) : (registerList p l s).fixed = s.fixed := by simp [registerList]
@[simp] theorem registerAct_fixed (p b s) : (registerAct p b s).fixed = s.fixed := by simp [registerAct]

@[simp] theorem resideAct_fixed (p b s) : (resideAct p b s).fixed = s.fixed := by
  simp only [resideAct]
  repeat' split
  all_goals simp

@[simp] theorem pageCreateAct_fixed (p b s) : (pageCreateAct p b s).fixed = s.fixed := by
  unfold pageCreateAct
  split <;> simp

@[simp] theorem pageDestroyAct_fixed (p b s) : (pageDestroyAct p b s).fixed = s.fixed := by
  simp only [pageDestroyAct]
  repeat' split
  all_goals simp

@[simp] theorem removeList_fixed (id s) : (removeList id s).fixed = s.fixed := by
  unfold removeList
  split <;> simp

@[simp] theorem settleList_fixed (id s) : (settleList id s).fixed = s.fixed := by
  unfold settleList
  split <;> simp

@[simp] theorem rejectBatches_fixed (bs s) : (rejectBatches bs s).fixed = s.fixed := by simp [rejectBatches]

@[simp] theorem unregisterAct_fixed (p b s) : (unregisterAct p b s).fixed = s.fixed := by
  simp only [unregisterAct]
  repeat' split
  all_goals simp

@[simp] theorem admitTo_fixed (f o id l s) : (admitTo f o id l s).fixed = s.fixed := by simp [admitTo]

theorem execInvokeAdmit_fixed (f s) : KeepsFixed s (execInvokeAdmit f s) := by
  simp only [execInvokeAdmit]
  repeat' split
  all_goals simp

@[simp] theorem driveGemm_fixed (f id n s) : (driveGemm f id n s).fixed = s.fixed := by
  induction n generalizing s with
  | zero => rfl
  | succ n ih =>
    unfold driveGemm
    split
    · rfl
    · split
      · rfl
      · split <;> simp [ih]

@[simp] theorem driveMove_fixed (f id n x) : (driveMove f id n x).1.fixed = x.1.fixed := by
  induction n generalizing x with
  | zero => rfl
  | succ n ih =>
    unfold driveMove
    split
    · rfl
    · split <;> simp [ih]

@[simp] theorem runPart_fixed (f inv part s resp) : (runPart f inv part s resp).s.fixed = s.fixed := by
  simp only [runPart]
  repeat' split
  all_goals simp

@[simp] theorem runBinds_fixed (l output m s resp) : (runBinds l output m s resp).s.fixed = s.fixed := by
  unfold runBinds
  split
  · rfl
  · exact foldl_proj_fixed PartRes.s (fun r b => by dsimp only; split <;> simp) _ _

@[simp] theorem runMembers_fixed (l output ms s resp) : (runMembers l output ms s resp).1.fixed = s.fixed := by
  induction ms generalizing s resp with
  | nil => rfl
  | cons m ms ih =>
    unfold runMembers
    split <;> simp [ih]

@[simp] theorem stageSpan_fixed (l b layer s) : (stageSpan l b layer s).1.fixed = s.fixed := by simp [stageSpan]

@[simp] theorem runLayer_fixed (l b inv i s) : (runLayer l b inv i s).s.fixed = s.fixed := by
  simp only [runLayer]
  repeat' split
  all_goals simp

@[simp] theorem runLayers_fixed (l b inv s) : (runLayers l b inv s).s.fixed = s.fixed :=
  foldl_proj_fixed PartRes.s (fun r i => by dsimp only; split <;> simp) _ _

@[simp] theorem runBatch_fixed (id l b resp s) : (runBatch id l b resp s).fixed = s.fixed := by
  simp only [runBatch]
  repeat' split
  all_goals simp

@[simp] theorem tryBatch_fixed (id l resp s) : (tryBatch id l resp s).fixed = s.fixed := by
  unfold tryBatch
  split <;> simp

theorem execBatchClose_fixed (p l r s) : KeepsFixed s (execBatchClose p l r s) := by
  unfold execBatchClose
  split <;> simp

theorem execInvoke_fixed (f r s) : KeepsFixed s (execInvoke f r s) := by
  simp only [execInvoke, keepsFixed_next]
  split
  · simp
  · split
    · next h => exact beginDispatch_error_fixed h
    · next h => simp [beginDispatch_ok_fixed h]

/-! ### Fields of the register map (Machine/Cards) -/

@[simp] theorem writeGaugeEn_fixed (v s) : (writeGaugeEn v s).fixed = s.fixed := by simp [writeGaugeEn]
@[simp] theorem writeFastEn_fixed (v s) : (writeFastEn v s).fixed = s.fixed := by simp [writeFastEn]
@[simp] theorem adjustTime_fixed (n s) : (adjustTime n s).fixed = s.fixed := by simp [adjustTime]
@[simp] theorem writeArm_fixed (f v s) : (writeArm f v s).fixed = s.fixed := by simp [writeArm]
@[simp] theorem writeRestart_fixed (v s) : (writeRestart v s).fixed = s.fixed := by simp [writeRestart]
@[simp] theorem writeHealth_fixed (lo v s) : (writeHealth lo v s).fixed = s.fixed := by simp [writeHealth]

@[simp] theorem putPi_fixed (r lo v s) : (putPi r lo v s).fixed = s.fixed := by
  unfold putPi
  split <;> simp

@[simp] theorem putHg_fixed (r lo v s) : (putHg r lo v s).fixed = s.fixed := by
  unfold putHg
  split <;> simp

@[simp] theorem putMid_fixed (r lo v s) : (putMid r lo v s).fixed = s.fixed := by
  unfold putMid
  split <;> simp

@[simp] theorem putSb_fixed (a r lo v s) : (putSb a r lo v s).fixed = s.fixed := by
  unfold putSb
  split <;> simp

@[simp] theorem putLink_fixed (r lo v s) : (putLink r lo v s).fixed = s.fixed := by
  unfold putLink
  split <;> simp

@[simp] theorem putPage_fixed (r lo v s) : (putPage r lo v s).fixed = s.fixed := by
  simp only [putPage]
  repeat' split
  all_goals simp

@[simp] theorem putField_fixed (a r lo v s) : (putField a r lo v s).fixed = s.fixed := by
  unfold putField
  split <;> simp

/-! ### Register writes (Machine/Registers) -/

@[simp] theorem stepField_fixed (a x f s) : (stepField a x f s).fixed = s.fixed := by
  unfold stepField
  split <;> simp

@[simp] theorem applyPart_fixed (sel a x s) : (applyPart sel a x s).1.fixed = s.fixed := by
  refine foldl_proj_fixed Prod.fst (fun r f => ?_) _ _
  split
  · rfl
  · split <;> simp

@[simp] theorem latchPart_fixed (a x s) : (latchPart a x s).fixed = s.fixed := by
  unfold latchPart
  split <;> simp

@[simp] theorem applyParts_fixed (sel a xs r) : (applyParts sel a xs r).1.fixed = r.1.fixed :=
  foldl_proj_fixed Prod.fst (fun r x => by simp) _ _

@[simp] theorem landParts_fixed (a xs s) : (landParts a xs s).fixed = s.fixed := by simp [landParts]
@[simp] theorem breach_fixed (c s) : (breach c s).fixed = s.fixed := by simp [breach]
@[simp] theorem writeRequest_fixed (p o bytes s) : (writeRequest p o bytes s).fixed = s.fixed := by simp [writeRequest]

@[simp] theorem writeResponse_fixed (p o bytes s) : (writeResponse p o bytes s).fixed = s.fixed := by
  simp [writeResponse]

@[simp] theorem landWrite_fixed (a addr size v s) : (landWrite a addr size v s).fixed = s.fixed := by
  unfold landWrite
  split <;> simp

@[simp] theorem writeAt_fixed (a addr size v s) : (writeAt a addr size v s).fixed = s.fixed := by
  simp only [writeAt]
  repeat' split
  all_goals simp

@[simp] theorem write4_fixed (a off v s) : (write4 a off v s).fixed = s.fixed := by simp [write4]

@[simp] theorem deliverTail_fixed (h s) : (deliverTail h s).fixed = s.fixed := by
  simp only [deliverTail]
  repeat' split
  all_goals simp

@[simp] theorem deliverHeld_fixed (s) : (deliverHeld s).fixed = s.fixed := by simp [deliverHeld]
@[simp] theorem coreLoad_fixed (c a n s) : (coreLoad c a n s).fixed = s.fixed := by simp [coreLoad]

/-! ### Power states, clocks, the scrubber (Machine/Power) -/

@[simp] theorem loseSlot_fixed (q n s) : (loseSlot q n s).fixed = s.fixed := by simp [loseSlot]
@[simp] theorem loseTables_fixed (s) : (loseTables s).fixed = s.fixed := by simp [loseTables]
@[simp] theorem loseDomain_fixed (d s) : (loseDomain d s).fixed = s.fixed := by simp [loseDomain]
@[simp] theorem enterState_fixed (d x s) : (enterState d x s).fixed = s.fixed := by simp [enterState]
@[simp] theorem settleHdm_fixed (s) : (settleHdm s).fixed = s.fixed := by simp [settleHdm]
@[simp] theorem wakeDomain_fixed (d s) : (wakeDomain d s).fixed = s.fixed := by simp [wakeDomain]
@[simp] theorem govAct_fixed (f o s) : (govAct f o s).fixed = s.fixed := by simp [govAct]

theorem execGovernorTick_fixed (g s) : KeepsFixed s (execGovernorTick g s) := by
  simp only [execGovernorTick]
  repeat' split
  all_goals simp

theorem execHclkChange_fixed (s) : KeepsFixed s (execHclkChange s) := by
  unfold execHclkChange
  split <;> simp

@[simp] theorem setAlert_fixed (s) : (setAlert s).fixed = s.fixed := by simp [setAlert]

theorem execPtmDialogueDone_fixed (hostTime s) : KeepsFixed s (execPtmDialogueDone hostTime s) := by
  simp only [execPtmDialogueDone]
  repeat' split
  all_goals simp

theorem execPatrolScrub_fixed (r s) : KeepsFixed s (execPatrolScrub r s) := by
  unfold execPatrolScrub
  extract_lets w _ s1
  have hs1 : s1.fixed = s.fixed := fixed_mk ..
  clear_value s1
  cases r <;> simp [hs1]

/-! ### The end of a core restart (Machine/Restart) -/

@[simp] theorem loseList_fixed (id s) : (loseList id s).fixed = s.fixed := by
  unfold loseList
  split <;> simp

@[simp] theorem resumeComp_fixed (lost k s) : (resumeComp lost k s).fixed = s.fixed := by simp [resumeComp]

/-! ### The host link and its resets (Machine/HostPort) -/

@[simp] theorem stray_fixed (s) : (stray s).fixed = s.fixed := by simp [stray]
@[simp] theorem memReadAct_fixed (dpa s) : (memReadAct dpa s).fixed = s.fixed := by simp [memReadAct]
@[simp] theorem memWriteAct_fixed (dpa bytes s) : (memWriteAct dpa bytes s).fixed = s.fixed := by simp [memWriteAct]

@[simp] theorem commitHdm_fixed (base size ways skip lock s) :
    (commitHdm base size ways skip lock s).fixed = s.fixed := by
  simp [commitHdm]

@[simp] theorem uncommitHdm_fixed (s) : (uncommitHdm s).fixed = s.fixed := by simp [uncommitHdm]
@[simp] theorem resetFn_fixed (fn s) : (resetFn fn s).fixed = s.fixed := by simp [resetFn]

@[simp] theorem flrVf_fixed (p s) : (flrVf p s).fixed = s.fixed := by
  simp only [flrVf]
  repeat' split
  all_goals simp

@[simp] theorem setVfs_fixed (n s) : (setVfs n s).fixed = s.fixed := by simp [setVfs]
@[simp] theorem resetConfig_fixed (decoder s) : (resetConfig decoder s).fixed = s.fixed := by simp [resetConfig]
@[simp] theorem leaveAll_fixed (s) : (leaveAll s).fixed = s.fixed := by simp [leaveAll]
@[simp] theorem startWarm_fixed (cause s) : (startWarm cause s).fixed = s.fixed := by simp [startWarm]
@[simp] theorem linkDown_fixed (s) : (linkDown s).fixed = s.fixed := by simp [linkDown]
@[simp] theorem dlDownAct_fixed (s) : (dlDownAct s).fixed = s.fixed := by simp [dlDownAct]

theorem execCompletionTimeout_fixed (t s) : KeepsFixed s (execCompletionTimeout t s) := by
  unfold execCompletionTimeout
  split <;> simp

@[simp] theorem sendCdat_fixed (s) : (sendCdat s).fixed = s.fixed := by simp [sendCdat]

/-! ### Configuration space (Machine/CfgSpace) -/

@[simp] theorem cfgSet_fixed (fn pos v s) : (cfgSet fn pos v s).fixed = s.fixed := by simp [cfgSet]
@[simp] theorem flushVectors_fixed (fn s) : (flushVectors fn s).fixed = s.fixed := by simp [flushVectors]
@[simp] theorem settleVfs_fixed (s) : (settleVfs s).fixed = s.fixed := by simp [settleVfs]
@[simp] theorem startFlr_fixed (fn s) : (startFlr fn s).fixed = s.fixed := by simp [startFlr]
@[simp] theorem takeObject_fixed (o s) : (takeObject o s).fixed = s.fixed := by simp [takeObject]
@[simp] theorem putDoe_fixed (o s) : (putDoe o s).fixed = s.fixed := by simp [putDoe]
@[simp] theorem putCfg_fixed (fn pos v s) : (putCfg fn pos v s).fixed = s.fixed := by simp [putCfg]
@[simp] theorem writeCommit_fixed (v s) : (writeCommit v s).fixed = s.fixed := by simp [writeCommit]
@[simp] theorem putComponent_fixed (pos v s) : (putComponent pos v s).fixed = s.fixed := by simp [putComponent]
@[simp] theorem putVector_fixed (fn pos v s) : (putVector fn pos v s).fixed = s.fixed := by simp [putVector]

@[simp] theorem spaceWrite_fixed (fs) {put : Nat → Nat → State → State}
    (hput : ∀ lo x s, (put lo x s).fixed = s.fixed) (o size v s) :
    (spaceWrite fs put o size v s).fixed = s.fixed :=
  foldl_fixed (fun t f => by dsimp only; split <;> simp [hput]) _ s

theorem execRegisterWrite_fixed (a addr size v s) : KeepsFixed s (execRegisterWrite a addr size v s) := by
  unfold execRegisterWrite
  split <;> simp

/-! ### Resets, boot, bring-up (Machine/Reset) -/

@[simp] theorem freshState_fixed (s) : (freshState s).fixed = s.fixed := by simp [freshState]
@[simp] theorem sampleStraps_fixed (st s) : (sampleStraps st s).fixed = { s.fixed with straps := st } := rfl
@[simp] theorem startPhase_fixed (s) : (startPhase s).fixed = s.fixed := by simp [startPhase]
@[simp] theorem powerOff_fixed (s) : (powerOff s).fixed = s.fixed := by simp [powerOff]
@[simp] theorem holdCores_fixed (s) : (holdCores s).fixed = s.fixed := by simp [holdCores]
@[simp] theorem vauxGone_fixed (s) : (vauxGone s).fixed = s.fixed := by simp [vauxGone]
@[simp] theorem clearEscalation_fixed (s) : (clearEscalation s).fixed = s.fixed := by simp [clearEscalation]
@[simp] theorem hrstState_fixed (s) : (hrstState s).fixed = s.fixed := by simp [hrstState]
@[simp] theorem startImage_fixed (h body s) : (startImage h body s).fixed = s.fixed := by simp [startImage]

@[simp] theorem noteFail_fixed (b code s) : (noteFail b code s).fixed = s.fixed := by
  unfold noteFail
  split <;> simp

@[simp] theorem bootFlash_fixed (s) : (bootFlash s).fixed = s.fixed := by simp [bootFlash]
@[simp] theorem buildInterleaves_fixed (s) : (buildInterleaves s).fixed = s.fixed := by simp [buildInterleaves]
@[simp] theorem setEngineMode_fixed (s) : (setEngineMode s).fixed = s.fixed := by simp [setEngineMode]
@[simp] theorem createPlot0_fixed (s) : (createPlot0 s).fixed = s.fixed := by simp [createPlot0]
@[simp] theorem offerService_fixed (s) : (offerService s).fixed = s.fixed := by simp [offerService]
@[simp] theorem selfTest_fixed (failed s) : (selfTest failed s).fixed = s.fixed := by simp [selfTest]
@[simp] theorem warmLimits_fixed (s) : (warmLimits s).fixed = s.fixed := by simp [warmLimits]
@[simp] theorem warmGang_fixed (s) : (warmGang s).fixed = s.fixed := by simp [warmGang]
@[simp] theorem warmPlots_fixed (s) : (warmPlots s).fixed = s.fixed := by simp [warmPlots]
@[simp] theorem warmCore_fixed (c s) : (warmCore c s).fixed = s.fixed := by simp [warmCore]
@[simp] theorem warmChimney_fixed (s) : (warmChimney s).fixed = s.fixed := by simp [warmChimney]
@[simp] theorem warmAct_fixed (s) : (warmAct s).fixed = s.fixed := by simp [warmAct]

/-! ### What a step can do to the fixed part -/

/-- A command that plot 0 alone may send acts, if it does, for plot 0 (R250). -/
theorem serve_plot0_cases {p sel len comps needs} {act : List Byte → State → State} {s t : State}
    (h : serve p sel true len comps needs act s = .next t) :
    t.fixed = s.fixed ∨ (p = 0 ∧ t = act ((getPlot s p).mail.held.drop 16) s) := by
  unfold serve at h
  simp only at h
  split at h
  · cases h
    exact .inl rfl
  · split at h
    · cases h
      exact .inl (respond_fixed ..)
    · split at h
      · cases h
        exact .inl (by simp)
      · split at h
        · cases h
          exact .inl (respond_fixed ..)
        · next hp =>
          split at h
          · cases h
            exact .inl (respond_fixed ..)
          · split at h
            · cases h
              exact .inl rfl
            · split at h
              · cases h
                exact .inl (ignite_fixed ..)
              · cases h
                exact .inr ⟨by simpa using hp, rfl⟩

/-- The commands that can change the fixed part. -/
def altersFixed : Instr → Bool
  | .powerUp _ | .hrstLRelease _ | .bootVerify | .svnCommit _ => true
  | _ => false

theorem exec_fixed {c : Instr} (hc : altersFixed c = false) (s) : KeepsFixed s (exec c s) := by
  cases c with
  | doorbell p loc tail => simp [exec, execDoorbell]
  | furrowArm a f v => simp [exec, execFurrowArm]
  | furrowDisarm a f v => simp [exec, execFurrowDisarm]
  | descriptorFetch f r => exact execDescriptorFetch_fixed ..
  | nop f => simp [exec, execNop]
  | fence f => simp [exec, execFence]
  | record f => simp [exec, execRecord]
  | wait f => simp [exec, execWait]
  | lease f => simp [exec, execLease]
  | release f => simp [exec, execRelease]
  | gemm f => exact execGemm_fixed ..
  | passStart d rows flt => exact execPassStart_fixed ..
  | slotRowReadout d => exact execSlotRowReadout_fixed ..
  | flueElementwise f rows => simp [exec, execFlueElementwise]
  | flueTableFunction f rows => simp [exec, execFlueTableFunction]
  | flueGated f rows => simp [exec, execFlueGated]
  | flueNorm f rows => simp [exec, execFlueNorm]
  | flueSoftmax3 f rows => simp [exec, execFlueSoftmax3]
  | flueSoftmax2 f rows => simp [exec, execFlueSoftmax2]
  | sluiceMove f => simp [exec, execSluiceMove]
  | sluiceSegment c r => exact execSluiceSegment_fixed ..
  | slotRead f => simp [exec, execSlotRead]
  | slotWrite f => simp [exec, execSlotWrite]
  | slotSave f => simp [exec, execSlotSave]
  | slotRestore f => simp [exec, execSlotRestore]
  | invoke f r => exact execInvoke_fixed ..
  | spawn f => simp [exec, execSpawn]
  | park f => simp [exec, execPark]
  | tableLoad f => exact execTableLoad_fixed ..
  | tableLoadSwap n => exact execTableLoadSwap_fixed ..
  | plotCreate f => simp [exec, execPlotCreate]
  | plotAssign f => simp [exec, execPlotAssign]
  | plotReset f => simp [exec, execPlotReset]
  | plotQuarantine f => simp [exec, execPlotQuarantine]
  | plotTeardown f => simp [exec, execPlotTeardown]
  | windowMap f => exact execWindowMap_fixed ..
  | governorSet f => simp [exec, execGovernorSet]
  | operationComplete f ticket => exact execOperationComplete_fixed ..
  | failClear p loc => simp [exec, execFailClear]
  | schedCommit a v => simp [exec, execSchedCommit]
  | roundBoundary d => simp [exec, execRoundBoundary]
  | sliceExpire d => exact execSliceExpire_fixed ..
  | resume d => exact execResume_fixed ..
  | hearthHold a v => simp [exec, execHearthHold]
  | ctxSave a n => simp [exec, execCtxSave]
  | ctxRestore a n => simp [exec, execCtxRestore]
  | ctxDiscard a n => simp [exec, execCtxDiscard]
  | modeCtlWrite a v => simp [exec, execModeCtlWrite]
  | modeChange => simp [exec, execModeChange]
  | gaugeSpan f => simp [exec, execGaugeSpan]
  | stallScan => simp [exec, execStallScan]
  | gaugeEnWrite a v => simp [exec, execGaugeEnWrite]
  | fastEnWrite a v => simp [exec, execFastEnWrite]
  | mbReqDb p seq => simp [exec, execMbReqDb]
  | hello p => simp [exec, execHello]
  | queryCaps p => simp [exec, execQueryCaps]
  | armFurrow p => simp [exec, execArmFurrow]
  | disarmFurrow p => exact execDisarmFurrow_fixed ..
  | listRegister p => simp [exec, execListRegister]
  | listUnregister p => simp [exec, execListUnregister]
  | listReside p => simp [exec, execListReside]
  | stateCreate p => simp [exec, execStateCreate]
  | stateDestroy p => simp [exec, execStateDestroy]
  | coreRestart p => simp [exec, execCoreRestart]
  | svnCommit p => cases hc
  | schedSet p => simp [exec, execSchedSet]
  | invokeAdmit f => exact execInvokeAdmit_fixed ..
  | batchClose p l r => exact execBatchClose_fixed ..
  | residencyCopy p l => exact execResidencyCopy_fixed ..
  | residencyRelease p l => exact execResidencyRelease_fixed ..
  | coreRestartCmd a v => simp [exec, execCoreRestartCmd]
  | wdogPet a c => simp [exec, execWdogPet]
  | wdogExpiry c => simp [exec, execWdogExpiry]
  | unhandledTrap c => simp [exec, execUnhandledTrap]
  | coreRestartDone e => simp [exec, execCoreRestartDone]
  | persistentRecordWrite x ok1 ok2 => simp [exec, execPersistentRecordWrite]
  | smokeboxEvent n plot unit => simp [exec, execSmokeboxEvent]
  | unitFailsInService u => exact execUnitFailsInService_fixed ..
  | countWindowClose n => simp [exec, execCountWindowClose]
  | graceExpiry => simp [exec, execGraceExpiry]
  | sbAck a v => simp [exec, execSbAck]
  | sbForceSmoke a => simp [exec, execSbForceSmoke]
  | sbForceHgStop a => simp [exec, execSbForceHgStop]
  | sbStatusClear a bits => simp [exec, execSbStatusClear]
  | smokeToggle => simp [exec, execSmokeToggle]
  | registerWrite a addr size v => exact execRegisterWrite_fixed ..
  | domainWakeComplete d => simp [exec, execDomainWakeComplete]
  | domainStepDown d => simp [exec, execDomainStepDown]
  | scuttleFlush => simp [exec, execScuttleFlush]
  | governorTick g => exact execGovernorTick_fixed ..
  | hclkChange => exact execHclkChange_fixed ..
  | thermalSample t => simp [exec, execThermalSample]
  | thermalTrip t => simp [exec, execThermalTrip]
  | refLoss => simp [exec, execRefLoss]
  | refLock => simp [exec, execRefLock]
  | timeAdj a n => simp [exec, execTimeAdj]
  | ptmTrigger a => simp [exec, execPtmTrigger]
  | ptmPeriod => simp [exec, execPtmPeriod]
  | ptmDialogueDone hostTime => exact execPtmDialogueDone_fixed ..
  | patrolScrub r => exact execPatrolScrub_fixed ..
  | powerUp st => cases hc
  | hrstL => simp [exec, execHrstL]
  | powerDown => simp [exec, execPowerDown]
  | ioRailLoss => simp [exec, execIoRailLoss]
  | vaux12Loss => simp [exec, execVaux12Loss]
  | bootVerify => cases hc
  | bringUp failed => simp [exec, execBringUp]
  | warmReset => simp [exec, execWarmReset]
  | recoveryImage pkg => simp [exec, execRecoveryImage]
  | pldmFirmwareUpdate pkg => simp [exec, execPldmFirmwareUpdate]
  | firmwareActivate => simp [exec, execFirmwareActivate]
  | mctpControl cmd mtype => simp [exec, execMctpControl]
  | setEndpointId eid => simp [exec, execSetEndpointId]
  | pldmMonitoring sensor => simp [exec, execPldmMonitoring]
  | spdmGetCertificate slot off len => simp [exec, execSpdmGetCertificate]
  | spdmChallenge nonce => simp [exec, execSpdmChallenge]
  | spdmGetMeasurements index nonce => simp [exec, execSpdmGetMeasurements]
  | entdaa addr => simp [exec, execEntdaa]
  | setdasa addr => simp [exec, execSetdasa]
  | rstdaa => simp [exec, execRstdaa]
  | cxlMemRead hpa => simp [exec, execCxlMemRead]
  | cxlMemWrite hpa bytes => simp [exec, execCxlMemWrite]
  | cxlCacheSnoop addr => simp [exec, execCxlCacheSnoop]
  | atsInvalidation p addr size => simp [exec, execAtsInvalidation]
  | hdmCommit base size ways skip lock => simp [exec, execHdmCommit]
  | vfFlr p => simp [exec, execVfFlr]
  | pfFlr => simp [exec, execPfFlr]
  | hotReset => simp [exec, execHotReset]
  | linkDisable => simp [exec, execLinkDisable]
  | dlDown => simp [exec, execDlDown]
  | busMasterDisable fn => simp [exec, execBusMasterDisable]
  | vfRemove numVfs => simp [exec, execVfRemove]
  | ucieModuleFail m => simp [exec, execUcieModuleFail]
  | linkUp lanes rate cxl modules => simp [exec, execLinkUp]
  | completionTimeout t => exact execCompletionTimeout_fixed ..
  | cnPortEnable a n v => simp [exec, execCnPortEnable]
  | cnPortRetrain a n => simp [exec, execCnPortRetrain]
  | train n fl => simp [exec, execTrain]
  | idle n fl => simp [exec, execIdle]
  | nak n fl => simp [exec, execNak]
  | replayTimeout n => simp [exec, execReplayTimeout]
  | retrainTimeout n => simp [exec, execRetrainTimeout]
  | gangForm a => simp [exec, execGangForm]
  | gangLeave a => simp [exec, execGangLeave]
  | gangMeasure a => simp [exec, execGangMeasure]
  | form n fl => simp [exec, execForm]
  | formReply n fl => simp [exec, execFormReply]
  | formDone n fl => simp [exec, execFormDone]
  | formRefuse n fl => simp [exec, execFormRefuse]
  | timeReq n fl => simp [exec, execTimeReq]
  | timeResp n fl => exact execTimeResp_fixed ..
  | collBegin n fl => simp [exec, execCollBegin]
  | collData n fl => simp [exec, execCollData]
  | collResult n fl => exact execCollResult_fixed ..
  | collEnd n fl => exact execCollEnd_fixed ..
  | collAbort n fl => exact execCollAbort_fixed ..
  | leave n fl => simp [exec, execLeave]
  | collectivePhaseC f => exact execCollectivePhaseC_fixed ..
  | hrstLRelease st => cases hc
  | vaux12InRange => simp [exec, execVaux12InRange]
  | vflashLoss => simp [exec, execVflashLoss]
  | vflashReturn => simp [exec, execVflashReturn]
  | tracePortEnable v => simp [exec, execTracePortEnable]
  | flitCrcError n => simp [exec, execFlitCrcError]
  | reservedFlitType n fl => simp [exec, execReservedFlitType]
  | flitForward n fl => simp [exec, execFlitForward]
  | canalPhyTrainingEnd n width8 => simp [exec, execCanalPhyTrainingEnd]
  | hdmDecoderUncommit => simp [exec, execHdmDecoderUncommit]
  | vfEnable numVfs => simp [exec, execVfEnable]
  | doeCdatRead => simp [exec, execDoeCdatRead]
  | pldmBaseDiscovery => simp [exec, execPldmBaseDiscovery]
  | spdmNegotiation => simp [exec, execSpdmNegotiation]
  | badTypeRequest p => simp [exec, execBadTypeRequest]
  | snapshotTaken f r => exact execSnapshotTaken_fixed ..

theorem KeepsFixed.of_next {s t : State} {r : Res} (h : KeepsFixed s r) (hr : r = .next t) : t.fixed = s.fixed := by
  subst hr
  exact h

theorem execPowerUp_fixed (st s) : ∃ t, execPowerUp st s = .next t
    ∧ (t.fixed = s.fixed ∨ t.fixed = { s.fixed with straps := st }) := by
  refine ⟨_, rfl, ?_⟩
  split <;> simp

theorem execHrstLRelease_fixed (st s) : ∃ t, execHrstLRelease st s = .next t
    ∧ (t.fixed = s.fixed ∨ t.fixed = { s.fixed with straps := st }) := by
  refine ⟨_, rfl, ?_⟩
  split <;> simp

theorem execBootVerify_fixed (s) : ∃ t, execBootVerify s = .next t ∧ t.fixed =
    if s.pi.phase ≠ .boot ∨ s.pi.pwrok = false ∨ s.pi.trip ∨ s.pins.vaux12Lost ∨ s.pins.vaux12 = false then s.fixed
    else (readRecord s).fixed := by
  refine ⟨_, rfl, ?_⟩
  simp

theorem execSvnCommit_cases {p} {s t : State} (h : execSvnCommit p s = .next t) :
    t.fixed = s.fixed ∨ (p = 0 ∧ s.ch.minSvn < s.ch.svn ∧ t.fixed = { s.fixed with minSvn := s.ch.svn }) := by
  rcases serve_plot0_cases h with hkeep | ⟨hp, rfl⟩
  · exact .inl hkeep
  · by_cases hlt : s.ch.minSvn < s.ch.svn
    · exact .inr ⟨hp, hlt, (respond_fixed ..).trans (congrArg (Fixed.mk · s.fixed.straps) (if_pos hlt))⟩
    · exact .inl (by simp [hlt])

/-- A command leaves MIN_SVN and the straps as they were, samples the straps, has the ROM read the fuses, or commits the
running image's SVN for plot 0. -/
theorem exec_fixed_cases {c : Instr} {s t : State} (h : exec c s = .next t) :
    t.fixed = s.fixed
    ∨ (∃ st, (c = .powerUp st ∨ c = .hrstLRelease st) ∧ t.fixed = { s.fixed with straps := st })
    ∨ (c = .bootVerify ∧ t.fixed = (readRecord s).fixed)
    ∨ (c = .svnCommit 0 ∧ s.ch.minSvn < s.ch.svn ∧ t.fixed = { s.fixed with minSvn := s.ch.svn }) := by
  cases hc : altersFixed c with
  | false => exact .inl ((exec_fixed hc s).of_next h)
  | true =>
    cases c with
    | powerUp st =>
      obtain ⟨u, hu, hfix⟩ := execPowerUp_fixed st s
      cases hu.symm.trans h
      exact hfix.imp_right fun hst => .inl ⟨st, .inl rfl, hst⟩
    | hrstLRelease st =>
      obtain ⟨u, hu, hfix⟩ := execHrstLRelease_fixed st s
      cases hu.symm.trans h
      exact hfix.imp_right fun hst => .inl ⟨st, .inr rfl, hst⟩
    | bootVerify =>
      obtain ⟨u, hu, hfix⟩ := execBootVerify_fixed s
      cases hu.symm.trans h
      split at hfix
      · exact .inl hfix
      · exact .inr (.inr (.inl ⟨rfl, hfix⟩))
    | svnCommit p =>
      exact (execSvnCommit_cases h).imp_right fun ⟨hp, hlt, hfix⟩ => .inr (.inr ⟨hp ▸ rfl, hlt, hfix⟩)
    | _ => cases hc

/-! ### MIN_SVN -/

theorem readRecord_minSvn (s) : (readRecord s).ch.minSvn
    = if s.ch.minSvn < Config.minSvnFuse then Config.minSvnFuse else s.ch.minSvn := rfl

theorem minSvn_le_readRecord (s) : s.ch.minSvn ≤ (readRecord s).ch.minSvn := by
  rw [readRecord_minSvn]
  split
  · next hlt => exact BitVec.le_of_lt hlt
  · exact BitVec.le_refl _

theorem minSvnFuse_le_readRecord (s) : Config.minSvnFuse ≤ (readRecord s).ch.minSvn := by
  rw [readRecord_minSvn]
  split
  · exact BitVec.le_refl _
  · next hge => exact BitVec.not_lt.1 hge

theorem readRecord_minSvn_of_le {s} (h : Config.minSvnFuse ≤ s.ch.minSvn) : (readRecord s).ch.minSvn = s.ch.minSvn := by
  rw [readRecord_minSvn, if_neg (BitVec.not_lt.2 h)]

end Sys2Proof.Machine

namespace Sys2Proof.Claims
open Sys2Proof Sys2Proof.Machine

/-- A request that firmware can serve is served. -/
theorem serve_of_served {s : State} {p type plot0 comps needs b} (act : List Byte → State → State)
    (h : Served s p type plot0 comps needs b) : serve p (· == type) plot0 b.length comps needs act s = .next (act b s) := by
  obtain ⟨hready, hhello, hversion, hver, hplot, hcomps, hawake, rfl, hlen⟩ := h
  simp only [serve]
  rw [if_neg (by rw [hready]; exact Bool.noConfusion), if_neg (by rw [hhello]; exact Bool.noConfusion),
    if_neg (not_or.2 ⟨by rw [hversion]; exact Bool.noConfusion, fun hne => hne hver⟩),
    if_neg fun hp => hp.2 (hplot hp.1), if_neg fun hne => hne hlen,
    if_neg (by rw [hcomps]; exact Bool.noConfusion), if_neg (by rw [hawake]; exact Bool.noConfusion)]

theorem svnCommit_of_served {s : State} {b} (h : Served s 0 0x0041 true [] [] b) (hlen : b.length = 0)
    (hlt : s.ch.minSvn < s.ch.svn) : Ends (.svnCommit 0) s fun t => t.fixed = { s.fixed with minSvn := s.ch.svn } := by
  obtain rfl := List.eq_nil_of_length_eq_zero hlen
  have hserve : execSvnCommit 0 s = _ := serve_of_served _ h
  exact ⟨_, hserve, (respond_fixed ..).trans (congrArg (Fixed.mk · s.fixed.straps) (if_pos hlt))⟩

/-- Settles O57, from the four things that a command can do to the fixed part (`exec_fixed_cases`): two leave MIN_SVN, the
ROM's reading of the fuses raises it to what they hold, and plot 0's SVN_COMMIT to the running image's SVN. -/
theorem minSvnRisesOnlyByCommit : Obligations.MinSvnRisesOnlyByCommit := by
  refine ⟨fun c s t h => ?_, fun c s t hfuse h hne => ?_, fun s b _ hserved hlen hlt => ?_,
    fun s hphase hpwrok htrip hlost hvaux => ?_⟩
  · rcases exec_fixed_cases h with hkeep | ⟨st, -, hst⟩ | ⟨-, hrom⟩ | ⟨-, hlt, hcommit⟩
    · exact BitVec.le_of_eq (minSvn_of_fixed hkeep).symm
    · exact BitVec.le_of_eq (congrArg Fixed.minSvn hst).symm
    · rw [minSvn_of_fixed hrom]
      exact minSvn_le_readRecord s
    · rw [show t.ch.minSvn = s.ch.svn from congrArg Fixed.minSvn hcommit]
      exact BitVec.le_of_lt hlt
  · rcases exec_fixed_cases h with hkeep | ⟨st, -, hst⟩ | ⟨-, hrom⟩ | ⟨hc, hlt, hcommit⟩
    · exact absurd (minSvn_of_fixed hkeep) hne
    · exact absurd (congrArg Fixed.minSvn hst) hne
    · exact absurd ((minSvn_of_fixed hrom).trans (readRecord_minSvn_of_le hfuse)) hne
    · exact ⟨hc, hlt, congrArg Fixed.minSvn hcommit⟩
  · obtain ⟨t, ht, hcommit⟩ := svnCommit_of_served hserved hlen hlt
    exact ⟨t, ht, congrArg Fixed.minSvn hcommit⟩
  · obtain ⟨t, ht, hfix⟩ := execBootVerify_fixed s
    rw [if_neg (by simp [hphase, hpwrok, htrip, hlost, hvaux])] at hfix
    exact ⟨t, ht, BitVec.le_trans (minSvnFuse_le_readRecord s) (BitVec.le_of_eq (minSvn_of_fixed hfix).symm)⟩

end Sys2Proof.Claims

/-!
SUPPORT. What the sampled straps decide (R336): the management address and the boot source.
-/
namespace Sys2Proof.Machine

theorem fixed_straps_eq_iff {s : State} {st : Straps} : s.fixed.straps = st ↔
    s.pins.strapHost = st.hostMode ∧ s.pins.strapTile = st.tileId ∧ s.pins.strapBoot = st.bootSrc := by
  cases st
  exact iff_of_eq (Straps.mk.injEq ..)

/-- The static management address (R326): the other fields of HP_MGMT lie above its seven bits. -/
theorem hpMgmt_address (s : State) : regValue s .hpMgmt % 2 ^ 7 = 0x30 + s.pins.strapTile.toNat := by
  have hfields : regFields s .hpMgmt = [ro 0 7 (0x30 + s.pins.strapTile.toNat), flag .ro 7 s.hp.i3c,
    ro 8 7 s.hp.dynAddr.toNat, ro 16 8 s.hp.eid.toNat] := rfl
  have htile : s.pins.strapTile.toNat < 8 := s.pins.strapTile.isLt
  simp only [regValue, hfields, fieldsValue, ro, flag, List.foldl, reduceCtorEq, if_false]
  omega

/-! ### The outcome of a boot -/

theorem foldl_modCore_frame (g : Core → Core) (cs : List Nat) (s : State) :
    (cs.foldl (fun t c => modCore c g t) s).pi = s.pi ∧ (cs.foldl (fun t c => modCore c g t) s).ch.bootSrc = s.ch.bootSrc :=
  foldl_frame (R := fun s t => t.pi = s.pi ∧ t.ch.bootSrc = s.ch.bootSrc) (fun t c => modCore c g t) (fun _ => ⟨rfl, rfl⟩)
    (fun h k => ⟨k.1.trans h.1, k.2.trans h.2⟩) (fun _ _ => ⟨rfl, rfl⟩) cs s

theorem startImage_phase (h body s) : (startImage h body s).pi.phase = .bringUp :=
  congrArg Pilot.phase (foldl_modCore_frame ..).1

theorem startImage_bootSrc (h body s) : (startImage h body s).ch.bootSrc = s.ch.bootSrc :=
  (foldl_modCore_frame ..).2

/-- An image from flash runs, or flash has failed (R241). -/
def FlashTried (t : State) : Prop := (t.pi.phase = .bringUp ∧ t.ch.bootSrc = false) ∨ t.ch.flashFail = true

theorem bootFlash_flashTried (s : State) : FlashTried (bootFlash s) := by
  unfold bootFlash
  dsimp only
  split
  · exact .inl ⟨startImage_phase .., startImage_bootSrc ..⟩
  · split
    · exact .inl ⟨startImage_phase .., startImage_bootSrc ..⟩
    · exact .inr rfl

/-- The state from which the ROM selects the boot source: the record banks read, the cores in service known. -/
def romReady (s : State) : State :=
  { readRecord s with ch := { (readRecord s).ch with bootCores := coresIn (readRecord s) } }

/-- With CH0 in service, STRAP_BOOTSRC selects between the recovery agent and flash (R241). -/
theorem execBootVerify_selects {s : State} (hphase : s.pi.phase = .boot) (hpwrok : s.pi.pwrok = true)
    (htrip : s.pi.trip = false) (hlost : s.pins.vaux12Lost = false) (hvaux : s.pins.vaux12 = true)
    (hcore : coreIn (readRecord s) 0 = true) :
    execBootVerify s = .next (if s.pins.strapBoot then { romReady s with pi := { (romReady s).pi with phase := .recovery } }
      else bootFlash (romReady s)) := by
  unfold execBootVerify
  rw [if_neg (by simp [hphase, hpwrok, htrip, hlost, hvaux])]
  simp only [hcore, Bool.true_eq_false, if_false]
  rfl

end Sys2Proof.Machine

namespace Sys2Proof.Claims
open Sys2Proof Sys2Proof.Machine

theorem powerUp_samples {s : State} (hpwrok : s.pi.pwrok = false) (st : Straps) :
    Ends (.powerUp st) s fun t => t.fixed.straps = st := by
  refine ⟨_, rfl, ?_⟩
  simp [hpwrok]

theorem hrstLRelease_samples {s : State} (hpwrok : s.pi.pwrok = true) (hlow : s.pi.hrstLow = true) (st : Straps) :
    Ends (.hrstLRelease st) s fun t => t.fixed.straps = st := by
  refine ⟨_, rfl, ?_⟩
  simp [hpwrok, hlow]

theorem exec_keeps_straps {c : Instr} {s t : State} (h : exec c s = .next t)
    (hc : ∀ st, c ≠ .powerUp st ∧ c ≠ .hrstLRelease st) : t.fixed.straps = s.fixed.straps := by
  rcases exec_fixed_cases h with hkeep | ⟨st, hsample, -⟩ | ⟨-, hrom⟩ | ⟨-, -, hcommit⟩
  · exact congrArg Fixed.straps hkeep
  · exact absurd hsample (not_or.2 (hc st))
  · exact (congrArg Fixed.straps hrom :)
  · exact (congrArg Fixed.straps hcommit :)

/-- Settles O58: the two samplings, then what a command can do to the fixed part (`exec_fixed_cases`), then what the
sampled values select. -/
theorem strapsAreSampled : Obligations.StrapsAreSampled := by
  refine ⟨fun s st => ⟨fun hpwrok => ?_, fun hpwrok hlow => ?_⟩, fun c s t h hc => ?_, fun s => ⟨rfl, hpMgmt_address s⟩,
    fun s hphase hpwrok htrip hlost hvaux hcore => ?_⟩
  · obtain ⟨t, ht, hst⟩ := powerUp_samples hpwrok st
    exact ⟨t, ht, fixed_straps_eq_iff.1 hst⟩
  · obtain ⟨t, ht, hst⟩ := hrstLRelease_samples hpwrok hlow st
    exact ⟨t, ht, fixed_straps_eq_iff.1 hst⟩
  · exact fixed_straps_eq_iff.1 (exec_keeps_straps h hc)
  · have hboot := execBootVerify_selects hphase hpwrok htrip hlost hvaux hcore
    refine ⟨fun hrec => ⟨_, hboot, ?_⟩, fun hflash => ⟨_, hboot, ?_⟩⟩
    · rw [if_pos hrec]
      exact ⟨rfl, rfl⟩
    · rw [if_neg (by simp [hflash])]
      exact bootFlash_flashTried _

end Sys2Proof.Claims
